-- ==== Sys2Proof/Word.lean ====
section
/-! DEFINITION. Word.lean: the word types and their plainest arithmetic. -/

namespace Sys2Proof

/-- One byte: of store memory, of a frame on the message link, of page data. -/
abbrev Byte := BitVec 8

/-- A counter that rises by one and stays at its ceiling (the statistics counters of R96, R201 and R218 with
ceiling 65,535; the ring and decline counts with 255; the restart count with 4,294,967,295). -/
def satSucc (ceiling n : Nat) : Nat := if n < ceiling then n + 1 else ceiling

/-- A value brought to the nearer end of a range (R213). -/
def clamp (lo hi n : Nat) : Nat := max lo (min n hi)

end Sys2Proof
end

