-- ==== Sys2Proof/Syntax.lean ====
section
/-! DEFINITION. Syntax.lean: the commands the part takes, one constructor of Instr for each row of
spec/opcode_table.json, and the vocabulary their operands are written in. -/

namespace Sys2Proof

/-- A line, 0 to 15. -/
abbrev LineNo := Fin 16

/-- A department account, 0 to 31. -/
abbrev Dept := Fin 32

/-- A store block of 8,192 bytes, 0 to 32,767. -/
abbrev Block := Fin 32768

/-- A string of characters carried with its length: a digit string, a department name, a remote identity.
Whether a string has the form a rule asks for is the rule's own test (Machine/Operands.lean). -/
abbrev Text := List Char

/-- Calendar time (R183): seconds since 2000-01-01 00:00:00 and a millisecond part. -/
structure CalTime where
  sec : Nat
  ms : Nat
  deriving DecidableEq, Repr, Inhabited

/-- What every request taken from the intake queue carries besides its own fields (R207, R210): the tag, and whether
the length of a body that is not empty fits the kind (log entry 8). A request whose length does not fit has no fields that could be read. -/
structure Envelope where
  tag : Byte
  fits : Bool
  deriving DecidableEq, Repr, Inhabited

/-- The requests of R211. -/
inductive ReqKind where
  | setDepartment | removeDepartment | setRoute | removeRoute | setLine | resetLine | readLineStatistics
  | setPolicy | readStatus | restart | setTime | readJournal | releaseJournal | setNotices | readLinkStatistics
  | releaseHold | discardDocument | verifyDocument | readDocument | listDocuments
  | collect | acceptOffer | declineOffer | abortTransfer | confirmCollected
  | addForward | cancelForward | resumeForwarding | readJobs
  | readCallerMemory | forgetCaller | readErrorRecords
  /-- A kind that names no request (R210), with the kind received (R212). -/
  | unknown (kind : Byte)
  deriving DecidableEq, Repr, Inhabited

inductive Priority where
  | normal | urgent
  deriving DecidableEq, Repr, Inhabited

inductive Resolution where
  | standard | fine
  deriving DecidableEq, Repr, Inhabited

/-- The service request of Set Line (R70). -/
inductive ServiceRequest where
  | busyOut | inService | keep
  deriving DecidableEq, Repr, Inhabited

/-- The enable value of one class in Set Notices (R217). -/
inductive Enable where
  | enable | disable | keep
  deriving DecidableEq, Repr, Inhabited

/-- The life-state filter of List Documents (R53). -/
inductive LifeFilter where
  | landing | held | opened | settled | any
  deriving DecidableEq, Repr, Inhabited

/-- The content of DIAL-FAILED (4.3). -/
inductive DialFailure where
  | busy | noAnswer | noTone
  deriving DecidableEq, Repr, Inhabited

/-- What an acknowledgment acknowledges (R72): a RESET, any other command, or a command that was abandoned by R73 or R74. DEDUCED (log
entry 34): R72 ignores the last wherever it arrives, so the event itself says which of the three it is. -/
inductive Acked where
  | reset | other | abandoned
  deriving DecidableEq, Repr, Inhabited

/-- A verdict on a page: the part's own (R86) or the remote's (R133). -/
inductive Verdict where
  | accept | acceptRetrain | reject
  deriving DecidableEq, Repr, Inhabited

/-- The outcomes of an outbound attempt (R135). -/
inductive AttemptOutcome where
  | delivered | busy | noAnswer | lineLost | trainingFailed | pageRejected | incompatible | damaged
  deriving DecidableEq, Repr, Inhabited

/-- The last outcome of a forward entry (R38): an attempt's outcome, or TABLE-FULL at creation (R118). -/
inductive LastOutcome where
  | attempt (o : AttemptOutcome)
  | tableFull
  deriving DecidableEq, Repr, Inhabited

/-- What a channel hands the Forwarding Engine when its attempt ends (R135). -/
structure AttemptEnd where
  job : Nat
  line : LineNo
  outcome : AttemptOutcome
  pages : Nat
  deriving DecidableEq, Repr, Inhabited

/-- The classes of R93 and R106. -/
inductive CallClass where
  | failed | clean | neutral
  deriving DecidableEq, Repr, Inhabited

/-- The receipt outcomes of R33. -/
inductive ReceiptOutcome where
  | complete | continued | partialStoreFull | partialLineLost | partialPageLimit | partialRestart | partialDirectoryFull
  deriving DecidableEq, Repr, Inhabited

/-- The reasons of a REFUSED entry (R169). -/
inductive RefusedReason where
  | directory | quota
  deriving DecidableEq, Repr, Inhabited

/-- The outcome of a FORWARD entry (R121). -/
inductive ForwardResult where
  | delivered
  | failed (cause : LastOutcome)
  | cancelled
  deriving DecidableEq, Repr, Inhabited

/-- The content of a RECEIPT entry (R169). A route key of none reads "default". -/
structure Receipt where
  document : Option Nat
  line : LineNo
  called : Text
  calling : Option Text
  dept : Dept
  routeKey : Option Text
  answerTime : CalTime
  pages : Nat
  outcome : ReceiptOutcome
  digest : Option (BitVec 32)
  continuationOf : Option Nat
  deriving DecidableEq, Repr, Inhabited

/-- The kinds of journal entry and their content (R169). -/
inductive JournalContent where
  | receipt (r : Receipt)
  | refused (line : LineNo) (called : Text) (calling : Option Text) (reason : RefusedReason)
  | forward (document index : Nat) (destination : Text) (result : ForwardResult) (attempts pages : Nat)
  | collect (document pages omitted : Nat)
  | discard (document : Nat)
  | damage (document page : Nat) (block : Block)
  | clock (old : CalTime) (oldTrusted : Bool) (new : CalTime)
  | restart (count : Nat)
  deriving DecidableEq, Repr, Inhabited

/-- One setting of Set Policy (R230): its change mark (none: a value that is neither yes nor no) and its value. -/
structure PolicyField where
  change : Option Bool
  value : Nat
  deriving DecidableEq, Repr, Inhabited

/-- The eight settings as Set Policy carries them (R230). -/
structure PolicyRequest where
  landingAllotment : PolicyField
  inboundReserve : PolicyField
  retryBase : PolicyField
  retryCeiling : PolicyField
  attemptLimit : PolicyField
  failLimit : PolicyField
  answerRings : PolicyField
  offerWindow : PolicyField
  deriving DecidableEq, Repr, Inhabited

/-- A fault standing in one 8-byte group of a block of the external DRAM (R190): one wrong bit of the group, or two. The faults of
a group add up (log entry 3). One that persists outlives every write of its group (R193, R205). -/
structure DramFault where
  block : Block
  group : Fin 1024
  double : Bool
  persists : Bool
  deriving DecidableEq, Repr, Inhabited

/-- The commands: one constructor for each row of spec/opcode_table.json. A field that takes named values is an
Option, none standing for a value that is none of its named ones. -/
inductive Instr where
  -- start-up (chapter 11)
  | powerOn (strapHigh : Bool)
  | resetPinAssert
  | resetPinRelease (strapHigh : Bool)
  | storeInitializationComplete
  -- the message link (chapter 10)
  | frameReceived (bytes : List Byte)
  | byteGapTimeout
  | requestToSendChange (active : Bool)
  | beginFrameSend
  | unknownKindRequest (tag kind : Byte)
  -- host requests: configuration
  | setDepartment (r : Envelope) (dept : Nat) (name : Text) (guarantee cap retention : Nat)
  | removeDepartment (r : Envelope) (dept : Nat)
  | setRoute (r : Envelope) (key : Text) (dept : Nat) (hold collect : Option Bool) (priority : Option Priority) (dests : List Text)
  | removeRoute (r : Envelope) (key : Text)
  | setLine (r : Envelope) (line : Nat) (service : Option ServiceRequest) (outbound : Option Bool) (maxStep : Nat) (key : Option Text)
  | resetLine (r : Envelope) (line : Nat)
  | readLineStatistics (r : Envelope) (line : Nat) (clear : Bool)
  | setPolicy (r : Envelope) (p : PolicyRequest)
  | readStatus (r : Envelope)
  | restart (r : Envelope)
  | restartEnd
  | setTime (r : Envelope) (sec : BitVec 32) (ms : Nat)
  | readJournal (r : Envelope) (seq : BitVec 32)
  | releaseJournal (r : Envelope) (seq : BitVec 32)
  | setNotices (r : Envelope) (line dept store journal integrity forward : Option Enable)
  | readLinkStatistics (r : Envelope) (clear : Bool)
  -- host requests: documents
  | releaseHold (r : Envelope) (doc : Nat)
  | discardDocument (r : Envelope) (doc : Nat)
  | verifyDocument (r : Envelope) (doc : Nat)
  | verifyStep (doc : Nat)
  | readDocument (r : Envelope) (doc firstPage : Nat)
  | listDocuments (r : Envelope) (dept : Nat) (filter : Option LifeFilter) (start : Nat)
  | collect (r : Envelope) (dept timeout : Nat)
  | acceptOffer (r : Envelope) (doc : Nat)
  | declineOffer (r : Envelope) (doc : Nat)
  | abortTransfer (r : Envelope) (doc : Nat)
  | confirmCollected (r : Envelope) (doc : Nat)
  -- host requests: forwarding, caller memory, integrity
  | addForward (r : Envelope) (doc : Nat) (digits : Text)
  | cancelForward (r : Envelope) (doc index : Nat)
  | resumeForwarding (r : Envelope)
  | readJobs (r : Envelope) (doc start : Nat)
  | readCallerMemory (r : Envelope) (index : Nat)
  | forgetCaller (r : Envelope) (number : Text)
  | readErrorRecords (r : Envelope) (serial : Nat)
  -- line events and the line channels' waits (chapters 4 and 6)
  | ring (n : LineNo)
  | ringEnd (n : LineNo)
  | digits (n : LineNo) (string : Text) (complete : Bool)
  | callingNumber (n : LineNo) (number : Text)
  | digitWindowExpiry (n : LineNo)
  | commandAck (n : LineNo) (acked : Acked)
  | ackLimitExpiry (n : LineNo)
  | frontEndFault (n : LineNo)
  | remoteChoice (n : LineNo) (step : Nat) (resolution : Resolution) (identity : Text)
  | trainingDone (n : LineNo) (step : Nat) (pass : Bool)
  | pageData (n : LineNo) (bytes : List Byte)
  | pageEnd (n : LineNo) (total bad : Nat) (last : Bool)
  | carrierLost (n : LineNo)
  | released (n : LineNo)
  | receiverSignalWaitExpiry (n : LineNo)
  | pageWaitExpiry (n : LineNo)
  | releaseWaitExpiry (n : LineNo)
  | connected (n : LineNo)
  | dialFailed (n : LineNo) (reason : DialFailure)
  | dialWaitExpiry (n : LineNo)
  | remoteOffer (n : LineNo) (maxStep : Nat) (fine : Bool) (identity : Text)
  | verdict (n : LineNo) (v : Verdict)
  | senderWaitExpiry (n : LineNo)
  -- events between the blocks and of the part's timers
  | attemptOutcome (a : AttemptEnd)
  | callerClassification (number : Text) (cls : CallClass)
  | jobDue (job : Nat)
  | arbiterRun
  | collectExpiry (tag : Byte)
  | documentJoinsReadyQueue (doc : Nat)
  | offerWindowExpiry (doc : Nat)
  | retentionExpiry (doc : Nat)
  | spontaneousAppend (content : JournalContent)
  | calendarClockLimit
  -- power and the link's byte errors
  | powerFailure
  | byteWithoutStopBit
  deriving DecidableEq, Repr

end Sys2Proof
end

