-- ==== Sys2Proof/Decode.lean ====
section
/-! DEFINITION. Decode.lean: the commands that words of the table's bits spell. -/

namespace Sys2Proof

/-- The command that a word spells by the table's bits. No row of spec/opcode_table.json gives bits: a command is an event at one of the
part's ports or inside it, and the bytes of a request frame are not assigned kinds or bodies by the manual (log entry 19). So every word
spells none. -/
def decodeTableWord (_nbits _w : Nat) : Option Instr := none

end Sys2Proof
end

