-- ==== Sys2Proof/Config.lean ====
section
/-! DEFINITION. Config.lean: what the manual leaves to the world outside the part. One constant, with no body. -/

namespace Sys2Proof

/-- FREE VALUE (log entry 3). The faults that stand in the external DRAM after time has passed, from those that stood before: the
arguments are how often time has passed over the DRAM until then, over all starts, the run time now reached, and the faults before.
The manual says what a read does with an error in a group (R191 to R194) and nothing of when errors appear or go; nothing constrains
this function. -/
opaque Config.dramUpset : Nat → Nat → List DramFault → List DramFault

end Sys2Proof
end

