-- ==== Sys2Proof/Machine/State.lean ====
section
/-! DEFINITION. Machine/State.lean: every piece of state the manual gives the part, block by block, as plain data, the
responses and frames it sends, the reasons it can stop, and the state right after a start. -/

namespace Sys2Proof.Machine

open Sys2Proof

/-- Faults: NONE. No rule of the manual stops the part: an event taken in a state in which it does not act is
ignored (R75), and a request that cannot be carried out is answered with a status (R212). A line's FAULT is a
service state (R73) and a bit error of the store is handled by R193 and R194; both are next states. -/
inductive Fault where
  deriving DecidableEq, Repr

/-- Refusals. -/
inductive Refusal where
  /-- Raised by an arm of exec for a command that has no meaning yet. Safe: the machine stops where the part goes on.
  No arm raises it: every command of the table has its meaning. -/
  | notModelled (mnemonic : String)
  deriving DecidableEq, Repr

/-- The outcome of one command. -/
abbrev Result (σ : Type) := Host.Outcome σ Fault Refusal

/-! ## Phases, clocks and policy (chapters 8 and 11) -/

/-- The phases of R221. -/
inductive Phase where
  | starting | ready | restarting
  deriving DecidableEq, Repr, Inhabited

/-- The reset causes of R221. -/
inductive ResetCause where
  | powerOn | resetPin | restartRequest
  deriving DecidableEq, Repr, Inhabited

/-- The figures of the Restart response (R228) that are counted while the phase RESTARTING lasts, with the tag of the
request. -/
structure RestartTally where
  tag : Byte
  callsEnded : Nat
  documentsLanded : Nat
  callsRejected : Nat
  attemptsReleased : Nat
  collectDropped : Nat
  offersWithdrawn : Nat
  transferStopped : Option Nat
  verificationsEnded : Nat
  framesDiscarded : Nat
  deriving DecidableEq, Repr, Inhabited

/-- The part as a whole (R221, R222). phase is none while the part is held in reset. -/
structure Part where
  powerGood : Bool
  pinAsserted : Bool
  phase : Option Phase
  cause : ResetCause
  restarts : Nat
  tally : Option RestartTally
  deriving DecidableEq, Repr, Inhabited

/-- Run time (R186) in milliseconds, a count of 64 bits, and the calendar clock with its trusted flag (R183). -/
structure Clock where
  run : Nat
  cal : CalTime
  trusted : Bool
  deriving DecidableEq, Repr, Inhabited

/-- The eight policy settings (R230); the offer window and the retry figures are held in seconds, as R230 gives them. -/
structure Policy where
  landingAllotment : Nat
  inboundReserve : Nat
  retryBase : Nat
  retryCeiling : Nat
  attemptLimit : Nat
  failLimit : Nat
  answerRings : Nat
  offerWindow : Nat
  deriving DecidableEq, Repr, Inhabited

/-! ## The Page Store (chapter 1) -/

/-- Why an allocation test failed (R12). -/
inductive AllocCause where
  | cap | shared
  deriving DecidableEq, Repr, Inhabited

/-- The last failure record of an account (R12). -/
structure LastFailure where
  cause : AllocCause
  count : Nat
  run : Nat
  deriving DecidableEq, Repr, Inhabited

/-- A department account (1.2); its number is its place in the table. -/
structure Account where
  configured : Bool
  name : Text
  guarantee : Nat
  cap : Nat
  retention : Nat
  used : Nat
  resv : Nat
  lastFailure : Option LastFailure
  deriving DecidableEq, Repr, Inhabited

/-- A line's entry of the allotment table (R14). -/
structure Allotment where
  dept : Option Dept
  count : Nat
  deriving DecidableEq, Repr, Inhabited

/-- The block lists outside the pages (R3, R4), the accounts, the allotment table and the pressure state (R21). The
spare set is listed lowest number first. -/
structure PageStore where
  free : List Block
  spares : List Block
  retired : List Block
  accounts : Vector Account 32
  allotments : Vector Allotment 16
  pressure : Bool
  deriving DecidableEq, Repr

/-! ## The Document Directory (chapter 2) -/

/-- The plan of a route (R64). -/
structure Plan where
  hold : Bool
  collect : Bool
  dests : List Text
  deriving DecidableEq, Repr, Inhabited

/-- The life states of 2.2; opened is OPEN. -/
inductive Life where
  | landing | held | opened | settled
  deriving DecidableEq, Repr, Inhabited

/-- The collect dispositions of R37. -/
inductive Disposition where
  | none | due | offered | transferring | sent | done
  deriving DecidableEq, Repr, Inhabited

/-- An accepted page's record (2.1). -/
structure Page where
  number : Nat
  resolution : Resolution
  step : Nat
  length : Nat
  blocks : List Block
  total : Nat
  bad : Nat
  verdict : Verdict
  damaged : Bool
  deriving DecidableEq, Repr, Inhabited

/-- The page now arriving (R31): its blocks, the bytes written, the bytes of its last, partly filled group that the
store memory interface still holds (R190), and its running CRC (R32). -/
structure Landing where
  number : Nat
  resolution : Resolution
  step : Nat
  blocks : List Block
  length : Nat
  held : List Byte
  crc : BitVec 32
  deriving DecidableEq, Repr, Inhabited

/-- The states of a forward entry (R38). -/
inductive ForwardState where
  | pending | delivered | failed | cancelled
  deriving DecidableEq, Repr, Inhabited

/-- A forward entry (R38). -/
structure ForwardEntry where
  destination : Text
  state : ForwardState
  attempts : Nat
  last : Option LastOutcome
  pages : Nat
  deriving DecidableEq, Repr, Inhabited

/-- The fields of a document record that Read Document reports (2.1, R52). A route key of none reads "default". -/
structure DocFields where
  number : Nat
  dept : Dept
  routeKey : Option Text
  plan : Plan
  priority : Priority
  line : LineNo
  called : Text
  calling : Option Text
  remoteId : Option Text
  answerTime : CalTime
  completionTime : Option CalTime
  settleTime : Option CalTime
  life : Life
  partialFlag : Bool
  damaged : Bool
  outcome : Option ReceiptOutcome
  digest : Option (BitVec 32)
  continuationOf : Option Nat
  continuedBy : Option Nat
  disposition : Disposition
  declines : Nat
  forwards : List ForwardEntry
  receiptSeq : Option Nat
  verifying : Bool
  deadline : Option Nat
  deriving DecidableEq, Repr, Inhabited

/-- A document record (2.1) with the running CRC it holds while LANDING (R32). -/
structure Document extends DocFields where
  pages : List Page
  landing : Option Landing
  crc : BitVec 32
  deriving DecidableEq, Repr, Inhabited

/-- A verification in progress (R49, R50): its document, the tag of its request, the page and byte offset of its next
stretch, and its running CRC. -/
structure Verification where
  doc : Nat
  tag : Byte
  page : Nat
  offset : Nat
  crc : BitVec 32
  deriving DecidableEq, Repr, Inhabited

/-- The directory: the records held, oldest number first (a slot is free when fewer than 4,096 are held), the
next-number counter (R29), the ready queues (R39), the reclaim list (R43) and the verifications. -/
structure Directory where
  docs : List Document
  nextNumber : Nat
  ready : Vector (List Nat) 32
  reclaim : List Nat
  verifications : List Verification
  deriving DecidableEq, Repr

/-! ## Routes (chapter 3) -/

/-- A route entry (3.1). -/
structure RouteEntry where
  key : Text
  dept : Dept
  plan : Plan
  priority : Priority
  deriving DecidableEq, Repr, Inhabited

/-- What a lookup answers (R64). -/
structure RouteResult where
  dept : Dept
  key : Option Text
  plan : Plan
  priority : Priority
  deriving DecidableEq, Repr, Inhabited

/-! ## Line channels (chapters 4 and 6) -/

/-- The service states of R68. -/
inductive Service where
  | busyOut | inService | fault
  deriving DecidableEq, Repr, Inhabited

/-- The fault causes of R68. -/
inductive FaultCause where
  | ackTimeout | frontEndFault | releaseTimeout
  deriving DecidableEq, Repr, Inhabited

/-- The channel states of 4.2. -/
inductive Chan where
  | idle | alerted | negotiating | training | receiving | verdict
  | seized | dialling | offeringWait | sending | awaitingVerdict | releasing
  deriving DecidableEq, Repr, Inhabited

/-- The commands of 4.3. -/
inductive PortCommand where
  | presentBusy | presentIdle | answer | reject
  | offer (maxStep : Nat) (fine : Bool)
  | choose (step : Nat) (resolution : Resolution)
  | train (step : Nat)
  | trainingReply (positive : Bool)
  | sendPageData (bytes : List Byte)
  | pageEndMark (last : Bool)
  | sendVerdict (v : Verdict)
  | dial (digits : Text)
  | release
  | reset
  deriving DecidableEq, Repr, Inhabited

/-- A command awaiting acknowledgment, with the run time at which its limit expires (R72). -/
structure AckWait where
  command : PortCommand
  expiry : Nat
  deriving DecidableEq, Repr, Inhabited

/-- The waits of chapter 4: the digit window (R76), the receiver's 6 s waits for a remote signal and 12 s wait inside a
page (R90), the wait for RELEASED (R92), the dial wait and the sender's 6 s waits (R95). -/
inductive WaitKind where
  | digitWindow | receiverSignal | page | release | dial | sender
  deriving DecidableEq, Repr, Inhabited

/-- The single wait of a call record and its expiry in run time (R71). -/
structure Wait where
  kind : WaitKind
  expiry : Nat
  deriving DecidableEq, Repr, Inhabited

/-- The discard cause of a landing page (R85). -/
inductive DiscardCause where
  | oversize | storeFull
  deriving DecidableEq, Repr, Inhabited

/-- The cause of a REJECT verdict (R86). -/
inductive VerdictCause where
  | quality | empty | oversize | storeFull
  deriving DecidableEq, Repr, Inhabited

/-- The receiver's call record (4.2). The model adds which state a training was entered from (R84) and the last-page
flag of the page just judged (R87). -/
structure RxCall where
  rings : Nat
  digits : Text
  closed : Bool
  calling : Option Text
  route : Option RouteResult
  document : Option Nat
  offeredMax : Option Nat
  fineAllowed : Option Bool
  step : Option Nat
  resolution : Option Resolution
  trainFails : Nat
  pages : Nat
  rejects : Nat
  discard : Option DiscardCause
  lastVerdict : Option Verdict
  lastCause : Option VerdictCause
  anyReject : Bool
  anyRetrain : Bool
  firstVerdict : Bool
  fromReceiving : Bool
  lastPage : Bool
  deriving DecidableEq, Repr, Inhabited

/-- The sender's call record (4.2, 6.3, R106): the model holds the document beside the job number and the offset of the
page's next SEND-PAGE-DATA. -/
structure TxCall where
  job : Nat
  document : Nat
  destination : Text
  step : Nat
  resolution : Resolution
  page : Nat
  sends : Nat
  offset : Nat
  accepted : Nat
  trainFails : Nat
  glare : Bool
  verdictReceived : Bool
  anyRetrain : Bool
  anyResend : Bool
  deriving DecidableEq, Repr, Inhabited

/-- The two roles of a call record. -/
inductive CallPart where
  | receiver (c : RxCall)
  | sender (c : TxCall)
  deriving DecidableEq, Repr, Inhabited

/-- A call record: its wait and its role's fields. -/
structure Call where
  wait : Option Wait
  part : CallPart
  deriving DecidableEq, Repr, Inhabited

/-- How far a front-end reset has got (R74): none in progress, RESET awaits its acknowledgment, or the PRESENT command
that follows it does. -/
inductive ResetStage where
  | none | awaitReset | awaitPresent
  deriving DecidableEq, Repr, Inhabited

/-- The nine counters of R96. -/
structure LineStats where
  offered : Nat
  offeredSeized : Nat
  answered : Nat
  refused : Nat
  pagesAccepted : Nat
  pagesRejected : Nat
  trainFails : Nat
  placed : Nat
  delivered : Nat
  deriving DecidableEq, Repr, Inhabited

/-- A line channel: service state and its companions (R68), settings (R69), channel state, call record, front-end reset,
commands awaiting acknowledgment in the order they were sent, and statistics. -/
structure Line where
  service : Service
  pendingService : Option Service
  returnState : Option Service
  faultCause : Option FaultCause
  outbound : Bool
  maxStep : Nat
  defaultKey : Option Text
  chan : Chan
  call : Option Call
  reset : ResetStage
  acks : List AckWait
  stats : LineStats
  deriving DecidableEq, Repr, Inhabited

/-! ## Caller Memory (chapter 5) -/

/-- An entry of the Caller Memory (5.3). The table is kept in the number order of R113. -/
structure CallerEntry where
  number : Text
  ceiling : Nat
  fails : Nat
  lastUsed : Nat
  deriving DecidableEq, Repr, Inhabited

/-- A classification handed by a channel and not yet taken by the Caller Memory (R107). -/
structure Classification where
  number : Text
  cls : CallClass
  deriving DecidableEq, Repr, Inhabited

/-- The Caller Memory's table and the classifications on their way to it. -/
structure Callers where
  table : List CallerEntry
  handed : List Classification
  deriving DecidableEq, Repr, Inhabited

/-! ## Forwarding (chapter 6) -/

/-- A job (6.1); inCall is its state IN-CALL. -/
structure Job where
  number : Nat
  document : Nat
  index : Nat
  destination : Text
  inCall : Bool
  attempts : Nat
  nextDue : Nat
  urgent : Bool
  interrupted : Bool
  line : Option LineNo
  deriving DecidableEq, Repr, Inhabited

/-- The last attempt end of the FORWARD snapshot (R144). -/
structure LastEnd where
  document : Nat
  index : Nat
  outcome : LastOutcome
  final : Bool
  deriving DecidableEq, Repr, Inhabited

/-- The arbiter's view of one line (R122). -/
structure ViewEntry where
  available : Bool
  permitted : Bool
  deriving DecidableEq, Repr, Inhabited

/-- The Forwarding Engine: jobs, suspension, next job number, the arbiter's view, the last attempt end, the attempt
outcomes handed and not yet taken (R135, R140), and whether a cause has arrived for a further run of the arbiter (R123). -/
structure Forwarding where
  jobs : List Job
  suspended : Bool
  nextJob : Nat
  view : Vector ViewEntry 16
  lastEnd : Option LastEnd
  handed : List AttemptEnd
  runOwed : Bool
  deriving DecidableEq, Repr

/-! ## Collection (chapter 7) -/

/-- A waiting Collect request (7.1). -/
structure WaitingCollect where
  tag : Byte
  dept : Dept
  timeout : Nat
  expiry : Nat
  deriving DecidableEq, Repr, Inhabited

/-- An open offer (7.2). -/
structure Offer where
  doc : Nat
  dept : Dept
  expiry : Nat
  deriving DecidableEq, Repr, Inhabited

/-- The ending of a transfer, and the status of its Transfer End (R155, R159). -/
inductive Ending where
  | complete | omissions | aborted
  deriving DecidableEq, Repr, Inhabited

/-- The open transfer (R155). -/
structure Transfer where
  doc : Nat
  page : Nat
  offset : Nat
  bytesSent : Nat
  crc : BitVec 32
  omitted : List Nat
  pagesWhole : Nat
  ending : Option Ending
  deriving DecidableEq, Repr, Inhabited

/-- A sent record (R162). -/
structure SentRecord where
  doc : Nat
  pagesWhole : Nat
  omitted : Nat
  deriving DecidableEq, Repr, Inhabited

/-- The Collect Service: collect queue (oldest first), open offers, the open transfer and the sent records. -/
structure Collecting where
  queue : List WaitingCollect
  offers : List Offer
  transfer : Option Transfer
  sent : List SentRecord
  deriving DecidableEq, Repr, Inhabited

/-! ## The Receipt Journal (chapter 8) -/

/-- A journal entry (8.1). -/
structure Entry where
  seq : Nat
  content : JournalContent
  time : CalTime
  trusted : Bool
  deriving DecidableEq, Repr, Inhabited

/-- The journal: the held entries oldest first, the next sequence number, the release point, the number of unreleased
entries and the overrun indicator (R171). Held is the ring's length, the last sequence is its newest entry's, and high
water holds exactly while unreleased is 8,128 or more (R179, R180). -/
structure Journal where
  ring : List Entry
  nextSeq : Nat
  releasePoint : Nat
  unreleased : Nat
  overrun : Bool
  deriving DecidableEq, Repr, Inhabited

/-! ## The Integrity Monitor (chapter 9) -/

/-- A block's health (R192). -/
inductive Health where
  | healthy | weak | bad
  deriving DecidableEq, Repr, Inhabited

/-- A block's health entry (R192). -/
structure HealthEntry where
  health : Health
  ce : Nat
  deriving DecidableEq, Repr, Inhabited

/-- The readers of R191. -/
inductive Reader where
  | transfer | send (line : LineNo) | verify
  deriving DecidableEq, Repr, Inhabited

/-- The kinds of error record (R200). -/
inductive ErrorKind where
  | ce | ue
  deriving DecidableEq, Repr, Inhabited

/-- An error record (R200). -/
structure ErrorRecord where
  serial : Nat
  kind : ErrorKind
  run : Nat
  reader : Reader
  document : Nat
  page : Nat
  block : Block
  offset : Nat
  groups : Nat
  after : HealthEntry
  journalSeq : Option Nat
  deriving DecidableEq, Repr, Inhabited

/-- The monitor: the health table (only blocks whose entry is not HEALTHY with CE count 0 are listed, lowest block first),
the spares-exhausted mark (R197), the error records in serial order, the next serial and the two counts. -/
structure Integrity where
  health : List (Block × HealthEntry)
  exhausted : Bool
  records : List ErrorRecord
  nextSerial : Nat
  corrected : Nat
  uncorrectable : Nat
  deriving DecidableEq, Repr, Inhabited

/-! ## What the part sends to the host (chapter 10) -/

/-- The statuses of R212. -/
inductive Status where
  | done | notReady | unknownKind | badLength | badArgument | noSuch | wrongState | inUse | limit | tableFull
  | journalFull | busy | tooLate | timedOut
  deriving DecidableEq, Repr, Inhabited

/-- The store figures of R26. -/
structure StoreFigures where
  freeBlocks : Nat
  used : Nat
  sharedPool : Nat
  sharedCommitted : Nat
  pEnter : Nat
  pLeave : Nat
  pressure : Bool
  reserved : Nat
  sparesLeft : Nat
  retiredCount : Nat
  sparesExhausted : Bool
  deriving DecidableEq, Repr, Inhabited

/-- A line as Read Status shows it (R233). -/
structure LineView where
  service : Service
  pendingService : Option Service
  chan : Chan
  deriving DecidableEq, Repr, Inhabited

/-- The figures of Read Status (R233). -/
structure StatusReport where
  phase : Phase
  cause : ResetCause
  restarts : Nat
  run : Nat
  cal : CalTime
  trusted : Bool
  forwardingSuspended : Bool
  answeringSuspended : Bool
  store : StoreFigures
  recordsInUse : Nat
  unreleased : Nat
  overrun : Bool
  lines : List LineView
  deriving DecidableEq, Repr, Inhabited

/-- The content of the Restart response (R228). -/
structure RestartReport where
  restarts : Nat
  entry : Option Nat
  run : Nat
  callsEnded : Nat
  documentsLanded : Nat
  callsRejected : Nat
  attemptsReleased : Nat
  collectDropped : Nat
  offersWithdrawn : Nat
  transferStopped : Option Nat
  verificationsEnded : Nat
  framesDiscarded : Nat
  forwardingSuspended : Bool
  deriving DecidableEq, Repr, Inhabited

/-- The figures every Read Journal response carries (R178). -/
structure JournalFigures where
  last : Option Nat
  oldest : Option Nat
  releasePoint : Nat
  unreleased : Nat
  overrun : Bool
  more : Bool
  deriving DecidableEq, Repr, Inhabited

/-- The JOURNAL snapshot (R182). -/
structure JournalSnapshot where
  last : Option Nat
  next : Nat
  oldest : Option Nat
  releasePoint : Nat
  held : Nat
  unreleased : Nat
  highWater : Bool
  overrun : Bool
  cal : CalTime
  trusted : Bool
  run : Nat
  deriving DecidableEq, Repr, Inhabited

/-- The offer summary (R150). -/
structure OfferSummary where
  document : Nat
  dept : Dept
  routeKey : Option Text
  priority : Priority
  life : Life
  pageCount : Nat
  bytes : Nat
  frames : Nat
  digest : Option (BitVec 32)
  partialFlag : Bool
  damaged : Bool
  outcome : Option ReceiptOutcome
  damagedPages : List Nat
  called : Text
  calling : Option Text
  remoteId : Option Text
  answerTime : CalTime
  completionTime : Option CalTime
  continuationOf : Option Nat
  continuedBy : Option Nat
  declines : Nat
  timeout : Nat
  windowMs : Nat
  deriving DecidableEq, Repr, Inhabited

/-- The results of a verification (R50). -/
inductive VerifyResult where
  | damaged | isMatch | mismatch
  deriving DecidableEq, Repr, Inhabited

/-- The integrity counts that Read Error Records and the INTEGRITY snapshot share (R202, R203). -/
structure IntegrityFigures where
  corrected : Nat
  uncorrectable : Nat
  weakInService : Nat
  badInService : Nat
  sparesLeft : Nat
  retiredCount : Nat
  sparesExhausted : Bool
  deriving DecidableEq, Repr, Inhabited

/-- The six classes as they stand (R217). -/
structure Classes where
  line : Bool
  department : Bool
  store : Bool
  journal : Bool
  integrity : Bool
  forward : Bool
  deriving DecidableEq, Repr, Inhabited

/-- The link's four counters (R218). -/
structure LinkStats where
  frames : Nat
  checkErrors : Nat
  lengthErrors : Nat
  overruns : Nat
  deriving DecidableEq, Repr, Inhabited

/-- The link rates of R206. -/
inductive LinkRate where
  | slow   -- 921,600 bit/s
  | fast   -- 3,000,000 bit/s
  deriving DecidableEq, Repr, Inhabited

/-- For each setting of Set Policy, whether the request changed it (R230). -/
structure PolicyMarks where
  landingAllotment : Bool
  inboundReserve : Bool
  retryBase : Bool
  retryCeiling : Bool
  attemptLimit : Bool
  failLimit : Bool
  answerRings : Bool
  offerWindow : Bool
  deriving DecidableEq, Repr, Inhabited

/-- The content of a response after its kind and status (R212), as the owning rule gives it. -/
inductive Content where
  | empty
  | department (guarantee cap retention sharedPool : Nat)
  | route (entry : RouteEntry) (replaced : Bool) (size : Nat)
  | routeRemoved (dept : Dept) (left : Nat)
  | line (outbound : Bool) (maxStep : Nat) (key : Option Text) (service : Service) (pending : Option Service)
  | lineStats (stats : LineStats)
  | policy (p : Policy) (changed : PolicyMarks)
  | status (r : StatusReport)
  | restart (r : RestartReport)
  | timeSet (new old : CalTime) (oldTrusted : Bool) (seq : Option Nat)
  | journal (entries : List Entry) (f : JournalFigures)
  | journalReleased (releasePoint released unreleased : Nat) (left cleared : Bool)
  | notices (c : Classes) (removed : Nat)
  | linkStats (stats : LinkStats) (rate : LinkRate) (sendCount : Byte)
  | discarded (pages blocks : Nat)
  | verified (result : VerifyResult) (stored recomputed : Option (BitVec 32)) (damagedPages : List Nat)
  | document (d : DocFields) (pageCount firstPage : Nat) (pages : List Page)
  | documents (numbers : List Nat) (more : Bool)
  | offer (o : OfferSummary)
  | timedOut (dept : Dept) (timeout : Nat)
  | accepted (document pageCount bytes frames : Nat)
  | declined (document declines : Nat)
  | confirmed (seq : Option Nat) (settled : Bool)
  | forwardAdded (index job : Nat)
  | forwardCancelled (wasInCall : Bool)
  | resumed (jobs : Nat) (cleared : Bool)
  | jobs (count : Nat) (suspended : Bool) (start : Nat) (list : List Job) (more : Bool)
  | callers (count failLimit index : Nat) (entries : List CallerEntry)
  | forgotten (ceiling fails : Nat)
  | errors (held : Nat) (oldest : Option Nat) (next : Nat) (f : IntegrityFigures) (records : List ErrorRecord) (overwritten : Bool)
  deriving DecidableEq, Repr, Inhabited

/-- A response (R212). -/
structure Response where
  tag : Byte
  kind : ReqKind
  status : Status
  content : Content
  deriving DecidableEq, Repr, Inhabited

/-- The 52 subjects (10.6). -/
inductive Subject where
  | line (n : LineNo)
  | department (d : Dept)
  | store | journal | integrity | forward
  deriving DecidableEq, Repr, Inhabited

/-- The role shown in the LINE snapshot. -/
inductive Role where
  | receiver | sender
  deriving DecidableEq, Repr, Inhabited

/-- What the LINE snapshot carries of a receiving call (R98), and its offered maximum (R104). -/
structure RxSnapshot where
  document : Option Nat
  pages : Nat
  offeredMax : Option Nat
  step : Option Nat
  resolution : Option Resolution
  trainFails : Nat
  lastVerdict : Option Verdict
  lastCause : Option VerdictCause
  deriving DecidableEq, Repr, Inhabited

/-- What the LINE snapshot carries of a sending call: its job number (R98, R127) and its current step (R104). -/
structure TxSnapshot where
  job : Nat
  step : Nat
  deriving DecidableEq, Repr, Inhabited

/-- The snapshots of the six classes (R26, R27, R98, R144, R182, R203). -/
inductive Snapshot where
  | line (n : LineNo) (service : Service) (pending ret : Option Service) (cause : Option FaultCause) (chan : Chan)
      (role : Option Role) (outbound : Bool) (maxStep : Nat) (key : Option Text) (rx : Option RxSnapshot)
      (tx : Option TxSnapshot) (stats : LineStats)
  | department (d : Dept) (configured : Bool) (name : Text) (guarantee cap retention used resv committed borrow : Nat)
      (lastFailure : Option LastFailure) (readyLength : Nat)
  | store (f : StoreFigures)
  | journal (j : JournalSnapshot)
  | integrity (newest : Option ErrorRecord) (next : Nat) (f : IntegrityFigures) (weakRetired badRetired : Nat)
  | forward (suspended : Bool) (jobs waiting due inCall : Nat) (earliest : Option Nat) (last : Option LastEnd)
  deriving DecidableEq, Repr, Inhabited

/-- A frame of the open transfer (R156, R159). -/
inductive TransferFrame where
  | pageData (document page offset : Nat) (chunk : List Byte)
  | transferEnd (document : Nat) (status : Ending) (bytesSent : Nat) (stored : Option (BitVec 32))
      (sentDigest : BitVec 32) (pagesWhole : Nat) (omitted : List Nat)
  deriving DecidableEq, Repr, Inhabited

/-- A frame the part sends (R207): a response carries its request's tag, the others the send count. -/
inductive OutFrame where
  | response (r : Response)
  | notice (tag : Byte) (subject : Subject) (snapshot : Snapshot)
  | transfer (tag : Byte) (f : TransferFrame)
  deriving DecidableEq, Repr, Inhabited

/-- A complete frame from the host (R207): kind, tag and body. -/
structure Frame where
  kind : Byte
  tag : Byte
  body : List Byte
  deriving DecidableEq, Repr, Inhabited

/-- The message link: the rate sampled from the strap, the host's request-to-send, the receiver's bytes of a frame not yet
complete (empty while it hunts) with the run time of the last byte (R208), the intake queue, the response queue, the notice set, the enabled classes, the
counters, the send count, the transfer's waiting frame, the frame whose sending began last, and whether notices wait
for the Restart response (R219). -/
structure Link where
  rate : LinkRate
  rts : Bool
  rx : List Byte
  rxTime : Nat
  intake : List Frame
  responses : List Response
  notices : List Subject
  classes : Classes
  stats : LinkStats
  sendCount : Byte
  waiting : Option TransferFrame
  onLine : Option OutFrame
  holdNotices : Bool
  deriving DecidableEq, Repr, Inhabited

/-- The faults of the external DRAM (R190), the model's own field (log entry 3): those now standing, and how often time has passed
over it, which no start resets, so that each passing draws a free value of its own. -/
structure Dram where
  faults : List DramFault
  draws : Nat
  deriving DecidableEq, Repr, Inhabited

/-- The whole part: the queue of commands that wait, the clocks and settings, and the ten blocks. mem is the store memory's
content (only bytes that are not 0 are listed, lowest address first), and dram the faults of the DRAM that holds it. -/
structure State where
  pending : List Instr
  part : Part
  clock : Clock
  policy : Policy
  store : PageStore
  mem : List Host.Cell
  dram : Dram
  dir : Directory
  routes : List RouteEntry
  lines : Vector Line 16
  callers : Callers
  fwd : Forwarding
  collect : Collecting
  journal : Journal
  integrity : Integrity
  link : Link
  deriving DecidableEq, Repr

/-! ## The state right after a start -/

/-- The policy defaults of R230. -/
def Policy.defaults : Policy where
  landingAllotment := 16
  inboundReserve := 4
  retryBase := 60
  retryCeiling := 3600
  attemptLimit := 6
  failLimit := 5
  answerRings := 2
  offerWindow := 5

/-- Account 0 after a destructive start (R7). -/
def Account.general : Account where
  configured := true
  name := ['G', 'e', 'n', 'e', 'r', 'a', 'l']
  guarantee := 0
  cap := 32704
  retention := 24
  used := 0
  resv := 0
  lastFailure := none

/-- An unconfigured account (R7, R25). -/
def Account.absent : Account where
  configured := false
  name := []
  guarantee := 0
  cap := 0
  retention := 0
  used := 0
  resv := 0
  lastFailure := none

/-- A line's statistics at a destructive start (R96). -/
def LineStats.zero : LineStats := ⟨0, 0, 0, 0, 0, 0, 0, 0, 0⟩

/-- A line at a destructive start (R68, R69, R71, R100). -/
def Line.fresh : Line where
  service := .busyOut
  pendingService := none
  returnState := none
  faultCause := none
  outbound := false
  maxStep := 5
  defaultKey := none
  chan := .idle
  call := none
  reset := .none
  acks := []
  stats := LineStats.zero

/-- The link's counters at a destructive start (R218). -/
def LinkStats.zero : LinkStats := ⟨0, 0, 0, 0⟩

/-- Every class disabled (R215). -/
def Classes.none : Classes := ⟨false, false, false, false, false, false⟩

/-- The link at a destructive start (R220): the level of request-to-send is the host's and stays as it is. -/
def Link.fresh (rate : LinkRate) (rts : Bool) : Link where
  rate := rate
  rts := rts
  rx := []
  rxTime := 0
  intake := []
  responses := []
  notices := []
  classes := Classes.none
  stats := LinkStats.zero
  sendCount := 0
  waiting := none
  onLine := none
  holdNotices := false

/-- The Page Store before store initialization completes (R2, R7, R14, R21): the lists are built by
STORE_INITIALIZATION_COMPLETE. -/
def PageStore.fresh : PageStore where
  free := []
  spares := []
  retired := []
  accounts := (Vector.replicate 32 Account.absent).set 0 Account.general
  allotments := Vector.replicate 16 ⟨none, 0⟩
  pressure := false

/-- The directory at a destructive start (R54). -/
def Directory.fresh : Directory where
  docs := []
  nextNumber := 1
  ready := Vector.replicate 32 []
  reclaim := []
  verifications := []

/-- The Forwarding Engine at a destructive start (R116, R122, R144). -/
def Forwarding.fresh : Forwarding where
  jobs := []
  suspended := false
  nextJob := 1
  view := Vector.replicate 16 ⟨false, false⟩
  lastEnd := none
  handed := []
  runOwed := false

/-- The whole part at a destructive start, given what the start leaves: the pins, the phase and the reset cause, and the
external DRAM, which nothing but store initialization and landing pages writes (R190, R222; log entry 2). Every block
takes the value its chapter gives for power-on and the RESET pin. -/
def State.fresh (pending : List Instr) (part : Part) (rate : LinkRate) (rts : Bool) (mem : List Host.Cell) (dram : Dram) :
    State where
  pending := pending
  part := part
  clock := ⟨0, ⟨0, 0⟩, false⟩
  policy := Policy.defaults
  store := PageStore.fresh
  mem := mem
  dram := dram
  dir := Directory.fresh
  routes := []
  lines := Vector.replicate 16 Line.fresh
  callers := ⟨[], []⟩
  fwd := Forwarding.fresh
  collect := ⟨[], [], none, []⟩
  journal := ⟨[], 1, 0, 0, false⟩
  integrity := ⟨[], false, [], 1, 0, 0⟩
  link := Link.fresh rate rts

/-- The machine right after reset: power has just reached its working level with the RESET pin released (R222), the strap and
request-to-send undriven and held at their resistors' levels (11.6), store initialization running. -/
def State.reset : State :=
  State.fresh [] ⟨true, false, some .starting, .powerOn, 0, none⟩ .slow false [] ⟨[], 0⟩

end Sys2Proof.Machine
end

