-- ==== Sys2Proof/Machine/Figures.lean ====
section
/-! DEFINITION. Machine/Figures.lean: the numbers the manual gives (Principal figures, and the rules named), each once. -/

namespace Sys2Proof.Machine

/-- The allocatable pool in blocks (R1). -/
def poolBlocks : Nat := 32704
/-- The spare set after initialization (R2). -/
def spareBlocks : Nat := 64
/-- Bytes of a block (R5). -/
def blockBytes : Nat := 8192
/-- Bytes of a group that carries check bits (R190). -/
def groupBytes : Nat := 8
/-- The most blocks a page may hold (R5). -/
def maxPageBlocks : Nat := 32
/-- The most a guarantee may be, and the most all guarantees may sum to (R23). -/
def maxGuarantees : Nat := 31680
/-- The longest retention in hours (R23). -/
def maxRetention : Nat := 168
/-- Milliseconds of an hour of retention (R41). -/
def hourMs : Nat := 3600000
/-- Record slots (R29). -/
def recordSlots : Nat := 4096
/-- The largest number of a document, a journal entry or an error record (R29, R172, R200). -/
def maxNumber : Nat := 4294967295
/-- The most pages of a document (R47). -/
def maxPages : Nat := 500
/-- The most forward entries of a document (R38). -/
def maxForwards : Nat := 4
/-- The most verifications at once (R49). -/
def maxVerifications : Nat := 4
/-- Route entries (R55). -/
def maxRoutes : Nat := 256
/-- Caller Memory entries (R104). -/
def maxCallers : Nat := 512
/-- Jobs in the list (R116). -/
def maxJobs : Nat := 256
/-- The largest job number (R117). -/
def maxJobNumber : Nat := 65535
/-- Waiting Collect requests (R146). -/
def maxCollects : Nat := 32
/-- Places of the journal's ring (R173). -/
def ringPlaces : Nat := 8192
/-- High water (R179). -/
def highWaterMark : Nat := 8128
/-- The far half of the cycle of sequence numbers begins after this many steps (R176). -/
def halfCycle : Nat := 2147483647
/-- Error records held (R200). -/
def maxRecords : Nat := 16
/-- The ceiling of every statistics counter (R96, R201, R218). -/
def counterTop : Nat := 65535
/-- The top rate step (R101). -/
def topStep : Nat := 5
/-- Called digits a channel gathers (R77). -/
def maxDigits : Nat := 16
/-- The longest number a digit string may name (R77, R114, R119). -/
def maxNumberDigits : Nat := 24
/-- Characters of a remote identity that are kept (R83). -/
def identityChars : Nat := 20
/-- The acknowledgment limit in ms (R72). -/
def ackLimitMs : Nat := 500
/-- The digit window in ms (R76). -/
def digitWindowMs : Nat := 4000
/-- The waits for a remote's signal and for RELEASED, in ms (R90, R92, R95). -/
def signalWaitMs : Nat := 6000
/-- The wait inside a page in ms (R85). -/
def pageWaitMs : Nat := 12000
/-- The wait for a dial result in ms (R95). -/
def dialWaitMs : Nat := 60000
/-- Failed trainings that end a call (R83, R84, R130), rejects of one page number that end a call (R88), and sends of one
page after which a REJECT ends the attempt (R133). -/
def maxTries : Nat := 3
/-- The intake queue (R209), and the waiting responses at which the link stops taking requests (R212). -/
def intakePlaces : Nat := 8
/-- The longest frame body (10.2). -/
def maxBody : Nat := 1100
/-- The longest chunk of a Page Data frame and the longest stretch of a verification (R156, R191). -/
def chunkBytes : Nat := 1024
/-- The longest SEND-PAGE-DATA, and the most bytes of a PAGE-DATA event (4.3, R131). -/
def portBytes : Nat := 256
/-- The largest gap between two bytes of a frame, in ms (R208). -/
def byteGapMs : Nat := 20
/-- The largest value of run time, a count of 64 bits (R186). -/
def runTop : Nat := 18446744073709551615
/-- The calendar clock's last value (R183). -/
def calendarEnd : CalTime := ⟨4294967295, 999⟩

end Sys2Proof.Machine
end

