-- ==== Sys2Proof/Machine/Operands.lean ====
section
/-! DEFINITION. Machine/Operands.lean: the forms an operand may have, and the numbers a request names. -/

namespace Sys2Proof.Machine

/-- A character of a digit string. -/
def isDigitChar (c : Char) : Bool := decide ('0' ≤ c) && decide (c ≤ '9')

/-- All characters are 0 to 9. -/
def allDigits (t : Text) : Bool := t.all isDigitChar

/-- A digit string of lo to hi digits. -/
def isDigits (lo hi : Nat) (t : Text) : Bool :=
  decide (lo ≤ t.length) && decide (t.length ≤ hi) && allDigits t

/-- A route key, or a default route key (R56, R67). -/
def isKey (t : Text) : Bool := isDigits 2 6 t

/-- A number to dial or a calling number (R56, R77, R114, R119). -/
def isNumber (t : Text) : Bool := isDigits 1 maxNumberDigits t

/-- A department name (R23): 0 to 12 characters in the printable range 0x20 to 0x7E. -/
def isName (t : Text) : Bool :=
  decide (t.length ≤ 12) && t.all (fun c => decide (0x20 ≤ c.toNat) && decide (c.toNat ≤ 0x7E))

/-- A department number a request carries: none when it is above 31. -/
def deptOf (n : Nat) : Option Dept := if h : n < 32 then some ⟨n, h⟩ else none

/-- A line number a request carries: none when it is above 15. -/
def lineOf (n : Nat) : Option LineNo := if h : n < 16 then some ⟨n, h⟩ else none

/-- The form of a route's destinations (R56). -/
def destsForm (dests : List Text) : Bool :=
  decide (dests.length ≤ maxForwards) && dests.all isNumber && decide dests.Nodup

/-- The life states a filter passes (R53). -/
def passes : LifeFilter → Life → Bool
  | .any, _ => true
  | .landing, l => l == .landing
  | .held, l => l == .held
  | .opened, l => l == .opened
  | .settled, l => l == .settled

/-- Number order of the Caller Memory (R113): a shorter number first, then digit by digit. -/
def numberBefore (a b : Text) : Bool :=
  if a.length = b.length then decide (a < b) else decide (a.length < b.length)

/-- Puts x before the first element whose key is not below its own. -/
def insertByKey {α : Type} (key : α → Nat) (x : α) : List α → List α
  | [] => [x]
  | y :: ys => if key x ≤ key y then x :: y :: ys else y :: insertByKey key x ys

/-- A list in ascending order of a key (R53, R145). -/
def ascending {α : Type} (key : α → Nat) : List α → List α
  | [] => []
  | x :: xs => insertByKey key x (ascending key xs)

/-- The entries that appear in the spontaneous class (R170). -/
def isSpontaneous : JournalContent → Bool
  | .receipt _ => true
  | .refused _ _ _ _ => true
  | .forward _ _ _ .delivered _ _ => true
  | .forward _ _ _ (.failed _) _ _ => true
  | .forward _ _ _ .cancelled _ _ => false
  | .damage _ _ _ => true
  | .restart _ => true
  | .collect _ _ _ => false
  | .discard _ => false
  | .clock _ _ _ => false

end Sys2Proof.Machine
end

