-- ==== Sys2Proof/Machine/Flags.lean ====
section
/-! DEFINITION. Machine/Flags.lean: the figures and marks that are computed from the state (R8, R26), the pressure state
(R21), and the marking of notice subjects (R215). -/

namespace Sys2Proof.Machine

/-! ## Notice subjects -/

/-- Whether the class of a subject is enabled (10.6). -/
def Classes.enables (c : Classes) : Subject → Bool
  | .line _ => c.line
  | .department _ => c.department
  | .store => c.store
  | .journal => c.journal
  | .integrity => c.integrity
  | .forward => c.forward

/-- A block marks a subject (R215): nothing when its class is disabled or the subject is listed; otherwise the subject joins
the tail of the notice set. -/
def mark (x : Subject) (s : State) : State :=
  { s with link.notices := if s.link.classes.enables x && !(s.link.notices.contains x) then s.link.notices ++ [x] else s.link.notices }

/-! ## Store figures -/

/-- The account of a department. -/
def acct (s : State) (d : Dept) : Account := s.store.accounts[d]

/-- Used plus reserved (1.2). -/
def Account.committed (a : Account) : Nat := a.used + a.resv

/-- The committed blocks above the guarantee (R8). -/
def Account.borrow (a : Account) : Nat := a.committed - a.guarantee

/-- A sum over the 32 accounts. -/
def sumAccounts (s : State) (f : Account → Nat) : Nat := (s.store.accounts.toList.map f).sum

/-- The guarantees of the configured departments (R8). -/
def guarantees (s : State) : Nat := sumAccounts s (fun a => if a.configured then a.guarantee else 0)

/-- S, the shared pool (R8). -/
def sharedPool (s : State) : Nat := poolBlocks - guarantees s

/-- shared_committed (R8). -/
def sharedCommitted (s : State) : Nat := sumAccounts s Account.borrow

/-- P_enter (R8). -/
def pEnter (s : State) : Nat := sharedPool s * 7 / 8

/-- P_leave (R8). -/
def pLeave (s : State) : Nat := sharedPool s * 3 / 4

/-- The pressure evaluation (R21). -/
def evalPressure (s : State) : State :=
  if !s.store.pressure && decide (pEnter s ≤ sharedCommitted s) then mark .store { s with store.pressure := true }
  else if s.store.pressure && decide (sharedCommitted s < pLeave s) then mark .store { s with store.pressure := false }
  else s

/-- The store figures in every phase (R26): all zero in phase STARTING. -/
def storeFigures (s : State) : StoreFigures :=
  if s.part.phase = some .starting then ⟨0, 0, 0, 0, 0, 0, false, 0, 0, 0, false⟩
  else
    { freeBlocks := s.store.free.length
      used := sumAccounts s Account.used
      sharedPool := sharedPool s
      sharedCommitted := sharedCommitted s
      pEnter := pEnter s
      pLeave := pLeave s
      pressure := s.store.pressure
      reserved := sumAccounts s Account.resv
      sparesLeft := s.store.spares.length
      retiredCount := s.store.retired.length
      sparesExhausted := s.integrity.exhausted }

/-! ## Other marks -/

/-- The journal is at high water (R179, R180). -/
def atHighWater (s : State) : Bool := decide (highWaterMark ≤ s.journal.unreleased)

/-- Clear-to-send (R209, R219, R220): active unless the part is held in reset, the phase is RESTARTING or the intake queue
holds 8 frames. -/
def clearToSend (s : State) : Bool :=
  s.part.phase.isSome && !(s.part.phase == some .restarting) && decide (s.link.intake.length < intakePlaces)

/-- The part is in phase READY. -/
def isReady (s : State) : Bool := s.part.phase == some .ready

/-- The store is initialized (R224): the part is in phase READY or RESTARTING, so that calls may exist. -/
def isOpen (s : State) : Bool := s.part.phase == some .ready || s.part.phase == some .restarting

/-- A forward entry in a final state (R38). -/
def ForwardEntry.isFinal (e : ForwardEntry) : Bool := !(e.state == .pending)

end Sys2Proof.Machine
end

