-- ==== Sys2Proof/Machine/Memory.lean ====
section
/-! DEFINITION. Machine/Memory.lean: the store memory as a list of cells in one canonical form, the CRCs, and the little-endian
fields of a frame. -/

namespace Sys2Proof.Machine

/-! ## The store memory -/

/-- What an address that nothing has written reads as (log entry 2). -/
def unwritten : Byte := 0

/-- The byte at an address. -/
def readByte (mem : List Host.Cell) (a : Nat) : Byte :=
  match mem with
  | [] => unwritten
  | (k, b) :: rest => if k = a then b else readByte rest a

/-- Writes a byte, keeping the canonical form: addresses strictly rising, and no cell that holds what an unlisted address reads as. -/
def writeByte (mem : List Host.Cell) (a : Nat) (v : Byte) : List Host.Cell :=
  match mem with
  | [] => if v = unwritten then [] else [(a, v)]
  | (k, b) :: rest =>
    if k < a then (k, b) :: writeByte rest a v
    else if k = a then (if v = unwritten then rest else (a, v) :: rest)
    else if v = unwritten then (k, b) :: rest
    else (a, v) :: (k, b) :: rest

/-- Writes bytes at consecutive addresses. -/
def writeBytes (mem : List Host.Cell) (a : Nat) : List Byte → List Host.Cell
  | [] => mem
  | v :: vs => writeBytes (writeByte mem a v) (a + 1) vs

/-- Reads n bytes at consecutive addresses. -/
def readBytes (mem : List Host.Cell) (a : Nat) : Nat → List Byte
  | 0 => []
  | n + 1 => readByte mem a :: readBytes mem (a + 1) n

/-- The canonical form. -/
def memoryWf : List Host.Cell → Bool
  | [] => true
  | [(_, b)] => decide (b ≠ unwritten)
  | (k, b) :: (k', b') :: rest => decide (b ≠ unwritten) && decide (k < k') && memoryWf ((k', b') :: rest)

/-- The first address of a block (R5). -/
def blockBase (b : Block) : Nat := b.val * blockBytes

/-- The address of byte off of a page with the given block list (R5): none beyond its blocks. -/
def pageAddress (blocks : List Block) (off : Nat) : Option Nat :=
  (blocks[off / blockBytes]?).map (fun b => blockBase b + off % blockBytes)

/-! ## CRC-32 of page data (R32) -/

/-- The reflected generator of R32 (0x04C11DB7). -/
def crc32Generator : BitVec 32 := 0xEDB88320

/-- The initial value, and the value of the final exclusive-or (R32). -/
def crc32Ones : BitVec 32 := 0xFFFFFFFF

/-- One bit of the CRC-32. -/
def crc32Bit (c : BitVec 32) : BitVec 32 :=
  if c.toNat % 2 = 1 then (c >>> 1) ^^^ crc32Generator else c >>> 1

/-- k bits of the CRC-32. -/
def crc32Bits : Nat → BitVec 32 → BitVec 32
  | 0, c => c
  | k + 1, c => crc32Bits k (crc32Bit c)

/-- The running CRC carried over one byte. -/
def crc32Byte (c : BitVec 32) (b : Byte) : BitVec 32 := crc32Bits 8 (c ^^^ b.zeroExtend 32)

/-- The running CRC carried over bytes. -/
def crc32Run (c : BitVec 32) (bs : List Byte) : BitVec 32 := bs.foldl crc32Byte c

/-- The final exclusive-or (R32). -/
def crc32Final (c : BitVec 32) : BitVec 32 := c ^^^ crc32Ones

/-! ## CRC-16 of a frame (R207) -/

/-- One bit of the CRC-16: generator 0x1021, not reflected. -/
def crc16Bit (c : BitVec 16) : BitVec 16 :=
  if 0x8000 ≤ c.toNat then (c <<< 1) ^^^ 0x1021 else c <<< 1

/-- k bits of the CRC-16. -/
def crc16Bits : Nat → BitVec 16 → BitVec 16
  | 0, c => c
  | k + 1, c => crc16Bits k (crc16Bit c)

/-- The CRC-16 carried over one byte. -/
def crc16Byte (c : BitVec 16) (b : Byte) : BitVec 16 := crc16Bits 8 (c ^^^ (b.zeroExtend 16 <<< 8))

/-- The check of R207 over the bytes from the length field to the body's end. -/
def crc16 (bs : List Byte) : BitVec 16 := bs.foldl crc16Byte 0xFFFF

/-- A two-byte field of a frame, low byte first. -/
def le16 (lo hi : Byte) : Nat := lo.toNat + 256 * hi.toNat

/-! ## Time (R183, R186) -/

/-- The calendar clock after d ms: it carries from 999 ms into the next second, and stops at its last value (R183). -/
def CalTime.advance (t : CalTime) (d : Nat) : CalTime :=
  let ms := t.sec * 1000 + t.ms + d
  if calendarEnd.sec * 1000 + calendarEnd.ms ≤ ms then calendarEnd else ⟨ms / 1000, ms % 1000⟩

/-- Run time d ms later: a count of 64 bits, which does not return to 0 (R186, log entry 27). -/
def later (run d : Nat) : Nat := max run (min (run + d) runTop)

/-- A WAITING job becomes due as run time moves on by d ms (R116, R123). -/
def becomesDue (s : State) (d : Nat) : Bool :=
  s.fwd.jobs.any (fun j => !j.inCall && decide (s.clock.run < j.nextDue) && decide (j.nextDue ≤ later s.clock.run d))

/-- Time passes over the DRAM up to a run time: its faults become what they then are (log entry 3). -/
def Dram.upset (run : Nat) (m : Dram) : Dram := ⟨Config.dramUpset m.draws run m.faults, m.draws + 1⟩

/-- d ms of run time pass: both clocks move on, the faults of the DRAM are what they then are (log entry 3), and a job that becomes
due owes the arbiter a run. -/
def advance (d : Nat) (s : State) : State :=
  { s with
    clock := { s.clock with run := later s.clock.run d, cal := CalTime.advance s.clock.cal d }
    dram := if d = 0 then s.dram else s.dram.upset (later s.clock.run d)
    fwd := { s.fwd with runOwed := s.fwd.runOwed || becomesDue s d } }

/-- Run time reaches t: it passes up to t when t still lies ahead (R186, log entry 5). -/
def advanceTo (t : Nat) (s : State) : State := advance (t - s.clock.run) s

end Sys2Proof.Machine
end

