-- ==== Sys2Proof/Machine/OpsJournal.lean ====
section
/-! DEFINITION. Machine/OpsJournal.lean: appending to the Receipt Journal, and the cycle of sequence numbers (R172). -/

namespace Sys2Proof.Machine

/-- The number after n on the cycle 1, 2, …, 4,294,967,295, 1 (R172). -/
def nextInCycle (n : Nat) : Nat := if n < maxNumber then n + 1 else 1

/-- The steps forward from a to b along the cycle; 0 as a start lies one step before 1 (R172, R176). -/
def stepsForward (a b : Nat) : Nat :=
  if a = 0 then b else if a ≤ b then b - a else b + maxNumber - a

/-- One entry is written (R168, R172, R173): over the oldest held entry when the ring is full. Reaching high water marks subject
JOURNAL (R179). -/
def writeEntry (content : JournalContent) (s : State) : State :=
  let e : Entry := ⟨s.journal.nextSeq, content, s.clock.cal, s.clock.trusted⟩
  let old := s.journal.ring
  let kept := if old.length < ringPlaces then old else old.drop 1
  let s' : State :=
    { s with
      journal.ring := kept ++ [e]
      journal.nextSeq := nextInCycle s.journal.nextSeq
      journal.unreleased := s.journal.unreleased + 1 }
  if !atHighWater s && atHighWater s' then mark .journal s' else s'

/-- An append as R173 takes it: written, with its sequence number, or dropped when every held entry is unreleased, with the
overrun indicator set (R181). -/
def append (content : JournalContent) (s : State) : State × Option Nat :=
  if s.journal.unreleased < ringPlaces then (writeEntry content s, some s.journal.nextSeq)
  else (mark .journal { s with journal.overrun := true }, none)

/-- The sequence number of the newest entry. -/
def lastSeq (s : State) : Option Nat := s.journal.ring.getLast?.map Entry.seq

/-- The sequence number of the oldest held entry; with none held, absent (DESIGN CHOICE, log entry 36). -/
def oldestSeq (s : State) : Option Nat := s.journal.ring.head?.map Entry.seq

end Sys2Proof.Machine
end

