-- ==== Sys2Proof/Machine/OpsStore.lean ====
section
/-! DEFINITION. Machine/OpsStore.lean: block health and the retirement check (R192, R198, R199), freeing blocks (R6), checked
reads of the store (R191 to R194), and writing landing pages (R190). -/

namespace Sys2Proof.Machine

/-! ## Accounts -/

/-- Changes one account. -/
def setAcct (d : Dept) (f : Account → Account) (s : State) : State :=
  { s with store.accounts := s.store.accounts.set d.val (f s.store.accounts[d]) d.isLt }

/-- A line's allotment entry. -/
def allotment (s : State) (n : LineNo) : Allotment := s.store.allotments[n]

/-- Changes a line's allotment entry. -/
def setAllotment (n : LineNo) (a : Allotment) (s : State) : State :=
  { s with store.allotments := s.store.allotments.set n.val a n.isLt }

/-! ## Block health -/

/-- The entry store initialization gives a block (R192). -/
def HealthEntry.good : HealthEntry := ⟨.healthy, 0⟩

/-- A block's health entry. -/
def healthOf (t : List (Block × HealthEntry)) (b : Block) : HealthEntry :=
  match t with
  | [] => HealthEntry.good
  | (k, e) :: rest => if k = b then e else healthOf rest b

/-- Sets a block's health entry, lowest block first. -/
def setHealth (t : List (Block × HealthEntry)) (b : Block) (v : HealthEntry) : List (Block × HealthEntry) :=
  match t with
  | [] => [(b, v)]
  | (k, e) :: rest =>
    if k < b then (k, e) :: setHealth rest b v
    else if k = b then (b, v) :: rest
    else (b, v) :: (k, e) :: rest

/-- A block's entry after a read that returned CORRECTED (R192). -/
def HealthEntry.corrected (h : HealthEntry) : HealthEntry :=
  match h.health with
  | .healthy => if 4 ≤ h.ce + 1 then ⟨.weak, 4⟩ else ⟨.healthy, h.ce + 1⟩
  | .weak => ⟨.weak, 4⟩
  | .bad => ⟨.bad, min 4 (h.ce + 1)⟩

/-- A block's entry after a read that returned UNCORRECTABLE (R192). -/
def HealthEntry.failed (h : HealthEntry) : HealthEntry := ⟨.bad, h.ce⟩

/-! ## Freeing blocks -/

/-- The retirement check of one freed block (R198, R199). -/
def retireCheck (b : Block) (s : State) : State :=
  match (healthOf s.integrity.health b).health, s.store.spares with
  | .healthy, _ => { s with store.free := s.store.free ++ [b] }
  | _, sp :: rest =>
    mark .integrity
      { s with
        store.retired := s.store.retired ++ [b]
        store.spares := rest
        store.free := s.store.free ++ [sp] }
  | _, [] =>
    let s' : State := { s with store.free := s.store.free ++ [b] }
    if s.integrity.exhausted then s' else mark .store { s' with integrity.exhausted := true }

/-- One block of a department's page is freed (R6). -/
def freeBlock (d : Dept) (s : State) (b : Block) : State :=
  setAcct d (fun a => { a with used := a.used - 1 }) (retireCheck b s)

/-- A page's blocks are freed in list order (R6). -/
def freeBlocks (d : Dept) (bs : List Block) (s : State) : State := bs.foldl (freeBlock d) s

/-! ## Checked reads -/

/-- The fault stands in group g of block b. -/
def standsIn (b : Block) (g : Nat) (f : DramFault) : Bool := decide (f.block = b) && decide (f.group.val = g)

/-- The wrong bits of a group: those of its faults add up (log entry 3). -/
def wrongBits (dram : List DramFault) (b : Block) (g : Nat) : Nat :=
  ((dram.filter (standsIn b g)).map (fun f => if f.double then 2 else 1)).sum

/-- The error of a group (R190): none, one wrong bit, which is corrected (some false), or more, which are not (some true). DESIGN
CHOICE (log entry 3): three or more, of which R190 promises nothing, are detected as two are. -/
def groupError (dram : List DramFault) (b : Block) (g : Nat) : Option Bool :=
  match wrongBits dram b g with
  | 0 => none
  | 1 => some false
  | _ => some true

/-- The groups from g on, k of them, that hold an error. -/
def errorGroups (dram : List DramFault) (b : Block) (g : Nat) : Nat → List (Nat × Bool)
  | 0 => []
  | k + 1 =>
    match groupError dram b g with
    | none => errorGroups dram b (g + 1) k
    | some e => (g, e) :: errorGroups dram b (g + 1) k

/-- An error record joins those held, over the oldest when 16 are held (R200), and subject INTEGRITY is marked (R203). -/
def appendRecord (r : ErrorRecord) (s : State) : State :=
  let kept := if s.integrity.records.length < maxRecords then s.integrity.records else s.integrity.records.drop 1
  mark .integrity
    { s with
      integrity.records := kept ++ [r]
      integrity.nextSerial := nextInCycle s.integrity.nextSerial }

/-- Changes the record of a document. -/
def modDoc (n : Nat) (f : Document → Document) (s : State) : State :=
  { s with dir.docs := s.dir.docs.map (fun d => if d.number = n then f d else d) }

/-- The record of a document. -/
def findDoc (s : State) (n : Nat) : Option Document := s.dir.docs.find? (fun d => decide (d.number = n))

/-- A page of a document. -/
def pageOf (d : Document) (p : Nat) : Option Page := d.pages[p - 1]?

/-- Marks a page of a document damaged, and the document DAMAGED (R194). -/
def markDamaged (doc p : Nat) (s : State) : State :=
  modDoc doc (fun d => { d with
    damaged := true
    pages := d.pages.map (fun q => if q.number = p then { q with damaged := true } else q) }) s

/-- A read of one span of a page by one reader (R191): the span starts at byte off of the page, is at most size bytes long and
ends at the page's byte length at the latest. The answer is the data, or none when the read is UNCORRECTABLE. -/
def readSpan (reader : Reader) (doc : Nat) (pg : Page) (off size : Nat) (s : State) : State × Option (List Byte) :=
  match pg.blocks[off / blockBytes]? with
  | none => (s, some [])
  | some b =>
    let n := min size (pg.length - off)
    let inBlock := off % blockBytes
    let g0 := inBlock / groupBytes
    let errs := errorGroups s.dram.faults b g0 ((inBlock + n + 7) / groupBytes - g0)
    let data := readBytes s.mem (blockBase b + inBlock) n
    let h := healthOf s.integrity.health b
    match errs with
    | [] => (s, some data)
    | (g, _) :: _ =>
      let rec0 : ErrorRecord :=
        { serial := s.integrity.nextSerial, kind := .ce, run := s.clock.run, reader := reader, document := doc
          page := pg.number, block := b, offset := off / blockBytes * blockBytes + g * groupBytes
          groups := errs.length, after := h, journalSeq := none }
      if errs.any Prod.snd then
        let s1 := markDamaged doc pg.number { s with integrity.health := setHealth s.integrity.health b h.failed }
        let (s2, seq) :=
          if h.health ≠ .bad ∨ pg.damaged = false then append (.damage doc pg.number b) s1 else (s1, none)
        let s3 := appendRecord { rec0 with kind := .ue, after := h.failed, journalSeq := seq } s2
        ({ s3 with integrity.uncorrectable := satSucc counterTop s3.integrity.uncorrectable }, none)
      else
        let s1 : State := { s with integrity.health := setHealth s.integrity.health b h.corrected }
        let s2 := appendRecord { rec0 with after := h.corrected } s1
        ({ s2 with integrity.corrected := satSucc counterTop s2.integrity.corrected }, some data)

/-! ## Writing landing pages -/

/-- A write of group g of block b clears the faults of the group but for those that persist (R190, R193, R205). -/
def Dram.written (b : Block) (g : Nat) (m : Dram) : Dram :=
  { m with faults := m.faults.filter (fun f => f.persists || !standsIn b g f) }

/-- Writes one whole group of a page's data at byte off of the page; its check bits are then valid (R190). -/
def writeGroup (blocks : List Block) (off : Nat) (bytes : List Byte) (s : State) : State :=
  match blocks[off / blockBytes]? with
  | none => s
  | some b =>
    { s with
      mem := writeBytes s.mem (blockBase b + off % blockBytes) bytes
      dram := s.dram.written b (off % blockBytes / groupBytes) }

/-- Page data joins the end of a landing page, a whole group being written as its last byte arrives (R85, R190); the running CRC
is carried over each byte (R32). The page has room for the bytes in its blocks. -/
def putBytes : List Byte → Landing → State → Landing × State
  | [], l, s => (l, s)
  | b :: bs, l, s =>
    let held := l.held ++ [b]
    let l1 := { l with length := l.length + 1, crc := crc32Byte l.crc b }
    if held.length < groupBytes then putBytes bs { l1 with held := held } s
    else putBytes bs { l1 with held := [] } (writeGroup l.blocks (l.length + 1 - groupBytes) held s)

/-- The page ends: a partly filled group is completed with zero bytes and written (R190). -/
def closeGroup (l : Landing) (s : State) : State :=
  if l.held = [] then s
  else writeGroup l.blocks (l.length - l.held.length) (l.held ++ List.replicate (groupBytes - l.held.length) 0) s

end Sys2Proof.Machine
end

