-- ==== Sys2Proof/Machine/OpsDirectory.lean ====
section
/-! DEFINITION. Machine/OpsDirectory.lean: ready queues (R39), purge (R45), reclaim and the allocation test (R9 to R12),
reservations and draws (R15 to R19), and creating a record (R30). -/

namespace Sys2Proof.Machine

/-! ## Ready queues -/

/-- The ready queue of a department. -/
def readyQueue (s : State) (d : Dept) : List Nat := s.dir.ready[d]

/-- Changes the ready queue of a department. -/
def setReady (d : Dept) (f : List Nat → List Nat) (s : State) : State :=
  { s with dir.ready := s.dir.ready.set d.val (f s.dir.ready[d]) d.isLt }

/-- The document of a number is URGENT. -/
def isUrgent (s : State) (n : Nat) : Bool :=
  match findDoc s n with
  | some d => d.priority == .urgent
  | none => false

/-- An URGENT document joins directly behind the last URGENT document, or at the head (R39). -/
def insertUrgent (urgent : Nat → Bool) (n : Nat) : List Nat → List Nat
  | [] => [n]
  | x :: xs => if (x :: xs).any urgent then x :: insertUrgent urgent n xs else n :: x :: xs

/-- A document's place in its ready queue (R39). -/
def joinQueue (s : State) (d : Document) (q : List Nat) : List Nat :=
  if d.priority = .urgent then insertUrgent (isUrgent s) d.number q else q ++ [d.number]

/-! ## Purge -/

/-- All blocks of a document, page by page (R6). -/
def docBlocks (d : Document) : List Block := d.pages.flatMap Page.blocks

/-- A purge (R45), without the pressure evaluation at the end of the event it stands in. -/
def purgeDoc (n : Nat) (s : State) : State :=
  match findDoc s n with
  | none => s
  | some d =>
    let s1 := setReady d.dept (fun q => q.filter (· ≠ n)) { s with dir.reclaim := s.dir.reclaim.filter (· ≠ n) }
    let s2 := freeBlocks d.dept (docBlocks d) s1
    mark (.department d.dept) { s2 with dir.docs := s2.dir.docs.filter (fun e => e.number ≠ n) }

/-- A purge that is an event of its own: the pressure state is evaluated at its end (R21). -/
def purgeEvent (n : Nat) (s : State) : State := evalPressure (purgeDoc n s)

/-- The oldest document of the reclaim list that no verification reads and that p passes (R11, R30). -/
def candidate (s : State) (p : Document → Bool) : Option Nat :=
  s.dir.reclaim.find? (fun n =>
    match findDoc s n with
    | some d => !d.verifying && p d
    | none => false)

/-! ## The allocation test -/

/-- The cap test (R9). -/
def capTest (s : State) (d : Dept) (k : Nat) : Bool := decide ((acct s d).committed + k ≤ (acct s d).cap)

/-- The growth of a department's borrow by k more blocks (R9). -/
def newBorrow (a : Account) (k : Nat) : Nat := (a.committed + k - a.guarantee) - a.borrow

/-- The shared test (R9). -/
def sharedTest (s : State) (d : Dept) (k : Nat) : Bool :=
  decide (sharedCommitted s + newBorrow (acct s d) k ≤ sharedPool s)

/-- Which document reclaim purges next for a test (R11, steps 2 and 3). -/
def reclaimChoice (s : State) (d : Dept) (k : Nat) : Option Nat :=
  match candidate s (fun x => decide (x.dept = d)) with
  | some n => some n
  | none =>
    if capTest s d k && !sharedTest s d k then candidate s (fun x => decide (0 < (acct s x.dept).borrow)) else none

/-- The test's rounds of reclaim (R11); fuel bounds them by the reclaim list's length. The answer is none on success, or the
cause of failure (R12). -/
def allocRounds : Nat → Dept → Nat → State → State × Option AllocCause
  | fuel, d, k, s =>
    if capTest s d k && sharedTest s d k then (s, none)
    else
      match fuel, reclaimChoice s d k with
      | f + 1, some n => allocRounds f d k (purgeDoc n s)
      | _, _ => (s, some (if capTest s d k then .shared else .cap))

/-- A test has failed (R12): the last failure record is written, the department's subject marked and the pressure evaluated. -/
def allocFailed (d : Dept) (k : Nat) (cause : AllocCause) (s : State) : State :=
  evalPressure (mark (.department d) (setAcct d (fun a => { a with lastFailure := some ⟨cause, k, s.clock.run⟩ }) s))

/-- The test as R9 to R12 give it, before the success's effect: the state, and the cause of a failure. -/
def allocTest (d : Dept) (k : Nat) (s : State) : State × Option AllocCause := allocRounds s.dir.reclaim.length d k s

/-- A reservation of k blocks for a line (R10, R15, R17): whether it was made. -/
def reserve (n : LineNo) (d : Dept) (k : Nat) (s : State) : State × Bool :=
  match allocTest d k s with
  | (s1, some cause) => (allocFailed d k cause s1, false)
  | (s1, none) =>
    let s2 := setAcct d (fun a => { a with resv := a.resv + k }) s1
    (evalPressure (setAllotment n ⟨some d, (allotment s2 n).count + k⟩ s2), true)

/-- How a draw ended (R16). -/
inductive Draw where
  | block (b : Block)
  | oversize
  | storeFull
  deriving DecidableEq, Repr

/-- A draw for a landing page of a line that already holds the given number of blocks (R5, R16). -/
def drawBlock (n : LineNo) (d : Dept) (held : Nat) (s : State) : State × Draw :=
  if maxPageBlocks ≤ held then (s, .oversize)
  else if 0 < (allotment s n).count then
    match s.store.free with
    | [] => (s, .storeFull)
    | b :: rest =>
      let s1 := setAcct d (fun a => { a with used := a.used + 1, resv := a.resv - 1 }) { s with store.free := rest }
      (evalPressure (setAllotment n { allotment s n with count := (allotment s n).count - 1 } s1), .block b)
  else
    match allocTest d 1 s with
    | (s1, some cause) => (allocFailed d 1 cause s1, .storeFull)
    | (s1, none) =>
      match s1.store.free with
      | [] => (evalPressure s1, .storeFull)
      | b :: rest =>
        (evalPressure (setAcct d (fun a => { a with used := a.used + 1 }) { s1 with store.free := rest }), .block b)

/-- The top-up check after an accepted page (R17, R20). -/
def topUp (n : LineNo) (d : Dept) (s : State) : State :=
  let a := (allotment s n).count
  if a * 2 < s.policy.landingAllotment then (reserve n d (s.policy.landingAllotment - a) s).1 else s

/-- The release of a line's allotment at the end of its call (R19). -/
def releaseAllotment (n : LineNo) (s : State) : State :=
  match (allotment s n).dept with
  | none => setAllotment n ⟨none, 0⟩ s
  | some d =>
    evalPressure (setAllotment n ⟨none, 0⟩ (setAcct d (fun a => { a with resv := a.resv - (allotment s n).count }) s))

/-! ## Records -/

/-- A slot and a number for a new record (R29, R30): none when the numbers have run out, or when no slot is free and none can be
reclaimed. The reclaim purges the oldest candidate. -/
def takeSlot (s : State) : Option (State × Nat) :=
  if maxNumber < s.dir.nextNumber then none
  else
    let taken (t : State) : State × Nat := ({ t with dir.nextNumber := t.dir.nextNumber + 1 }, t.dir.nextNumber)
    if s.dir.docs.length < recordSlots then some (taken s)
    else (candidate s (fun _ => true)).map (fun n => taken (purgeEvent n s))

/-- A new LANDING record (R30, R47). -/
def newDocument (number : Nat) (r : RouteResult) (line : LineNo) (called : Text) (calling : Option Text) (answer : CalTime) :
    Document where
  number := number
  dept := r.dept
  routeKey := r.key
  plan := r.plan
  priority := r.priority
  line := line
  called := called
  calling := calling
  remoteId := none
  answerTime := answer
  completionTime := none
  settleTime := none
  life := .landing
  partialFlag := false
  damaged := false
  outcome := none
  digest := none
  continuationOf := none
  continuedBy := none
  disposition := .none
  declines := 0
  forwards := []
  receiptSeq := none
  verifying := false
  deadline := none
  pages := []
  landing := none
  crc := crc32Ones

/-- A record joins the directory. -/
def addDoc (d : Document) (s : State) : State := { s with dir.docs := s.dir.docs ++ [d] }

/-- A record's slot is freed without a purge (R30, R34). -/
def dropDoc (n : Nat) (s : State) : State := { s with dir.docs := s.dir.docs.filter (fun e => e.number ≠ n) }

end Sys2Proof.Machine
end

