-- ==== Sys2Proof/Machine/OpsCollect.lean ====
section
/-! DEFINITION. Machine/OpsCollect.lean: responses (R212), offers (R150), matching (R148), and joining a ready queue (R39). -/

namespace Sys2Proof.Machine

/-- A response takes its place at the tail of the response queue (R212). -/
def respond (tag : Byte) (kind : ReqKind) (status : Status) (content : Content) (s : State) : State :=
  { s with link.responses := s.link.responses ++ [⟨tag, kind, status, content⟩] }

/-- The Page Data frames of one page (R150). -/
def pageFrames (p : Page) : Nat := (p.length + chunkBytes - 1) / chunkBytes

/-- The Page Data frames a complete transfer sends: those of the pages not already marked damaged (R150). -/
def transferFrames (d : Document) : Nat := ((d.pages.filter (fun p => !p.damaged)).map pageFrames).sum

/-- The bytes of a document's pages. -/
def docBytes (d : Document) : Nat := (d.pages.map Page.length).sum

/-- The numbers of the pages marked damaged. -/
def damagedPages (d : Document) : List Nat := (d.pages.filter Page.damaged).map Page.number

/-- The offer summary (R150). -/
def offerSummary (d : Document) (timeout window : Nat) : OfferSummary where
  document := d.number
  dept := d.dept
  routeKey := d.routeKey
  priority := d.priority
  life := d.life
  pageCount := d.pages.length
  bytes := docBytes d
  frames := transferFrames d
  digest := d.digest
  partialFlag := d.partialFlag
  damaged := d.damaged
  outcome := d.outcome
  damagedPages := damagedPages d
  called := d.called
  calling := d.calling
  remoteId := d.remoteId
  answerTime := d.answerTime
  completionTime := d.completionTime
  continuationOf := d.continuationOf
  continuedBy := d.continuedBy
  declines := d.declines
  timeout := timeout
  windowMs := window * 1000

/-- An offer of a document in answer to a Collect (R150). -/
def makeOffer (d : Document) (tag : Byte) (timeout : Nat) (s : State) : State :=
  let s1 := modDoc d.number (fun e => { e with disposition := .offered })
    (setReady d.dept (fun q => q.filter (· ≠ d.number)) s)
  let s2 : State :=
    { s1 with collect.offers := s1.collect.offers ++ [⟨d.number, d.dept, s1.clock.run + s1.policy.offerWindow * 1000⟩] }
  respond tag .collect .done (.offer (offerSummary d timeout s2.policy.offerWindow)) s2

/-- A document that has joined its ready queue meets the oldest waiting request of its department, or its department's subject
is marked (R148). -/
def matchDoc (d : Document) (s : State) : State :=
  match s.collect.queue.find? (fun w => decide (w.dept = d.dept)) with
  | some w =>
    makeOffer d w.tag w.timeout
      { s with collect.queue := s.collect.queue.eraseP (fun w => decide (w.dept = d.dept)) }
  | none => mark (.department d.dept) s

/-- A document whose disposition has become DUE joins its ready queue, once, and is handed to the Collect Service (R39, R148). -/
def joinReady (n : Nat) (s : State) : State :=
  match findDoc s n with
  | none => s
  | some d =>
    let s1 := if (readyQueue s d.dept).contains n then s else setReady d.dept (joinQueue s d) s
    matchDoc d s1

/-- A document's disposition becomes DUE, with what follows from it (R37). -/
def becomeDue (n : Nat) (s : State) : State := joinReady n (modDoc n (fun d => { d with disposition := .due }) s)

/-- An open offer ends as a decline does (R152, R153): the record goes, the decline count rises and the document is DUE again. -/
def declineOpen (n : Nat) (s : State) : State :=
  let s1 : State := { s with collect.offers := s.collect.offers.filter (fun o => o.doc ≠ n) }
  becomeDue n (modDoc n (fun d => { d with declines := satSucc 255 d.declines }) s1)

end Sys2Proof.Machine
end

