-- ==== Sys2Proof/Machine/OpsDocument.lean ====
section
/-! DEFINITION. Machine/OpsDocument.lean: settling (R41), fallback (R40), jobs and their ends (R117, R118, R120), entering OPEN
(R35), landing (R33, R34) and continuation (R47). -/

namespace Sys2Proof.Machine

/-! ## Settling and fallback -/

/-- The settling test (R41). -/
def settles (d : Document) : Bool :=
  d.life == .opened && (d.disposition == .none || d.disposition == .done) && d.forwards.all ForwardEntry.isFinal

/-- The directory evaluates settling (R41). -/
def settle (n : Nat) (s : State) : State :=
  match findDoc s n with
  | none => s
  | some d =>
    if settles d then
      let r := (acct s d.dept).retention
      let s1 := modDoc n (fun e => { e with
        life := .settled, settleTime := some s.clock.cal, deadline := some (s.clock.run + r * hourMs) }) s
      let s2 : State := { s1 with dir.reclaim := s1.dir.reclaim ++ [n] }
      if r = 0 ∧ d.verifying = false then purgeEvent n s2 else s2
    else s

/-- The fallback test (R40). -/
def fallsBack (d : Document) : Bool :=
  d.life == .opened && !d.forwards.isEmpty && d.forwards.all ForwardEntry.isFinal &&
    d.forwards.any (fun e => e.state == .failed) && d.disposition == .none

/-- The directory evaluates fallback (R40). -/
def fallback (n : Nat) (s : State) : State :=
  match findDoc s n with
  | none => s
  | some d => if fallsBack d then mark (.department d.dept) (becomeDue n s) else s

/-! ## Jobs -/

/-- A cause for a run of the line arbiter has arrived (R123). -/
def oweRun (s : State) : State := { s with fwd.runOwed := true }

/-- The job number after n (R117). -/
def nextJobNumber (n : Nat) : Nat := if n < maxJobNumber then n + 1 else 1

/-- The first number from n upward that no job in the list has (R117). -/
def freeJobNumber (jobs : List Job) : Nat → Nat → Nat
  | 0, n => n
  | k + 1, n => if jobs.any (fun j => decide (j.number = n)) then freeJobNumber jobs k (nextJobNumber n) else n

/-- The job of a number. -/
def findJob (s : State) (j : Nat) : Option Job := s.fwd.jobs.find? (fun x => decide (x.number = j))

/-- Changes the job of a number. -/
def modJob (j : Nat) (f : Job → Job) (s : State) : State :=
  { s with fwd.jobs := s.fwd.jobs.map (fun x => if x.number = j then f x else x) }

/-- The job of a number leaves the list. -/
def dropJob (j : Nat) (s : State) : State := { s with fwd.jobs := s.fwd.jobs.filter (fun x => x.number ≠ j) }

/-- A forward entry of a document. -/
def entryOf (s : State) (n i : Nat) : Option ForwardEntry := (findDoc s n).bind (fun d => d.forwards[i]?)

/-- Changes a forward entry. -/
def modForward (n i : Nat) (f : ForwardEntry → ForwardEntry) (s : State) : State :=
  modDoc n (fun d => { d with forwards := d.forwards.modify i f }) s

/-- A new PENDING entry (R35, R42). -/
def ForwardEntry.fresh (destination : Text) : ForwardEntry := ⟨destination, .pending, 0, none, 0⟩

/-- A forward entry joins a document's list with the next index. -/
def addForwardEntry (n : Nat) (e : ForwardEntry) (s : State) : State :=
  modDoc n (fun d => { d with forwards := d.forwards ++ [e] }) s

/-- A WAITING job due at once joins the list (R117, R118), and the arbiter is owed a run; the answer is its number. -/
def addJob (n i : Nat) (dest : Text) (urgent : Bool) (s : State) : State × Nat :=
  let j := freeJobNumber s.fwd.jobs s.fwd.jobs.length s.fwd.nextJob
  let job : Job := ⟨j, n, i, dest, false, 0, s.clock.run, urgent, false, none⟩
  (oweRun { s with fwd.jobs := s.fwd.jobs ++ [job], fwd.nextJob := nextJobNumber j }, j)

/-- A forward entry takes its final state, is journalled and reported, and fallback and settling are evaluated (R120, R121), after a
cancel too (log entry 35). -/
def endEntry (n i : Nat) (state : ForwardState) (result : ForwardResult) (s : State) : State :=
  let s1 := modForward n i (fun e => { e with state := state }) s
  let s2 :=
    match entryOf s1 n i with
    | some e => (append (.forward n i e.destination result e.attempts e.pages) s1).1
    | none => s1
  settle n (fallback n (mark .forward s2))

/-- The engine is asked for a job for a forward entry (R118): with the list full the entry is FAILED with TABLE-FULL. -/
def createJob (n i : Nat) (dest : Text) (urgent : Bool) (s : State) : State :=
  if s.fwd.jobs.length < maxJobs then (addJob n i dest urgent s).1
  else
    let s1 := modForward n i (fun e => { e with last := some .tableFull }) s
    endEntry n i .failed (.failed .tableFull) { s1 with fwd.lastEnd := some ⟨n, i, .tableFull, true⟩ }

/-! ## Entering OPEN, landing, continuation -/

/-- The entries and jobs of the destinations from index i on (R35, step 3). -/
def openForwards (n : Nat) (urgent : Bool) : Nat → List Text → State → State
  | _, [], s => s
  | i, dest :: rest, s =>
    openForwards n urgent (i + 1) rest (createJob n i dest urgent (addForwardEntry n (ForwardEntry.fresh dest) s))

/-- A document enters OPEN at landing or at Release Hold (R35). -/
def enterOpen (n : Nat) (s : State) : State :=
  match findDoc s n with
  | none => s
  | some d =>
    let s1 := modDoc n (fun e => { e with life := .opened }) s
    let s2 := if d.plan.collect then becomeDue n s1 else s1
    let s3 := openForwards n (d.priority == .urgent) 0 d.plan.dests s2
    settle n (fallback n s3)

/-- A landing page leaves its record and its blocks are freed (R18, R31); a partly filled group is written first, as R190 says of a page
that ends for any reason. MODEL'S CHOICE (log entry 28): so it is at Restart too, where R28 says that Restart does not write the store
memory. -/
def freeLanding (n : Nat) (s : State) : State :=
  match findDoc s n with
  | none => s
  | some d =>
    match d.landing with
    | none => s
    | some l =>
      evalPressure (modDoc n (fun e => { e with landing := none }) (freeBlocks d.dept l.blocks (closeGroup l s)))

/-- The outcomes whose name begins with PARTIAL (R33). -/
def isPartial : ReceiptOutcome → Bool
  | .complete => false
  | .continued => false
  | .partialStoreFull => true
  | .partialLineLost => true
  | .partialPageLimit => true
  | .partialRestart => true
  | .partialDirectoryFull => true

/-- The RECEIPT entry of a document (R33, R34): number and digest are absent when it accepted no page. -/
def receiptOf (d : Document) (o : ReceiptOutcome) : Receipt where
  document := if d.pages.isEmpty then none else some d.number
  line := d.line
  called := d.called
  calling := d.calling
  dept := d.dept
  routeKey := d.routeKey
  answerTime := d.answerTime
  pages := d.pages.length
  outcome := o
  digest := if d.pages.isEmpty then none else some (crc32Final d.crc)
  continuationOf := d.continuationOf

/-- The directory lands a document with at least one accepted page (R33). -/
def landDocument (n : Nat) (o : ReceiptOutcome) (s : State) : State :=
  let s1 := freeLanding n s
  match findDoc s1 n with
  | none => s1
  | some d =>
    let s2 := modDoc n (fun e => { e with
      completionTime := some s1.clock.cal, digest := some (crc32Final e.crc), outcome := some o, partialFlag := isPartial o }) s1
    let (s3, seq) := append (.receipt (receiptOf d o)) s2
    let s4 := modDoc n (fun e => { e with receiptSeq := seq }) s3
    let s5 := if d.plan.hold then modDoc n (fun e => { e with life := .held }) s4 else enterOpen n s4
    mark (.department d.dept) s5

/-- A call ends whose document accepted no page (R34): the landing page and the slot are freed, and the RECEIPT entry is
appended. -/
def dropEmpty (n : Nat) (o : ReceiptOutcome) (s : State) : State :=
  let s1 := freeLanding n s
  match findDoc s1 n with
  | none => s1
  | some d => (append (.receipt (receiptOf d o)) (dropDoc n s1)).1

/-- The call's current document ends with the call (R91, step 2). -/
def endDocument (n : Nat) (o : ReceiptOutcome) (s : State) : State :=
  match findDoc s n with
  | none => s
  | some d => if d.pages.isEmpty then dropEmpty n o s else landDocument n o s

/-- The continuation of document a (R47): none when no record can be had. The new document's number is the answer. -/
def continueDoc (a : Nat) (s : State) : Option (State × Nat) :=
  match findDoc s a with
  | none => none
  | some d =>
    (takeSlot s).map (fun p =>
      let b := p.2
      let fresh := newDocument b ⟨d.dept, d.routeKey, d.plan, d.priority⟩ d.line d.called d.calling d.answerTime
      let s1 := addDoc { fresh with remoteId := d.remoteId, continuationOf := some a } p.1
      let s2 := modDoc a (fun e => { e with continuedBy := some b }) s1
      (landDocument a .continued s2, b))

/-! ## Verification and discard -/

/-- A document with a passed deadline is purged when nothing verifies it (R44). -/
def purgeIfPassed (n : Nat) (s : State) : State :=
  match findDoc s n with
  | none => s
  | some d =>
    match d.deadline with
    | none => s
    | some t => if d.life = .settled ∧ t ≤ s.clock.run ∧ d.verifying = false then purgeEvent n s else s

end Sys2Proof.Machine
end

