-- ==== Sys2Proof/Machine/OpsCaller.lean ====
section
/-! DEFINITION. Machine/OpsCaller.lean: the Caller Memory's lookup (R105) and updates (R107 to R110, R112), and the lookup of a
route (R61 to R64). -/

namespace Sys2Proof.Machine

/-! ## Caller Memory -/

/-- The entry of a remote number. -/
def findCaller (t : List CallerEntry) (number : Text) : Option CallerEntry := t.find? (fun e => decide (e.number = number))

/-- A new entry takes its place in number order (R113). -/
def putCaller (e : CallerEntry) : List CallerEntry → List CallerEntry
  | [] => [e]
  | x :: xs => if numberBefore x.number e.number then x :: putCaller e xs else e :: x :: xs

/-- The entry of a number is changed in its place. -/
def setCaller (e : CallerEntry) (t : List CallerEntry) : List CallerEntry :=
  t.map (fun x => if x.number = e.number then e else x)

/-- The entry of a remote number leaves the table. -/
def dropCaller (number : Text) (t : List CallerEntry) : List CallerEntry := t.filter (fun e => e.number ≠ number)

/-- A lookup (R105): the ceiling, 5 for a number with no entry; the entry's last used becomes the run time. -/
def lookupCaller (number : Text) (s : State) : State × Nat :=
  match findCaller s.callers.table number with
  | none => (s, topStep)
  | some e => ({ s with callers.table := setCaller { e with lastUsed := s.clock.run } s.callers.table }, e.ceiling)

/-- The least recently used entry, the first in number order among equals (R108). -/
def leastUsed : List CallerEntry → Option CallerEntry
  | [] => none
  | x :: xs =>
    match leastUsed xs with
    | none => some x
    | some y => if x.lastUsed ≤ y.lastUsed then some x else some y

/-- A FAILED classification (R108, R109). -/
def callerFailed (number : Text) (limit run : Nat) (t : List CallerEntry) : List CallerEntry :=
  match findCaller t number with
  | none =>
    let room :=
      if t.length < maxCallers then t
      else match leastUsed t with
        | none => t
        | some e => dropCaller e.number t
    putCaller ⟨number, topStep, 1, run⟩ room
  | some e =>
    if e.fails + 1 < limit then setCaller { e with fails := e.fails + 1, lastUsed := run } t
    else if 0 < e.ceiling then setCaller { e with ceiling := e.ceiling - 1, fails := 0, lastUsed := run } t
    else dropCaller number t

/-- A CLEAN classification (R110). -/
def callerClean (number : Text) (run : Nat) (t : List CallerEntry) : List CallerEntry :=
  match findCaller t number with
  | none => t
  | some e =>
    if e.ceiling + 1 < topStep then setCaller { e with ceiling := e.ceiling + 1, fails := 0, lastUsed := run } t
    else dropCaller number t

/-- The table after a classification (R107). -/
def classify (number : Text) (c : CallClass) (limit run : Nat) (t : List CallerEntry) : List CallerEntry :=
  match c with
  | .failed => callerFailed number limit run t
  | .clean => callerClean number run t
  | .neutral => t

/-- A lowered fail limit clamps every count to one below it (R112). -/
def clampFails (limit : Nat) (t : List CallerEntry) : List CallerEntry :=
  t.map (fun e => { e with fails := min e.fails (limit - 1) })

/-- A channel hands a classification (R107). -/
def handClass (number : Text) (c : CallClass) (s : State) : State :=
  { s with callers.handed := s.callers.handed ++ [⟨number, c⟩] }

/-! ## Routes -/

/-- The entry of a key. -/
def findRoute (t : List RouteEntry) (key : Text) : Option RouteEntry := t.find? (fun e => decide (e.key = key))

/-- A key matches a called string that ends in it (R62). -/
def keyMatches (key called : Text) : Bool := key.isSuffixOf called

/-- The longest matching entry (R62). -/
def longestMatch (called : Text) : List RouteEntry → Option RouteEntry
  | [] => none
  | e :: es =>
    match longestMatch called es with
    | none => if keyMatches e.key called then some e else none
    | some f => if keyMatches e.key called && decide (f.key.length < e.key.length) then some e else some f

/-- The default route (R63). -/
def defaultRoute : RouteResult := ⟨0, none, ⟨false, true, []⟩, .normal⟩

/-- The called string (R61). -/
def calledString (digits : Text) (defaultKey : Option Text) : Text := if digits = [] then defaultKey.getD [] else digits

/-- The lookup (R62 to R64). -/
def lookupRoute (t : List RouteEntry) (called : Text) : RouteResult :=
  match longestMatch called t with
  | none => defaultRoute
  | some e => ⟨e.dept, some e.key, e.plan, e.priority⟩

end Sys2Proof.Machine
end

