-- ==== Sys2Proof/Machine/OpsLine.lean ====
section
/-! DEFINITION. Machine/OpsLine.lean: what a line channel does (chapter 4): commands and their limits, the arbiter's view, the
ends of calls in both roles, FAULT, the return to IDLE, and admission. -/

namespace Sys2Proof.Machine

/-! ## Lines -/

/-- The line of a number. -/
def lineAt (s : State) (n : LineNo) : Line := s.lines[n]

/-- Changes a line. -/
def modLine (n : LineNo) (f : Line → Line) (s : State) : State :=
  { s with lines := s.lines.set n.val (f s.lines[n]) n.isLt }

/-- Changes a line's statistics. -/
def modStats (n : LineNo) (f : LineStats → LineStats) (s : State) : State :=
  modLine n (fun l => { l with stats := f l.stats }) s

/-- A command is sent to the front-end, its acknowledgment limit running from now (R72). -/
def sendCmd (n : LineNo) (c : PortCommand) (s : State) : State :=
  modLine n (fun l => { l with acks := l.acks ++ [⟨c, s.clock.run + ackLimitMs⟩] }) s

/-- The channel enters a state. -/
def setChan (n : LineNo) (c : Chan) (s : State) : State := modLine n (fun l => { l with chan := c }) s

/-- The call record's wait is set, or cancelled (R71). -/
def setWait (n : LineNo) (w : Option Wait) (s : State) : State :=
  modLine n (fun l => { l with call := l.call.map (fun c => { c with wait := w }) }) s

/-- A wait of the given kind starts now. -/
def startWait (n : LineNo) (k : WaitKind) (ms : Nat) (s : State) : State := setWait n (some ⟨k, s.clock.run + ms⟩) s

/-- Changes a receiving call's record. -/
def modRx (n : LineNo) (f : RxCall → RxCall) (s : State) : State :=
  modLine n (fun l => { l with call := l.call.map (fun c =>
    { c with part := match c.part with
      | .receiver r => .receiver (f r)
      | .sender t => .sender t }) }) s

/-- Changes a sending call's record. -/
def modTx (n : LineNo) (f : TxCall → TxCall) (s : State) : State :=
  modLine n (fun l => { l with call := l.call.map (fun c =>
    { c with part := match c.part with
      | .receiver r => .receiver r
      | .sender t => .sender (f t) }) }) s

/-- The record of a receiving call. -/
def rxOf (l : Line) : Option RxCall :=
  match l.call with
  | some ⟨_, .receiver r⟩ => some r
  | _ => none

/-- The record of a sending call. -/
def txOf (l : Line) : Option TxCall :=
  match l.call with
  | some ⟨_, .sender t⟩ => some t
  | _ => none

/-- The role of a line's call record. -/
def roleOf (l : Line) : Option Role := l.call.map (fun c => match c.part with
  | .receiver _ => .receiver
  | .sender _ => .sender)

/-- What a channel's report to the arbiter shows (R122). -/
def viewOf (l : Line) : ViewEntry := ⟨l.service == .inService && l.chan == .idle, l.outbound⟩

/-- The channel tells the arbiter how it stands (R122). -/
def report (n : LineNo) (s : State) : State :=
  { s with fwd.view := s.fwd.view.set n.val (viewOf s.lines[n]) n.isLt }

/-- The channel reports a cause for a run (R123): its return to IDLE, or a change of its service state or permission. -/
def reportRun (n : LineNo) (s : State) : State := oweRun (report n s)

/-- The PRESENT command of a service state. -/
def presentOf : Service → PortCommand
  | .inService => .presentIdle
  | .busyOut => .presentBusy
  | .fault => .presentBusy

/-- The channel takes events from its front-end (R73, R74, R100): the part is in READY or RESTARTING, the line is not in FAULT
and no reset is in progress. -/
def takesEvents (s : State) (n : LineNo) : Bool :=
  isOpen s && !((lineAt s n).service == .fault) && (lineAt s n).reset == .none

/-! ## The return to IDLE -/

/-- A held pending service state is applied (R70, R92). -/
def applyPending (n : LineNo) (s : State) : State :=
  match (lineAt s n).pendingService with
  | none => s
  | some p =>
    mark (.line n) (sendCmd n (presentOf p) (modLine n (fun l => { l with service := p, pendingService := none }) s))

/-- The channel returns to IDLE, discards the call record, applies a pending service state and tells the arbiter (R71, R92). -/
def returnToIdle (n : LineNo) (s : State) : State :=
  reportRun n (applyPending n (modLine n (fun l => { l with chan := .idle, call := none, reset := .none }) s))

/-- RELEASE or REJECT is sent and the channel waits in RELEASING (R92). -/
def releaseWith (n : LineNo) (c : PortCommand) (s : State) : State :=
  startWait n .release signalWaitMs (setChan n .releasing (sendCmd n c s))

/-! ## The end of a receiving call -/

/-- Why a receiving call ended (R90, R91, R93). -/
inductive RxEnd where
  | trainingExhausted | lost | thirdReject | lastPage | storeFull | pageLimit | directoryFull | fault | lineReset | restart
  deriving DecidableEq, Repr

/-- The outcome of an end (R33). -/
def RxEnd.outcome : RxEnd → ReceiptOutcome
  | .trainingExhausted => .partialLineLost
  | .lost => .partialLineLost
  | .thirdReject => .partialLineLost
  | .lastPage => .complete
  | .storeFull => .partialStoreFull
  | .pageLimit => .partialPageLimit
  | .directoryFull => .partialDirectoryFull
  | .fault => .partialLineLost
  | .lineReset => .partialLineLost
  | .restart => .partialRestart

/-- The class of a receiving call (R93). -/
def rxClass (c : RxCall) : RxEnd → CallClass
  | .trainingExhausted => .failed
  | .lost => if c.firstVerdict then .neutral else .failed
  | .thirdReject => .failed
  | .lastPage =>
    if decide (3 ≤ c.pages) && !c.anyReject && !c.anyRetrain && decide (c.trainFails = 0) then .clean else .neutral
  | .storeFull => .neutral
  | .pageLimit => .neutral
  | .directoryFull => .neutral
  | .fault => .neutral
  | .lineReset => .neutral
  | .restart => .neutral

/-- A receiving call that has passed admission ends (R91), with RELEASE sent when the end calls for it. -/
def endReceiving (n : LineNo) (e : RxEnd) (sendRelease : Bool) (s : State) : State :=
  match rxOf (lineAt s n) with
  | none => s
  | some c =>
    let s1 := if sendRelease then releaseWith n .release s else s
    let s2 := match c.document with
      | some d => endDocument d e.outcome s1
      | none => s1
    let s3 := releaseAllotment n s2
    let s4 := match c.calling with
      | some number => handClass number (rxClass c e) s3
      | none => s3
    mark (.line n) s4

/-! ## The end of an outbound attempt -/

/-- How an attempt's ending event came (R106, R135). -/
inductive TxCause where
  /-- CARRIER-LOST, RELEASED or a wait expiry. -/
  | lost
  /-- Any other ending event of R135. -/
  | outcome
  /-- A fault on the line, or Reset Line. -/
  | fault
  deriving DecidableEq, Repr

/-- The states of a sending call after CONNECTED (R106). -/
def connectedChan : Chan → Bool
  | .offeringWait => true
  | .training => true
  | .sending => true
  | .awaitingVerdict => true
  | _ => false

/-- The class of a sending call (R106). -/
def txClass (t : TxCall) (chan : Chan) (cause : TxCause) : AttemptOutcome → CallClass
  | .trainingFailed => .failed
  | .pageRejected => .failed
  | .lineLost => if decide (cause = .lost) && connectedChan chan && !t.verdictReceived then .failed else .neutral
  | .delivered =>
    if decide (3 ≤ t.accepted) && !t.anyRetrain && !t.anyResend && decide (t.trainFails = 0) then .clean else .neutral
  | _ => .neutral

/-- An attempt ends (R135): RELEASE when the end calls for it, then the outcome and after it the classification are handed, and
the line's subject is marked (R98). -/
def endAttempt (n : LineNo) (o : AttemptOutcome) (cause : TxCause) (sendRelease : Bool) (s : State) : State :=
  match txOf (lineAt s n) with
  | none => s
  | some t =>
    let chan := (lineAt s n).chan
    let s1 := if sendRelease then releaseWith n .release s else s
    let s2 : State := { s1 with fwd.handed := s1.fwd.handed ++ [⟨t.job, n, o, t.accepted⟩] }
    mark (.line n) (handClass t.destination (txClass t chan cause o) s2)

/-- A sending call is released without an outcome (R99, R139): the class handed is NEUTRAL (R135). -/
def releaseAttempt (n : LineNo) (s : State) : State :=
  match txOf (lineAt s n) with
  | none => s
  | some t => mark (.line n) (handClass t.destination .neutral (releaseWith n .release s))

/-! ## Calls in progress -/

/-- The states of a receiving call after admission and before its end (R90). -/
def receivingChan : Chan → Bool
  | .negotiating => true
  | .training => true
  | .receiving => true
  | .verdict => true
  | _ => false

/-- The states of a sending call before its end (R95). -/
def sendingChan : Chan → Bool
  | .seized => true
  | .dialling => true
  | .offeringWait => true
  | .training => true
  | .sending => true
  | .awaitingVerdict => true
  | _ => false

/-- A receiving call is in progress on a line. -/
def inReceiving (l : Line) : Bool := (rxOf l).isSome && receivingChan l.chan

/-- An outbound attempt is in progress on a line. -/
def inSending (l : Line) : Bool := (txOf l).isSome && sendingChan l.chan

/-- A call in progress ends without any command, for a fault or Reset Line (R73, R74): an ALERTED call is dropped, and as the end of
a call it marks the line's subject (R98, log entry 14). -/
def endByFault (n : LineNo) (e : RxEnd) (s : State) : State :=
  if inReceiving (lineAt s n) then endReceiving n e false s
  else if inSending (lineAt s n) then endAttempt n .lineLost .fault false s
  else if (lineAt s n).chan = .alerted then mark (.line n) s
  else s

/-- The line enters FAULT (R73). -/
def enterFault (n : LineNo) (cause : FaultCause) (s : State) : State :=
  let s1 := endByFault n .fault s
  reportRun n (mark (.line n) (modLine n (fun l => { l with
    returnState := some (l.pendingService.getD l.service)
    pendingService := none
    service := .fault
    faultCause := some cause
    acks := []
    reset := .none
    chan := .idle
    call := none }) s1))

/-- The line is lost in a receiving call, by an event other than RELEASED (R90), or in an attempt (R95): RELEASE is sent. -/
def lineLost (n : LineNo) (s : State) : State :=
  if inReceiving (lineAt s n) then endReceiving n .lost true s
  else if inSending (lineAt s n) then endAttempt n .lineLost .lost true s
  else s

/-! ## Admission -/

/-- A call is refused at admission (R80): REJECT, the counter, the subject, and the REFUSED entry of a reason that has one. -/
def refuseCall (n : LineNo) (c : RxCall) (reason : Option RefusedReason) (s : State) : State :=
  let s1 := releaseWith n .reject (modRx n (fun r => { r with route := none }) s)
  let s2 := mark (.line n) (modStats n (fun st => { st with refused := satSucc counterTop st.refused }) s1)
  match reason with
  | none => s2
  | some why => (append (.refused n c.digits c.calling why) s2).1

/-- OFFER is sent (R82, R102, R22): the offered maximum and fine allowed are computed as it is sent. -/
def sendOffer (n : LineNo) (c : RxCall) (s : State) : State :=
  let (s1, ceiling) := match c.calling with
    | some number => lookupCaller number s
    | none => (s, topStep)
  let most := min (lineAt s1 n).maxStep ceiling
  let fine := !s1.store.pressure
  sendCmd n (.offer most fine) (modRx n (fun r => { r with offeredMax := some most, fineAllowed := some fine }) s1)

/-- Admission (R80, R81). -/
def admission (n : LineNo) (s : State) : State :=
  match rxOf (lineAt s n) with
  | none => s
  | some c =>
    let route := lookupRoute s.routes (calledString c.digits (lineAt s n).defaultKey)
    let s0 := modRx n (fun r => { r with route := some route }) s
    if atHighWater s0 then refuseCall n c none s0
    else
      match takeSlot s0 with
      | none => refuseCall n c (some .directory) s0
      | some (s1, number) =>
        let s2 := addDoc (newDocument number route n c.digits c.calling s1.clock.cal) s1
        match reserve n route.dept s2.policy.landingAllotment s2 with
        | (s3, false) => refuseCall n c (some .quota) (dropDoc number s3)
        | (s3, true) =>
          let s4 := sendCmd n .answer (modRx n (fun r => { r with document := some number }) s3)
          let s5 := modStats n (fun st => { st with answered := satSucc counterTop st.answered }) s4
          startWait n .receiverSignal signalWaitMs (sendOffer n c (setChan n .negotiating s5))

/-- The admission test (R79): in ALERTED, with the ring count reached and the digits closed. -/
def testAdmission (n : LineNo) (s : State) : State :=
  match rxOf (lineAt s n) with
  | none => s
  | some c =>
    if (lineAt s n).chan = .alerted ∧ s.policy.answerRings ≤ c.rings ∧ c.closed = true then admission n s else s

/-! ## Sending pages -/

/-- The page a sending call is at, with its number of pages. -/
def txPage (s : State) (t : TxCall) : Option (Page × Nat) :=
  (findDoc s t.document).bind (fun d => (pageOf d t.page).map (fun p => (p, d.pages.length)))

/-- The next SEND-PAGE-DATA of the page, read through the monitor, or PAGE-END-MARK after the last (R131); an uncorrectable read
halts the send (R132). -/
def sendNext (n : LineNo) (s : State) : State :=
  match txOf (lineAt s n) with
  | none => s
  | some t =>
    match txPage s t with
    | none => s
    | some (p, pages) =>
      if t.offset < p.length then
        match readSpan (.send n) t.document p t.offset portBytes s with
        | (s1, none) => endAttempt n .damaged .outcome true s1
        | (s1, some data) =>
          sendCmd n (.sendPageData data) (modTx n (fun u => { u with offset := u.offset + portBytes }) s1)
      else sendCmd n (.pageEndMark (decide (pages ≤ t.page))) s

/-- The send of the page due begins (R131): the send count rises; a page marked damaged halts the send unread (R132). -/
def beginPage (n : LineNo) (s : State) : State :=
  let s1 := setWait n none (setChan n .sending (modTx n (fun u => { u with sends := u.sends + 1, offset := 0 }) s))
  match txOf (lineAt s1 n) with
  | none => s1
  | some t =>
    match txPage s1 t with
    | none => s1
    | some (p, _) => if p.damaged then endAttempt n .damaged .outcome true s1 else sendNext n s1

/-- The sender chooses a step and trains at it (R103, R129, R130, R133). -/
def trainAt (n : LineNo) (step : Nat) (res : Resolution) (s : State) : State :=
  let s1 := modTx n (fun u => { u with step := step, resolution := res }) s
  startWait n .sender signalWaitMs (setChan n .training (sendCmd n (.train step) (sendCmd n (.choose step res) s1)))

/-- A wait of the given kind is the one running on the line: its expiry. -/
def waitOf (l : Line) (k : WaitKind) : Option Nat :=
  match l.call with
  | some ⟨some w, _⟩ => if w.kind = k then some w.expiry else none
  | _ => none

/-- The wait of a kind expires (R71, R186): none when no such wait runs; otherwise run time has reached it and it is gone. -/
def expireWait (n : LineNo) (k : WaitKind) (s : State) : Option State :=
  (waitOf (lineAt s n) k).map (fun t => setWait n none (advanceTo t s))

end Sys2Proof.Machine
end

