-- ==== Sys2Proof/Machine/OpsLink.lean ====
section
/-! DEFINITION. Machine/OpsLink.lean: taking requests (R210), the snapshots of notices (R216), the receiver (R208), and the
frames of the open transfer (R156 to R159). -/

namespace Sys2Proof.Machine

/-! ## Taking requests -/

/-- The intake queue once the request of a tag has been taken from its head (R209). -/
def afterTaking (tag : Byte) : List Frame → List Frame
  | [] => []
  | f :: rest => if f.tag = tag then rest else f :: rest

/-- The frame at the head of the intake queue carries the tag (R210, log entry 8). -/
def atHead (tag : Byte) (s : State) : Bool := s.link.intake.head?.any (fun f => f.tag == tag)

/-- The frame of the request now taken leaves the head of the intake queue. -/
def takeFrame (tag : Byte) (s : State) : State := { s with link.intake := afterTaking tag s.link.intake }

/-- The link takes the request of a tag (R210, R212, R219, R222): its frame is at the head of the intake queue, the part is not held
in reset nor in phase RESTARTING, and fewer than 8 responses wait. -/
def takesRequests (tag : Byte) (s : State) : Bool :=
  (s.part.phase == some .starting || s.part.phase == some .ready) && decide (s.link.responses.length < intakePlaces) && atHead tag s

/-- The frame at the head of the intake queue has an empty body. -/
def emptyBody (s : State) : Bool := s.link.intake.head?.any (fun f => f.body.isEmpty)

/-- A request that carries no argument (R143, R225, R233). -/
def bareKind (k : ReqKind) : Bool := k == .resumeForwarding || k == .restart || k == .readStatus

/-- The body length of the frame at the head fits the kind (R210): that of a kind with no argument is 0, that of any other is not, and
the envelope says whether it is the right one (log entry 8). -/
def lengthFits (r : Envelope) (k : ReqKind) (s : State) : Bool := if bareKind k then emptyBody s else r.fits && !emptyBody s

/-- A request of a known kind is taken (R210): a length that does not fit is answered BAD-LENGTH, in phase STARTING every request
but Read Status is answered NOT-READY, and any other goes to its owner. -/
def takeRequest (r : Envelope) (k : ReqKind) (own : State → State) (s : State) : State :=
  if takesRequests r.tag s then
    let s1 := takeFrame r.tag s
    if lengthFits r k s = false then respond r.tag k .badLength .empty s1
    else if s1.part.phase = some .starting ∧ k ≠ .readStatus then respond r.tag k .notReady .empty s1
    else own s1
  else s

/-! ## Snapshots -/

/-- The LINE snapshot (R98, R104). -/
def lineSnapshot (n : LineNo) (l : Line) : Snapshot :=
  .line n l.service l.pendingService l.returnState l.faultCause l.chan (roleOf l) l.outbound l.maxStep l.defaultKey
    ((rxOf l).map (fun r => ⟨r.document, r.pages, r.offeredMax, r.step, r.resolution, r.trainFails, r.lastVerdict, r.lastCause⟩))
    ((txOf l).map (fun t => ⟨t.job, t.step⟩)) l.stats

/-- The DEPARTMENT snapshot (R27): zeros for an unconfigured department. -/
def departmentSnapshot (s : State) (d : Dept) : Snapshot :=
  let a := acct s d
  if a.configured then
    .department d true a.name a.guarantee a.cap a.retention a.used a.resv a.committed a.borrow a.lastFailure
      (readyQueue s d).length
  else .department d false [] 0 0 0 0 0 0 0 none 0

/-- The JOURNAL snapshot (R182). -/
def journalSnapshot (s : State) : Snapshot :=
  .journal
    { last := lastSeq s, next := s.journal.nextSeq, oldest := oldestSeq s, releasePoint := s.journal.releasePoint
      held := s.journal.ring.length, unreleased := s.journal.unreleased, highWater := atHighWater s
      overrun := s.journal.overrun, cal := s.clock.cal, trusted := s.clock.trusted, run := s.clock.run }

/-- A block on the free list or in a page list is in service (R202). -/
def inService (s : State) (b : Block) : Bool :=
  s.store.free.contains b ||
    s.dir.docs.any (fun d => d.pages.any (fun p => p.blocks.contains b) ||
      (match d.landing with
        | some l => l.blocks.contains b
        | none => false))

/-- The blocks of a health that p passes. -/
def countHealth (s : State) (h : Health) (p : Block → Bool) : Nat :=
  (s.integrity.health.filter (fun e => decide (e.2.health = h) && p e.1)).length

/-- The counts of R202 and R203. -/
def integrityFigures (s : State) : IntegrityFigures where
  corrected := s.integrity.corrected
  uncorrectable := s.integrity.uncorrectable
  weakInService := countHealth s .weak (inService s)
  badInService := countHealth s .bad (inService s)
  sparesLeft := s.store.spares.length
  retiredCount := s.store.retired.length
  sparesExhausted := s.integrity.exhausted

/-- The INTEGRITY snapshot (R203): a retired block's health is that at its retirement, for nothing reads it after. -/
def integritySnapshot (s : State) : Snapshot :=
  .integrity s.integrity.records.getLast? s.integrity.nextSerial (integrityFigures s)
    (countHealth s .weak (fun b => s.store.retired.contains b)) (countHealth s .bad (fun b => s.store.retired.contains b))

/-- A WAITING job whose next due has been reached (R116). -/
def isDue (s : State) (j : Job) : Bool := !j.inCall && decide (j.nextDue ≤ s.clock.run)

/-- The smallest of some run times. -/
def earliest : List Nat → Option Nat
  | [] => none
  | x :: xs =>
    match earliest xs with
    | none => some x
    | some y => some (min x y)

/-- The FORWARD snapshot (R144). -/
def forwardSnapshot (s : State) : Snapshot :=
  .forward s.fwd.suspended s.fwd.jobs.length (s.fwd.jobs.filter (fun j => !j.inCall)).length
    (s.fwd.jobs.filter (isDue s)).length (s.fwd.jobs.filter Job.inCall).length
    (earliest ((s.fwd.jobs.filter (fun j => !j.inCall && !isDue s j)).map Job.nextDue)) s.fwd.lastEnd

/-- The snapshot of a subject as it stands (R216). -/
def snapshot (s : State) : Subject → Snapshot
  | .line n => lineSnapshot n (lineAt s n)
  | .department d => departmentSnapshot s d
  | .store => .store (storeFigures s)
  | .journal => journalSnapshot s
  | .integrity => integritySnapshot s
  | .forward => forwardSnapshot s

/-! ## The receiver -/

/-- A frame whose check passes (R208, R209, R219): counted, and placed in the intake queue or discarded as an overrun. -/
def completeFrame (f : Frame) (s : State) : State :=
  let s1 : State := { s with link.stats.frames := satSucc counterTop s.link.stats.frames }
  if s.part.phase = some .restarting then
    { s1 with
      link.stats.overruns := satSucc counterTop s1.link.stats.overruns
      part.tally := s1.part.tally.map (fun t => { t with framesDiscarded := t.framesDiscarded + 1 }) }
  else if s.link.intake.length < intakePlaces then { s1 with link.intake := s1.link.intake ++ [f] }
  else { s1 with link.stats.overruns := satSucc counterTop s1.link.stats.overruns }

/-- A check error is counted (R208). -/
def countCheckError (s : State) : State :=
  { s with link.stats.checkErrors := satSucc counterTop s.link.stats.checkErrors }

/-- A length error is counted (R208). -/
def countLengthError (s : State) : State :=
  { s with link.stats.lengthErrors := satSucc counterTop s.link.stats.lengthErrors }

/-- The bytes the receiver keeps: those of a frame not yet complete, from its mark on. -/
def keepBytes (buf : List Byte) (s : State) : State := { s with link.rx := buf }

/-- The receiver goes through the bytes it has (R207, R208). Each round drops at least the first byte, so fuel above their
number is enough. -/
def scan : Nat → List Byte → State → State
  | 0, buf, s => keepBytes buf s
  | _ + 1, [], s => keepBytes [] s
  | _ + 1, [x], s => keepBytes (if x = 0xC3 then [x] else []) s
  | k + 1, x :: y :: rest, s =>
    if x ≠ 0xC3 ∨ y ≠ 0x3C then scan k (y :: rest) s
    else
      match rest with
      | lo :: hi :: body =>
        let n := le16 lo hi
        if maxBody < n then scan k (y :: rest) (countLengthError s)
        else if body.length < n + 4 then keepBytes (x :: y :: rest) s
        else
          let checked := lo :: hi :: body.take (n + 2)
          let check := (body.drop (n + 2)).take 2
          if check = [(crc16 checked).truncate 8, ((crc16 checked) >>> 8).truncate 8] then
            scan k (body.drop (n + 4))
              (completeFrame ⟨body.headD 0, (body.drop 1).headD 0, (body.drop 2).take n⟩ s)
          else scan k (y :: rest) (countCheckError s)
      | _ => keepBytes (x :: y :: rest) s

/-! ## The open transfer -/

/-- Changes the open transfer. -/
def setTransfer (t : Option Transfer) (s : State) : State := { s with collect.transfer := t }

/-- The Transfer End of a transfer (R159, R160). -/
def transferEndFrame (t : Transfer) (status : Ending) (stored : Option (BitVec 32)) : TransferFrame :=
  .transferEnd t.doc status t.bytesSent stored (crc32Final t.crc) t.pagesWhole t.omitted

/-- The next frame of the open transfer is prepared and handed to the scheduler (R156 to R159). Each round either hands a frame or
leaves a page behind, so fuel above the number of pages is enough. -/
def prepareFrame : Nat → State → State
  | 0, s => s
  | k + 1, s =>
    match s.collect.transfer with
    | none => s
    | some t =>
      match findDoc s t.doc with
      | none => s
      | some d =>
        match pageOf d t.page with
        | none =>
          let status : Ending := if t.omitted = [] then .complete else .omissions
          setTransfer (some { t with ending := some status })
            { s with link.waiting := some (transferEndFrame t status d.digest) }
        | some p =>
          let next : Transfer := { t with page := t.page + 1, offset := 0 }
          if t.offset = 0 ∧ p.damaged = true then
            prepareFrame k (setTransfer (some { next with omitted := t.omitted ++ [p.number] }) s)
          else
            match readSpan .transfer t.doc p t.offset chunkBytes s with
            | (s1, none) => prepareFrame k (setTransfer (some { next with omitted := t.omitted ++ [p.number] }) s1)
            | (s1, some data) =>
              let u := { t with crc := crc32Run t.crc data, bytesSent := t.bytesSent + data.length }
              let after := if p.length ≤ t.offset + chunkBytes
                then { u with page := t.page + 1, offset := 0, pagesWhole := t.pagesWhole + 1 }
                else { u with offset := t.offset + chunkBytes }
              setTransfer (some after) { s1 with link.waiting := some (.pageData t.doc p.number t.offset data) }

/-- The next frame of the open transfer. -/
def prepareNext (s : State) : State :=
  match s.collect.transfer.bind (fun t => findDoc s t.doc) with
  | none => s
  | some d => prepareFrame (d.pages.length + 2) s

end Sys2Proof.Machine
end

