-- ==== Sys2Proof/Machine/Start.lean ====
section
/-! DEFINITION. Machine/Start.lean: power, the RESET pin and store initialization (11.2), Restart and its end (11.3), the policy
settings (11.4) and Read Status (11.5). -/

namespace Sys2Proof.Machine

/-! ## Power and the RESET pin -/

/-- The rate the strap selects (R206, physical notes). -/
def strapRate (high : Bool) : LinkRate := if high then .fast else .slow

/-- The part is held in reset, all it held discarded; nothing writes the store memory meanwhile (R222). -/
def holdInReset (power pin : Bool) (s : State) : State :=
  State.fresh s.pending ⟨power, pin, none, s.part.cause, 0, none⟩ s.link.rate s.link.rts s.mem s.dram

/-- The part leaves reset (R222): the cause recorded, the clocks at 0, the strap sampled, store initialization begun. -/
def leaveReset (cause : ResetCause) (strapHigh : Bool) (s : State) : State :=
  State.fresh s.pending ⟨true, false, some .starting, cause, 0, none⟩ (strapRate strapHigh) s.link.rts s.mem s.dram

/-- POWER_ON (R222): with the RESET pin released the part leaves reset, and with it asserted it is held. -/
def execPowerOn (strapHigh : Bool) (s : State) : Result State :=
  .next (if s.part.pinAsserted then holdInReset true true s else leaveReset .powerOn strapHigh s)

/-- RESET_PIN_ASSERT (R222, R229). -/
def execResetPinAssert (s : State) : Result State := .next (holdInReset s.part.powerGood true s)

/-- RESET_PIN_RELEASE (R222): with power good the part leaves reset. -/
def execResetPinRelease (strapHigh : Bool) (s : State) : Result State :=
  .next (if s.part.powerGood then leaveReset .resetPin strapHigh s else holdInReset false false s)

/-- POWER_FAILURE (R222, R229). -/
def execPowerFailure (s : State) : Result State := .next (holdInReset false s.part.pinAsserted s)

/-- The blocks of consecutive numbers. -/
def blocksFrom (first count : Nat) : List Block := (List.range' first count).map (Fin.ofNat 32768)

/-- Every line. -/
def allLines : List LineNo := List.finRange 16

/-- What store initialization leaves (R2): the lists, every block HEALTHY, and every group with valid check bits, which
leaves the faults that persist (R205). -/
def initializedStore (s : State) : State :=
  { s with
    store.free := blocksFrom 0 poolBlocks
    store.spares := blocksFrom poolBlocks spareBlocks
    store.retired := []
    integrity.health := []
    mem := []
    dram := { s.dram with faults := s.dram.faults.filter DramFault.persists } }

/-- STORE_INITIALIZATION_COMPLETE (R224, R100): in phase STARTING only. -/
def execStoreInitializationComplete (s : State) : Result State :=
  .next (
    if s.part.phase = some .starting then
      allLines.foldl (fun t n => sendCmd n .presentBusy t) (initializedStore { s with part.phase := some .ready })
    else s)

/-! ## Restart -/

/-- The link's restart effect (R219). -/
def restartLink (tag : Byte) (s : State) : State :=
  { s with
    part.phase := some .restarting
    part.tally := some ⟨tag, 0, 0, 0, 0, 0, 0, none, 0, 0⟩
    link.intake := []
    link.notices := []
    link.holdNotices := true }

/-- Changes the figures being counted for the Restart response. -/
def modTally (f : RestartTally → RestartTally) (s : State) : State :=
  { s with part.tally := s.part.tally.map f }

/-- An open offer is withdrawn (R166, step 2). -/
def withdrawOffer (s : State) (o : Offer) : State := becomeDue o.doc s

/-- The Collect Service's restart effect (R166). MODEL'S CHOICE (log entry 29): the documents of several open offers rejoin their queues in
the order in which the offers were made, the oldest first. -/
def restartCollect (s : State) : State :=
  let s1 := modTally (fun t => { t with
    collectDropped := s.collect.queue.length
    offersWithdrawn := s.collect.offers.length
    transferStopped := s.collect.transfer.map Transfer.doc }) { s with collect.queue := [], collect.offers := [] }
  let s2 := s.collect.offers.foldl withdrawOffer s1
  match s2.collect.transfer with
  | none => s2
  | some t =>
    let s3 := setTransfer none { s2 with link.waiting := none }
    if t.ending = some .aborted then s3 else becomeDue t.doc s3

/-- A channel's restart effect (R99), counted as R228 asks. MODEL'S CHOICE (log entry 38): attempts released counts the attempts released
here; a job whose outcome its channel has handed and the engine has not yet taken has no attempt left to release and is not counted. -/
def restartLine (s : State) (n : LineNo) : State :=
  let l := lineAt s n
  if l.chan = .alerted then
    modTally (fun t => { t with callsRejected := t.callsRejected + 1 }) (mark (.line n) (releaseWith n .reject s))
  else if inReceiving l then
    let landed := ((rxOf l).bind RxCall.document).bind (findDoc s)
    modTally (fun t => { t with
        callsEnded := t.callsEnded + 1
        documentsLanded := t.documentsLanded + (if landed.any (fun d => !d.pages.isEmpty) then 1 else 0) })
      (endReceiving n .restart true s)
  else if inSending l then
    modTally (fun t => { t with attemptsReleased := t.attemptsReleased + 1 }) (releaseAttempt n s)
  else s

/-- Every verification ends without a response (R51), and a deadline that has passed is acted on (R44). -/
def restartVerifications (s : State) : State :=
  let ended := s.dir.verifications.map Verification.doc
  let s1 := modTally (fun t => { t with verificationsEnded := ended.length }) { s with dir.verifications := [] }
  let s2 := ended.foldl (fun t n => modDoc n (fun d => { d with verifying := false }) t) s1
  ended.foldl (fun t n => purgeIfPassed n t) s2

/-- The Forwarding Engine's restart effect (R142): every IN-CALL job waits and is interrupted. MODEL'S CHOICE (log entries 6 and 38):
outcomes on their way to it are dropped, so that a job whose outcome was handed and not yet taken is among them. -/
def restartForwarding (s : State) : State :=
  mark .forward
    { s with
      fwd.jobs := s.fwd.jobs.map (fun j =>
        if j.inCall then { j with inCall := false, nextDue := s.clock.run, line := none, interrupted := true } else j)
      fwd.suspended := true
      fwd.handed := [] }

/-- RESTART (R225, R226): every block applies its restart effect, the link's first and the Collect Service's before any call ends. MODEL'S
CHOICE (log entry 29): the calls end line by line, from line 0 to line 15. -/
def execRestart (r : Envelope) (s : State) : Result State :=
  .next (takeRequest r .restart (fun t =>
    restartForwarding (restartVerifications (allLines.foldl restartLine (restartCollect (restartLink r.tag t))))) s)

/-- The content of the Restart response (R228). -/
def restartReport (t : RestartTally) (seq : Option Nat) (s : State) : RestartReport where
  restarts := s.part.restarts
  entry := seq
  run := s.clock.run
  callsEnded := t.callsEnded
  documentsLanded := t.documentsLanded
  callsRejected := t.callsRejected
  attemptsReleased := t.attemptsReleased
  collectDropped := t.collectDropped
  offersWithdrawn := t.offersWithdrawn
  transferStopped := t.transferStopped
  verificationsEnded := t.verificationsEnded
  framesDiscarded := t.framesDiscarded
  forwardingSuspended := s.fwd.suspended

/-- RESTART_END (R228): the count, the RESTART entry, the cause, the phase, the deadlines that passed in the phase (R44), and the
response. MODEL'S CHOICE (log entries 20 and 29): the purges come at this moment, in the order of the reclaim list. -/
def execRestartEnd (s : State) : Result State :=
  .next (
    if s.part.phase = some .restarting then
      let s1 : State := { s with part.restarts := satSucc maxNumber s.part.restarts }
      let (s2, seq) := append (.restart s1.part.restarts) s1
      let s3 : State := { s2 with part.cause := .restartRequest, part.phase := some .ready, part.tally := none }
      let s4 := s3.dir.reclaim.foldl (fun t n => purgeIfPassed n t) s3
      match s.part.tally with
      | none => s4
      | some t => respond t.tag .restart .done (.restart (restartReport t seq s4)) s4
    else s)

/-! ## Policy -/

/-- One setting after Set Policy (R230). -/
def applySetting (f : PolicyField) (lo hi current : Nat) : Nat :=
  if f.change = some true then clamp lo hi f.value else current

/-- The eight settings after Set Policy (R230). -/
def applyPolicy (p : PolicyRequest) (c : Policy) : Policy where
  landingAllotment := applySetting p.landingAllotment 8 64 c.landingAllotment
  inboundReserve := applySetting p.inboundReserve 0 15 c.inboundReserve
  retryBase := applySetting p.retryBase 30 600 c.retryBase
  retryCeiling := applySetting p.retryCeiling 300 7200 c.retryCeiling
  attemptLimit := applySetting p.attemptLimit 1 15 c.attemptLimit
  failLimit := applySetting p.failLimit 2 9 c.failLimit
  answerRings := applySetting p.answerRings 1 9 c.answerRings
  offerWindow := applySetting p.offerWindow 2 30 c.offerWindow

/-- The marks of a Set Policy response. MODEL'S CHOICE (log entry 33): a setting whose change mark is yes counts as changed although the
value applied may be the one it had. -/
def policyMarks (p : PolicyRequest) : PolicyMarks :=
  let m (f : PolicyField) : Bool := f.change == some true
  ⟨m p.landingAllotment, m p.inboundReserve, m p.retryBase, m p.retryCeiling, m p.attemptLimit, m p.failLimit, m p.answerRings,
    m p.offerWindow⟩

/-- A change mark is neither yes nor no (R230). -/
def badPolicy (p : PolicyRequest) : Bool :=
  [p.landingAllotment, p.inboundReserve, p.retryBase, p.retryCeiling, p.attemptLimit, p.failLimit, p.answerRings,
    p.offerWindow].any (fun f => f.change.isNone)

/-- Set Policy as its owner takes it (R230, R231): the counts of the Caller Memory are clamped when F is lowered, a changed R owes
the arbiter a run, and changed answer rings test every ALERTED call (R79). MODEL'S CHOICE (log entry 30): from line 0 to line 15. -/
def setPolicy (tag : Byte) (p : PolicyRequest) (s : State) : State :=
  if badPolicy p then respond tag .setPolicy .badArgument .empty s
  else
    let m := policyMarks p
    let new := applyPolicy p s.policy
    let s1 : State := { s with policy := new }
    let s2 := if new.failLimit < s.policy.failLimit
      then { s1 with callers.table := clampFails new.failLimit s1.callers.table } else s1
    let s3 := if m.inboundReserve then oweRun s2 else s2
    let s4 := if m.answerRings then allLines.foldl (fun t n => testAdmission n t) s3 else s3
    respond tag .setPolicy .done (.policy new m) s4

/-- SET_POLICY (R230). -/
def execSetPolicy (r : Envelope) (p : PolicyRequest) (s : State) : Result State :=
  .next (takeRequest r .setPolicy (setPolicy r.tag p) s)

/-! ## Read Status -/

/-- A line as Read Status shows it (R233). -/
def lineView (l : Line) : LineView := ⟨l.service, l.pendingService, l.chan⟩

/-- The figures of Read Status (R233, R234). -/
def statusReport (ph : Phase) (s : State) : StatusReport where
  phase := ph
  cause := s.part.cause
  restarts := s.part.restarts
  run := s.clock.run
  cal := s.clock.cal
  trusted := s.clock.trusted
  forwardingSuspended := s.fwd.suspended
  answeringSuspended := atHighWater s
  store := storeFigures s
  recordsInUse := s.dir.docs.length
  unreleased := s.journal.unreleased
  overrun := s.journal.overrun
  lines := s.lines.toList.map lineView

/-- READ_STATUS (R233). -/
def execReadStatus (r : Envelope) (s : State) : Result State :=
  .next (takeRequest r .readStatus (fun t =>
    match t.part.phase with
    | none => t
    | some ph => respond r.tag .readStatus .done (.status (statusReport ph t)) t) s)

end Sys2Proof.Machine
end

