-- ==== Sys2Proof/Machine/LinkCommands.lean ====
section
/-! DEFINITION. Machine/LinkCommands.lean: bytes and frames from the host (R208, R209), request-to-send and the output scheduler
(R214), unknown kinds (R210), Set Notices (R217) and Read Link Statistics (R218). -/

namespace Sys2Proof.Machine

/-- The receiver is inside a frame, its mark found (R208). -/
def inFrame (s : State) : Bool := decide (2 ≤ s.link.rx.length)

/-- More than 20 ms of run time have passed inside a frame since its last byte (R208). -/
def gapPassed (s : State) : Bool := inFrame s && decide (s.link.rxTime + byteGapMs < s.clock.run)

/-- A frame is abandoned after its mark, and counted as a check error (R208). -/
def abandonFrame (s : State) : State := keepBytes [] (countCheckError s)

/-- Bytes reach the receiver now (R208): a gap that has passed abandons the frame before them. -/
def receiveBytes (bytes : List Byte) (s : State) : State :=
  let s1 := if gapPassed s then abandonFrame s else s
  let buf := s1.link.rx ++ bytes
  scan (buf.length + 1) buf { s1 with link.rxTime := s1.clock.run }

/-- FRAME_RECEIVED (R208, R209, R219): the bytes reach the receiver, which runs in every phase. -/
def execFrameReceived (bytes : List Byte) (s : State) : Result State :=
  .next (if s.part.phase = none ∨ bytes = [] then s else receiveBytes bytes s)

/-- BYTE_GAP_TIMEOUT (R208): run time has gone more than 20 ms past the last byte of a frame (log entry 5), which is abandoned. -/
def execByteGapTimeout (s : State) : Result State :=
  .next (if inFrame s then abandonFrame (advanceTo (s.link.rxTime + byteGapMs + 1) s) else s)

/-- BYTE_WITHOUT_STOP_BIT (R208): the byte abandons a frame after its mark; while the receiver hunts it is dropped, and a mark's first
byte before it starts no frame. -/
def execByteWithoutStopBit (s : State) : Result State :=
  .next (if inFrame s then abandonFrame s else keepBytes [] s)

/-- REQUEST_TO_SEND_CHANGE (R214): the level the host drives. -/
def execRequestToSendChange (active : Bool) (s : State) : Result State := .next { s with link.rts := active }

/-- The frame begins to send. -/
def putOnLine (f : OutFrame) (s : State) : State := { s with link.onLine := some f }

/-- The send count rises with each Notice, Page Data and Transfer End frame (R207). -/
def raiseSendCount (s : State) : State := { s with link.sendCount := s.link.sendCount + 1 }

/-- The sending of a response begins: notices wait for the Restart response no longer (R219). -/
def beginResponse (x : Response) (rest : List Response) (s : State) : State :=
  putOnLine (.response x)
    { s with
      link.responses := rest
      link.holdNotices := s.link.holdNotices && !(x.kind == .restart && x.status == .done) }

/-- The sending of a notice begins: the subject leaves the set and its snapshot is taken now (R216). -/
def beginNotice (x : Subject) (rest : List Subject) (s : State) : State :=
  raiseSendCount (putOnLine (.notice s.link.sendCount x (snapshot s x)) { s with link.notices := rest })

/-- The sending of a Transfer End begins: the transfer closes (R155, R159), and a document sent has its sent record (R162). -/
def closeTransfer (t : Transfer) (status : Ending) (s : State) : State :=
  let s1 := setTransfer none s
  if status = .aborted then s1
  else
    modDoc t.doc (fun d => { d with disposition := .sent })
      { s1 with collect.sent := s1.collect.sent ++ [⟨t.doc, t.pagesWhole, t.omitted.length⟩] }

/-- The sending of the transfer's waiting frame begins: after a Page Data frame the next is prepared (R157), and a Transfer End
closes the transfer (R159). -/
def beginTransferFrame (f : TransferFrame) (s : State) : State :=
  let s1 := raiseSendCount (putOnLine (.transfer s.link.sendCount f) { s with link.waiting := none })
  match f, s1.collect.transfer with
  | .pageData _ _ _ _, _ => prepareNext s1
  | .transferEnd _ status _ _ _ _ _, some t => closeTransfer t status s1
  | .transferEnd _ _ _ _ _ _ _, none => s1

/-- BEGIN_FRAME_SEND (R214): with request-to-send active the scheduler begins a response, else a notice, else the transfer's frame. No
notice begins in phase RESTARTING nor before the Restart response (R219). -/
def execBeginFrameSend (s : State) : Result State :=
  .next (
    if s.part.phase = none ∨ s.link.rts = false then s
    else
      match s.link.responses with
      | x :: rest => beginResponse x rest s
      | [] =>
        match s.link.notices, s.part.phase == some .restarting || s.link.holdNotices with
        | x :: rest, false => beginNotice x rest s
        | _, _ =>
          match s.link.waiting with
          | some f => beginTransferFrame f s
          | none => s)

/-- UNKNOWN_KIND_REQUEST (R210, R212): the frame at the head of the intake queue has the kind, which names no request. -/
def execUnknownKindRequest (tag kind : Byte) (s : State) : Result State :=
  .next (if takesRequests tag s && s.link.intake.head?.any (fun f => f.kind == kind) then respond tag (.unknown kind) .unknownKind .empty (takeFrame tag s) else s)

/-- A class after Set Notices (R217). -/
def applyEnable : Enable → Bool → Bool
  | .enable, _ => true
  | .disable, _ => false
  | .keep, c => c

/-- Set Notices as the link takes it (R217): disabling a class removes its listed subjects. -/
def setNotices (tag : Byte) (line dept store journal integrity forward : Enable) (s : State) : State :=
  let c := s.link.classes
  let new : Classes :=
    { line := applyEnable line c.line, department := applyEnable dept c.department, store := applyEnable store c.store
      journal := applyEnable journal c.journal, integrity := applyEnable integrity c.integrity
      forward := applyEnable forward c.forward }
  let off : Classes :=
    { line := line == .disable, department := dept == .disable, store := store == .disable
      journal := journal == .disable, integrity := integrity == .disable, forward := forward == .disable }
  let kept := s.link.notices.filter (fun x => !off.enables x)
  respond tag .setNotices .done (.notices new (s.link.notices.length - kept.length))
    { s with link.classes := new, link.notices := kept }

/-- SET_NOTICES (R217): a value that is not one of the three is refused. -/
def execSetNotices (r : Envelope) (line dept store journal integrity forward : Option Enable) (s : State) : Result State :=
  .next (takeRequest r .setNotices (fun t =>
    match line, dept, store, journal, integrity, forward with
    | some a, some b, some c, some d, some e, some f => setNotices r.tag a b c d e f t
    | _, _, _, _, _, _ => respond r.tag .setNotices .badArgument .empty t) s)

/-- READ_LINK_STATISTICS (R218): the counters are cleared in the event that reads them. -/
def execReadLinkStatistics (r : Envelope) (clear : Bool) (s : State) : Result State :=
  .next (takeRequest r .readLinkStatistics (fun t =>
    respond r.tag .readLinkStatistics .done (.linkStats t.link.stats t.link.rate t.link.sendCount)
      { t with link.stats := if clear then LinkStats.zero else t.link.stats }) s)

end Sys2Proof.Machine
end

