-- ==== Sys2Proof/Machine/StoreCommands.lean ====
section
/-! DEFINITION. Machine/StoreCommands.lean: Set Department and Remove Department (1.6), and the routes (3.2). -/

namespace Sys2Proof.Machine

/-! ## Departments -/

/-- The account a Set Department asks for, after clamping (R23, step 2). -/
def requestedAccount (a : Account) (name : Text) (guarantee cap retention : Nat) : Account :=
  let g := clamp 0 maxGuarantees guarantee
  { a with
    configured := true
    name := name
    guarantee := g
    cap := clamp g poolBlocks cap
    retention := clamp 0 maxRetention retention }

/-- The checks of R23, steps 3 to 5, on the account asked for: the status of the first that fails. -/
def departmentCheck (s : State) (d : Dept) (new : Account) : Option Status :=
  let a := acct s d
  let others := guarantees s - (if a.configured then a.guarantee else 0)
  let delta := new.guarantee - a.guarantee
  if maxGuarantees < others + new.guarantee then some .limit
  else if new.cap < a.committed then some .inUse
  else if a.guarantee < new.guarantee ∧ sharedPool s - delta < sharedCommitted s - min delta a.borrow then some .limit
  else none

/-- Marks STORE when S has changed between two states (R24, R25). -/
def markPoolChange (before : State) (s : State) : State :=
  if sharedPool before = sharedPool s then s else mark .store s

/-- Set Department as the store takes it (R23, R24). -/
def setDepartment (tag : Byte) (dept : Nat) (name : Text) (guarantee cap retention : Nat) (s : State) : State :=
  match deptOf dept, isName name with
  | some d, true =>
    let a := acct s d
    let new := requestedAccount a name guarantee cap retention
    match departmentCheck s d new with
    | some why => respond tag .setDepartment why .empty s
    | none =>
      let applied : Account := if a.configured then new else { new with used := 0, resv := 0, lastFailure := none }
      let s1 := setAcct d (fun _ => applied) s
      let s2 := markPoolChange s (mark (.department d) (evalPressure s1))
      respond tag .setDepartment .done (.department applied.guarantee applied.cap applied.retention (sharedPool s2)) s2
  | _, _ => respond tag .setDepartment .badArgument .empty s

/-- SET_DEPARTMENT (R23, R24). -/
def execSetDepartment (r : Envelope) (dept : Nat) (name : Text) (guarantee cap retention : Nat) (s : State) : Result State :=
  .next (takeRequest r .setDepartment (setDepartment r.tag dept name guarantee cap retention) s)

/-- What keeps a department from being removed (R25, step 3). -/
def departmentInUse (s : State) (d : Dept) : Bool :=
  decide (0 < (acct s d).committed) || s.routes.any (fun e => decide (e.dept = d)) ||
    s.dir.docs.any (fun x => decide (x.dept = d)) || s.collect.queue.any (fun w => decide (w.dept = d))

/-- Remove Department as the store takes it (R25). -/
def removeDepartment (tag : Byte) (dept : Nat) (s : State) : State :=
  match deptOf dept with
  | none => respond tag .removeDepartment .badArgument .empty s
  | some d =>
    if d = 0 then respond tag .removeDepartment .badArgument .empty s
    else if (acct s d).configured = false then respond tag .removeDepartment .noSuch .empty s
    else if departmentInUse s d then respond tag .removeDepartment .inUse .empty s
    else
      let s1 := setAcct d (fun _ => Account.absent) s
      let s2 := markPoolChange s (mark (.department d) (evalPressure s1))
      respond tag .removeDepartment .done .empty s2

/-- REMOVE_DEPARTMENT (R25). -/
def execRemoveDepartment (r : Envelope) (dept : Nat) (s : State) : Result State :=
  .next (takeRequest r .removeDepartment (removeDepartment r.tag dept) s)

/-! ## Routes -/

/-- The entry replaces the one of its key whole, or joins the table (R58). -/
def putRoute (e : RouteEntry) (t : List RouteEntry) : List RouteEntry :=
  if (findRoute t e.key).isSome then t.map (fun x => if x.key = e.key then e else x) else t ++ [e]

/-- Set Route as the Route Table takes it (R57, R58). -/
def setRoute (tag : Byte) (key : Text) (dept : Nat) (hold collect : Option Bool) (priority : Option Priority) (dests : List Text)
    (s : State) : State :=
  match deptOf dept, hold, collect, priority, isKey key && destsForm dests with
  | some d, some h, some c, some p, true =>
    if c = false ∧ dests = [] then respond tag .setRoute .badArgument .empty s
    else if (acct s d).configured = false then respond tag .setRoute .noSuch .empty s
    else
      let known := (findRoute s.routes key).isSome
      if known = false ∧ maxRoutes ≤ s.routes.length then respond tag .setRoute .tableFull .empty s
      else
        let e : RouteEntry := ⟨key, d, ⟨h, c, dests⟩, p⟩
        let t := putRoute e s.routes
        respond tag .setRoute .done (.route e known t.length) { s with routes := t }
  | _, _, _, _, _ => respond tag .setRoute .badArgument .empty s

/-- SET_ROUTE (R57, R58). -/
def execSetRoute (r : Envelope) (key : Text) (dept : Nat) (hold collect : Option Bool) (priority : Option Priority)
    (dests : List Text) (s : State) : Result State :=
  .next (takeRequest r .setRoute (setRoute r.tag key dept hold collect priority dests) s)

/-- Remove Route as the Route Table takes it (R59). -/
def removeRoute (tag : Byte) (key : Text) (s : State) : State :=
  if isKey key = false then respond tag .removeRoute .badArgument .empty s
  else
    match findRoute s.routes key with
    | none => respond tag .removeRoute .noSuch .empty s
    | some e =>
      let t := s.routes.filter (fun x => x.key ≠ key)
      respond tag .removeRoute .done (.routeRemoved e.dept t.length) { s with routes := t }

/-- REMOVE_ROUTE (R59). -/
def execRemoveRoute (r : Envelope) (key : Text) (s : State) : Result State :=
  .next (takeRequest r .removeRoute (removeRoute r.tag key) s)

end Sys2Proof.Machine
end

