-- ==== Sys2Proof/Machine/JournalCommands.lean ====
section
/-! DEFINITION. Machine/JournalCommands.lean: Set Time, Read Journal and Release Journal (chapter 8), a spontaneous append (R173) and
the calendar clock's limit (R183). -/

namespace Sys2Proof.Machine

/-- Set Time as the journal takes it (R184). -/
def setTime (tag : Byte) (sec : BitVec 32) (ms : Nat) (s : State) : State :=
  if atHighWater s then respond tag .setTime .journalFull .empty s
  else
    let new : CalTime := ⟨sec.toNat, clamp 0 999 ms⟩
    let s1 : State := { s with clock.cal := new, clock.trusted := true }
    let (s2, seq) := append (.clock s.clock.cal s.clock.trusted new) s1
    respond tag .setTime .done (.timeSet new s.clock.cal s.clock.trusted seq) (mark .journal s2)

/-- SET_TIME (R184). -/
def execSetTime (r : Envelope) (sec : BitVec 32) (ms : Nat) (s : State) : Result State :=
  .next (takeRequest r .setTime (setTime r.tag sec ms) s)

/-- The figures of a Read Journal response (R178): all but the refusal of n = 0 carry them (log entry 31). -/
def journalFigures (s : State) (more : Bool) : JournalFigures :=
  ⟨lastSeq s, oldestSeq s, s.journal.releasePoint, s.journal.unreleased, s.journal.overrun, more⟩

/-- Read Journal as the journal takes it (R178). MODEL'S CHOICE (log entry 31): BAD-ARGUMENT carries no figures, and NO-SUCH, with no entry
returned, says that none follows the last one returned. -/
def readJournal (tag : Byte) (n : Nat) (s : State) : State :=
  if n = 0 then respond tag .readJournal .badArgument .empty s
  else
    match oldestSeq s, lastSeq s with
    | some oldest, some last =>
      let d := stepsForward oldest n
      if d < s.journal.ring.length then
        respond tag .readJournal .done
          (.journal ((s.journal.ring.drop d).take 12) (journalFigures s (decide (d + 12 < s.journal.ring.length)))) s
      else if stepsForward last n ≤ halfCycle + 1 then
        respond tag .readJournal .done (.journal [] (journalFigures s false)) s
      else respond tag .readJournal .noSuch (.journal [] (journalFigures s false)) s
    | _, _ => respond tag .readJournal .done (.journal [] (journalFigures s false)) s

/-- READ_JOURNAL (R178). -/
def execReadJournal (r : Envelope) (seq : BitVec 32) (s : State) : Result State :=
  .next (takeRequest r .readJournal (readJournal r.tag seq.toNat) s)

/-- The release point a Release Journal leads to and the entries it releases (R176). -/
def releaseTo (n : Nat) (s : State) : Nat × Nat :=
  let d := stepsForward s.journal.releasePoint n
  if n = 0 ∨ halfCycle < d then (s.journal.releasePoint, 0)
  else if d ≤ s.journal.unreleased then (n, d)
  else if s.journal.unreleased = 0 then (s.journal.releasePoint, 0)
  else ((lastSeq s).getD s.journal.releasePoint, s.journal.unreleased)

/-- Release Journal as the journal takes it (R176, R177, R180, R181): leaving high water owes the arbiter a run. -/
def releaseJournal (tag : Byte) (n : Nat) (s : State) : State :=
  let (point, count) := releaseTo n s
  let s1 : State := { s with journal.releasePoint := point, journal.unreleased := s.journal.unreleased - count }
  let cleared := decide (0 < count) && s.journal.overrun
  let left := atHighWater s && !atHighWater s1
  let s2 : State := if cleared then { s1 with journal.overrun := false } else s1
  let s3 := if left then oweRun s2 else s2
  let s4 := if cleared || left then mark .journal s3 else s3
  respond tag .releaseJournal .done (.journalReleased point count s4.journal.unreleased left cleared) s4

/-- RELEASE_JOURNAL (R176). -/
def execReleaseJournal (r : Envelope) (seq : BitVec 32) (s : State) : Result State :=
  .next (takeRequest r .releaseJournal (releaseJournal r.tag seq.toNat) s)

/-- The part runs: it is not held in reset. -/
def isRunning (s : State) : Bool := s.part.phase.isSome

/-- SPONTANEOUS_APPEND (R173): the journal takes an entry of the spontaneous class (R170). MODEL'S CHOICE (log entry 32): in phase STARTING
too, where no block asks for one. -/
def execSpontaneousAppend (content : JournalContent) (s : State) : Result State :=
  .next (if isRunning s && isSpontaneous content then (append content s).1 else s)

/-- The milliseconds from a calendar time to the clock's last value. -/
def msToLimit (t : CalTime) : Nat := calendarEnd.sec * 1000 + calendarEnd.ms - (t.sec * 1000 + t.ms)

/-- CALENDAR_CLOCK_LIMIT (R183): the calendar clock has reached its last value, and stands there. -/
def execCalendarClockLimit (s : State) : Result State :=
  .next (if isRunning s then advance (msToLimit s.clock.cal) s else s)

end Sys2Proof.Machine
end

