-- ==== Sys2Proof/Machine/DocumentCommands.lean ====
section
/-! DEFINITION. Machine/DocumentCommands.lean: the requests of chapter 2, a verification's steps and a retention deadline. -/

namespace Sys2Proof.Machine

/-- Release Hold as the directory takes it (R36). -/
def releaseHold (tag : Byte) (n : Nat) (s : State) : State :=
  match findDoc s n with
  | none => respond tag .releaseHold .noSuch .empty s
  | some d =>
    if d.life = .held then respond tag .releaseHold .done .empty (enterOpen n s)
    else respond tag .releaseHold .wrongState .empty s

/-- RELEASE_HOLD (R36). -/
def execReleaseHold (r : Envelope) (doc : Nat) (s : State) : Result State :=
  .next (takeRequest r .releaseHold (releaseHold r.tag doc) s)

/-- What keeps a document from being discarded (R46, step 2). -/
def discardBlocked (s : State) (d : Document) : Bool :=
  d.life == .landing || d.disposition == .offered || d.disposition == .transferring ||
    s.fwd.jobs.any (fun j => decide (j.document = d.number) && j.inCall) || d.verifying

/-- The PENDING entries of a document, with their indexes. -/
def pendingEntries (d : Document) : List (Nat × ForwardEntry) :=
  ((List.range d.forwards.length).zip d.forwards).filter (fun p => p.2.state == .pending)

/-- A PENDING entry becomes CANCELLED and its FORWARD entry is appended (R46, step 4); as the entry is then final, fallback and settling
are evaluated (R38, R40, R41). Subject FORWARD is not marked (log entry 13). -/
def cancelEntry (n : Nat) (s : State) (p : Nat × ForwardEntry) : State :=
  let s1 := modForward n p.1 (fun e => { e with state := .cancelled }) s
  settle n (fallback n (append (.forward n p.1 p.2.destination .cancelled p.2.attempts p.2.pages) s1).1)

/-- The document's jobs leave the list and its PENDING entries end in index order (R46, step 4). -/
def cancelPending (d : Document) (s : State) : State :=
  (pendingEntries d).foldl (cancelEntry d.number) { s with fwd.jobs := s.fwd.jobs.filter (fun j => j.document ≠ d.number) }

/-- What the Collect Service holds of a document goes with it: its sent record (R162), and an offer that a fallback of step 4 has just
made of it, since every open offer names a document that is OFFERED (R150, log entry 13). -/
def dropCollect (n : Nat) (s : State) : State :=
  { s with
    collect.sent := s.collect.sent.filter (fun x => x.doc ≠ n)
    collect.offers := s.collect.offers.filter (fun o => o.doc ≠ n) }

/-- Discard Document as the directory takes it (R46, R162). -/
def discardDocument (tag : Byte) (n : Nat) (s : State) : State :=
  match findDoc s n with
  | none => respond tag .discardDocument .noSuch .empty s
  | some d =>
    if discardBlocked s d then respond tag .discardDocument .inUse .empty s
    else if atHighWater s then respond tag .discardDocument .journalFull .empty s
    else
      let s1 := (append (.discard n) (cancelPending d s)).1
      let s2 := purgeEvent n (dropCollect n s1)
      respond tag .discardDocument .done (.discarded d.pages.length (docBlocks d).length) s2

/-- DISCARD_DOCUMENT (R46). -/
def execDiscardDocument (r : Envelope) (doc : Nat) (s : State) : Result State :=
  .next (takeRequest r .discardDocument (discardDocument r.tag doc) s)

/-- Verify Document as the directory takes it (R49): an accepted one is answered when it ends. -/
def verifyDocument (tag : Byte) (n : Nat) (s : State) : State :=
  match findDoc s n with
  | none => respond tag .verifyDocument .noSuch .empty s
  | some d =>
    if d.life = .landing then respond tag .verifyDocument .wrongState .empty s
    else if d.verifying then respond tag .verifyDocument .inUse .empty s
    else if maxVerifications ≤ s.dir.verifications.length then respond tag .verifyDocument .busy .empty s
    else
      let s1 := modDoc n (fun e => { e with verifying := true }) s
      { s1 with dir.verifications := s1.dir.verifications ++ [⟨n, tag, 1, 0, crc32Ones⟩] }

/-- VERIFY_DOCUMENT (R49). -/
def execVerifyDocument (r : Envelope) (doc : Nat) (s : State) : Result State :=
  .next (takeRequest r .verifyDocument (verifyDocument r.tag doc) s)

/-- The result of a verification (R50). -/
def verifyResult (d : Document) (recomputed : BitVec 32) : VerifyResult :=
  if d.pages.any Page.damaged then .damaged
  else if d.digest = some recomputed then .isMatch else .mismatch

/-- A verification ends (R50): the response, the mark, and a deadline that has passed (R44). -/
def endVerification (v : Verification) (s : State) : State :=
  let s1 : State := { s with dir.verifications := s.dir.verifications.filter (fun x => x.doc ≠ v.doc) }
  match findDoc s1 v.doc with
  | none => s1
  | some d =>
    let recomputed := crc32Final v.crc
    let result := verifyResult d recomputed
    let s2 := respond v.tag .verifyDocument .done
      (.verified result d.digest (if result = .damaged then none else some recomputed) (damagedPages d)) s1
    purgeIfPassed v.doc (modDoc v.doc (fun e => { e with verifying := false }) s2)

/-- A verification moves on to its next stretch. -/
def setVerification (v : Verification) (s : State) : State :=
  { s with dir.verifications := s.dir.verifications.map (fun x => if x.doc = v.doc then v else x) }

/-- A verification has gone past a stretch: it ends when no page is left (R50). -/
def afterStretch (v : Verification) (pages : Nat) (s : State) : State :=
  if pages < v.page then endVerification v s else setVerification v s

/-- VERIFY_STEP (R50): the verification of a document reads its next stretch; an uncorrectable error skips the rest of the page. -/
def execVerifyStep (doc : Nat) (s : State) : Result State :=
  .next (
    match s.dir.verifications.find? (fun v => decide (v.doc = doc)), findDoc s doc with
    | some v, some d =>
      match pageOf d v.page with
      | none => endVerification v s
      | some p =>
        match readSpan .verify doc p v.offset chunkBytes s with
        | (s1, none) => afterStretch { v with page := v.page + 1, offset := 0 } d.pages.length s1
        | (s1, some data) =>
          let crc := crc32Run v.crc data
          if p.length ≤ v.offset + chunkBytes then
            afterStretch { v with page := v.page + 1, offset := 0, crc := crc } d.pages.length s1
          else setVerification { v with offset := v.offset + chunkBytes, crc := crc } s1
    | _, _ => s)

/-- READ_DOCUMENT (R52): the response echoes the applied first page (R213). -/
def execReadDocument (r : Envelope) (doc firstPage : Nat) (s : State) : Result State :=
  .next (takeRequest r .readDocument (fun t =>
    match findDoc t doc with
    | none => respond r.tag .readDocument .noSuch .empty t
    | some d =>
      respond r.tag .readDocument .done
        (.document d.toDocFields d.pages.length (clamp 1 maxPages firstPage)
          ((d.pages.drop (clamp 1 maxPages firstPage - 1)).take 8)) t) s)

/-- The numbers List Documents finds, ascending (R53). -/
def listed (s : State) (d : Dept) (f : LifeFilter) (start : Nat) : List Nat :=
  ascending id ((s.dir.docs.filter (fun x => decide (x.dept = d) && decide (start ≤ x.number) && passes f x.life)).map
    (fun x => x.number))

/-- List Documents as the directory takes it (R53). -/
def listDocuments (tag : Byte) (dept : Nat) (filter : Option LifeFilter) (start : Nat) (s : State) : State :=
  match deptOf dept, filter with
  | some d, some f =>
    if (acct s d).configured = false then respond tag .listDocuments .noSuch .empty s
    else
      let all := listed s d f start
      respond tag .listDocuments .done (.documents (all.take 64) (decide (64 < all.length))) s
  | _, _ => respond tag .listDocuments .badArgument .empty s

/-- LIST_DOCUMENTS (R53). -/
def execListDocuments (r : Envelope) (dept : Nat) (filter : Option LifeFilter) (start : Nat) (s : State) : Result State :=
  .next (takeRequest r .listDocuments (listDocuments r.tag dept filter start) s)

/-- RETENTION_EXPIRY (R44): run time reaches a SETTLED document's deadline; the purge waits for a verification, and in phase
RESTARTING for the phase's end (R225). -/
def execRetentionExpiry (doc : Nat) (s : State) : Result State :=
  .next (
    match findDoc s doc with
    | none => s
    | some d =>
      match d.deadline with
      | none => s
      | some t =>
        if d.life = .settled then
          let s1 := advanceTo t s
          if isReady s1 then purgeIfPassed doc s1 else s1
        else s)

end Sys2Proof.Machine
end

