-- ==== Sys2Proof/Machine/CollectCommands.lean ====
section
/-! DEFINITION. Machine/CollectCommands.lean: the requests of chapter 7, the expiries of waiting requests and offers, and a
document's joining a ready queue. -/

namespace Sys2Proof.Machine

/-! ## Collect -/

/-- A Collect with no document ready waits, or is refused (R147, steps 5 and 6). -/
def waitCollect (tag : Byte) (d : Dept) (timeout : Nat) (s : State) : State :=
  if maxCollects ≤ s.collect.queue.length then respond tag .collect .tableFull .empty s
  else { s with collect.queue := s.collect.queue ++ [⟨tag, d, timeout, s.clock.run + timeout * 1000⟩] }

/-- Collect as the Collect Service takes it (R147). -/
def collect (tag : Byte) (dept timeout : Nat) (s : State) : State :=
  match deptOf dept with
  | none => respond tag .collect .badArgument .empty s
  | some d =>
    if (acct s d).configured = false then respond tag .collect .noSuch .empty s
    else
      match readyQueue s d with
      | [] => waitCollect tag d (clamp 1 3600 timeout) s
      | n :: _ =>
        match findDoc s n with
        | some doc => makeOffer doc tag (clamp 1 3600 timeout) s
        | none => s

/-- COLLECT (R147). -/
def execCollect (r : Envelope) (dept timeout : Nat) (s : State) : Result State :=
  .next (takeRequest r .collect (collect r.tag dept timeout) s)

/-- The waiting request of a tag whose expiry comes first: two may have one tag (R146). -/
def dueCollect (tag : Byte) : List WaitingCollect → Option WaitingCollect
  | [] => none
  | w :: rest =>
    match dueCollect tag rest with
    | none => if w.tag = tag then some w else none
    | some v => if w.tag = tag ∧ w.expiry ≤ v.expiry then some w else some v

/-- COLLECT_EXPIRY (R149): run time reaches the expiry of the tag's waiting request (log entry 25); with no request of the tag waiting it
does nothing. -/
def execCollectExpiry (tag : Byte) (s : State) : Result State :=
  .next (
    match dueCollect tag s.collect.queue with
    | none => s
    | some w =>
      let s1 := advanceTo w.expiry s
      respond w.tag .collect .timedOut (.timedOut w.dept w.timeout)
        { s1 with collect.queue := s1.collect.queue.erase w })

/-- DOCUMENT_JOINS_READY_QUEUE (R148): a document that is DUE is in its ready queue and meets the oldest waiting request of its
department, or its department's subject is marked. -/
def execDocumentJoinsReadyQueue (doc : Nat) (s : State) : Result State :=
  .next (
    match findDoc s doc with
    | some d => if d.life = .opened ∧ d.disposition = .due then joinReady doc s else s
    | none => s)

/-! ## Offers -/

/-- The open offer of a document (R150). -/
def openOffer (s : State) (doc : Nat) : Option Offer := s.collect.offers.find? (fun o => decide (o.doc = doc))

/-- A transfer at its opening (R156). -/
def Transfer.opened (doc : Nat) : Transfer := ⟨doc, 1, 0, 0, crc32Ones, [], 0, none⟩

/-- An accepted offer opens the transfer, and its first frame is prepared (R151, R156, R157). -/
def openTransfer (doc : Nat) (s : State) : State :=
  let s1 : State := { s with collect.offers := s.collect.offers.filter (fun o => o.doc ≠ doc) }
  prepareNext (setTransfer (some (Transfer.opened doc)) (modDoc doc (fun d => { d with disposition := .transferring }) s1))

/-- Accept Offer as the Collect Service takes it (R151). DESIGN CHOICE (log entry 37): the response's figures are those of the document
before the first chunk is read, in the same event. -/
def acceptOffer (tag : Byte) (doc : Nat) (s : State) : State :=
  match findDoc s doc with
  | none => respond tag .acceptOffer .noSuch .empty s
  | some d =>
    if (openOffer s doc).isNone then respond tag .acceptOffer .tooLate .empty s
    else if s.collect.transfer.isSome then respond tag .acceptOffer .busy .empty s
    else
      respond tag .acceptOffer .done (.accepted doc d.pages.length (docBytes d) (transferFrames d)) (openTransfer doc s)

/-- ACCEPT_OFFER (R151). -/
def execAcceptOffer (r : Envelope) (doc : Nat) (s : State) : Result State :=
  .next (takeRequest r .acceptOffer (acceptOffer r.tag doc) s)

/-- Decline Offer as the Collect Service takes it (R152): the response carries the count as this decline left it. -/
def declineOffer (tag : Byte) (doc : Nat) (s : State) : State :=
  match findDoc s doc with
  | none => respond tag .declineOffer .noSuch .empty s
  | some d =>
    if (openOffer s doc).isNone then respond tag .declineOffer .tooLate .empty s
    else respond tag .declineOffer .done (.declined doc (satSucc 255 d.declines)) (declineOpen doc s)

/-- DECLINE_OFFER (R152). -/
def execDeclineOffer (r : Envelope) (doc : Nat) (s : State) : Result State :=
  .next (takeRequest r .declineOffer (declineOffer r.tag doc) s)

/-- OFFER_WINDOW_EXPIRY (R153): run time reaches an open offer's window expiry. -/
def execOfferWindowExpiry (doc : Nat) (s : State) : Result State :=
  .next (
    match openOffer s doc with
    | none => s
    | some o => declineOpen doc (advanceTo o.expiry s))

/-! ## Abort and confirm -/

/-- The open transfer that Abort Transfer of a document may abort (R160). -/
def abortable (s : State) (doc : Nat) : Option Transfer :=
  match s.collect.transfer with
  | none => none
  | some t => if t.doc = doc ∧ t.ending ≠ some .aborted then some t else none

/-- Abort Transfer as the Collect Service takes it (R160, R161). -/
def abortTransfer (tag : Byte) (doc : Nat) (s : State) : State :=
  match findDoc s doc with
  | none => respond tag .abortTransfer .noSuch .empty s
  | some d =>
    match abortable s doc with
    | none => respond tag .abortTransfer .wrongState .empty s
    | some t =>
      let s1 := setTransfer (some { t with ending := some .aborted })
        { s with link.waiting := some (transferEndFrame t .aborted d.digest) }
      respond tag .abortTransfer .done .empty (becomeDue doc s1)

/-- ABORT_TRANSFER (R160). -/
def execAbortTransfer (r : Envelope) (doc : Nat) (s : State) : Result State :=
  .next (takeRequest r .abortTransfer (abortTransfer r.tag doc) s)

/-- The COLLECT entry of a document (R163, step 4). -/
def collectEntry (s : State) (doc : Nat) : JournalContent :=
  match s.collect.sent.find? (fun x => decide (x.doc = doc)) with
  | some x => .collect doc x.pagesWhole x.omitted
  | none => .collect doc 0 0

/-- Confirm Collected as the Collect Service takes it (R163). -/
def confirmCollected (tag : Byte) (doc : Nat) (s : State) : State :=
  match findDoc s doc with
  | none => respond tag .confirmCollected .noSuch .empty s
  | some d =>
    if d.disposition ≠ .sent then respond tag .confirmCollected .wrongState .empty s
    else if atHighWater s then respond tag .confirmCollected .journalFull .empty s
    else
      let (s1, seq) := append (collectEntry s doc) s
      let s2 := modDoc doc (fun e => { e with disposition := .done })
        { s1 with collect.sent := s1.collect.sent.filter (fun x => x.doc ≠ doc) }
      let settled := (findDoc s2 doc).any settles
      respond tag .confirmCollected .done (.confirmed seq settled) (settle doc s2)

/-- CONFIRM_COLLECTED (R163). -/
def execConfirmCollected (r : Envelope) (doc : Nat) (s : State) : Result State :=
  .next (takeRequest r .confirmCollected (confirmCollected r.tag doc) s)

end Sys2Proof.Machine
end

