-- ==== Sys2Proof/Machine/IntegrityCommands.lean ====
section
/-! DEFINITION. Machine/IntegrityCommands.lean: Read Error Records (R202). -/

namespace Sys2Proof.Machine

/-- What Read Error Records returns (R202): the records, and whether records after n − 1 have been overwritten. -/
def errorRecordsFrom (n : Nat) (i : Integrity) : List ErrorRecord × Bool :=
  if n = 0 then (i.records, false)
  else if i.records.any (fun r => decide (r.serial = n)) then (i.records.dropWhile (fun r => r.serial ≠ n), false)
  else if n = i.nextSerial then ([], false)
  else (i.records, true)

/-- READ_ERROR_RECORDS (R202). DESIGN CHOICE (log entry 36): with no record held the serial of the oldest is absent. -/
def execReadErrorRecords (r : Envelope) (serial : Nat) (s : State) : Result State :=
  .next (takeRequest r .readErrorRecords (fun t =>
    let (records, overwritten) := errorRecordsFrom serial t.integrity
    respond r.tag .readErrorRecords .done
      (.errors t.integrity.records.length (t.integrity.records.head?.map ErrorRecord.serial) t.integrity.nextSerial
        (integrityFigures t) records overwritten) t) s)

end Sys2Proof.Machine
end

