-- ==== Sys2Proof/Machine/CallerCommands.lean ====
section
/-! DEFINITION. Machine/CallerCommands.lean: Read Caller Memory, Forget Caller and a classification's arrival (chapter 5). -/

namespace Sys2Proof.Machine

/-- READ_CALLER_MEMORY (R113): the table is kept in number order. -/
def execReadCallerMemory (r : Envelope) (index : Nat) (s : State) : Result State :=
  .next (takeRequest r .readCallerMemory (fun t =>
    let from' := clamp 0 maxCallers index
    respond r.tag .readCallerMemory .done
      (.callers t.callers.table.length t.policy.failLimit from' ((t.callers.table.drop from').take 32)) t) s)

/-- Forget Caller as the Caller Memory takes it (R114). -/
def forgetCaller (tag : Byte) (number : Text) (s : State) : State :=
  if isNumber number = false then respond tag .forgetCaller .badArgument .empty s
  else
    match findCaller s.callers.table number with
    | none => respond tag .forgetCaller .noSuch .empty s
    | some e =>
      respond tag .forgetCaller .done (.forgotten e.ceiling e.fails)
        { s with callers.table := dropCaller number s.callers.table }

/-- FORGET_CALLER (R114). -/
def execForgetCaller (r : Envelope) (number : Text) (s : State) : Result State :=
  .next (takeRequest r .forgetCaller (forgetCaller r.tag number) s)

/-- CALLER_CLASSIFICATION (R107 to R110): the Caller Memory takes a classification whole; before the store is initialized there is no
call to classify, and the table stays empty (R104). A classification on its way leaves with it. DEDUCED (log entry 6): one handed
before Restart and not yet taken acts in phase RESTARTING, where R115 says that none arrives. -/
def execCallerClassification (number : Text) (cls : CallClass) (s : State) : Result State :=
  .next (
    if isOpen s then
      { s with
        callers.table := classify number cls s.policy.failLimit s.clock.run s.callers.table
        callers.handed := s.callers.handed.erase ⟨number, cls⟩ }
    else s)

end Sys2Proof.Machine
end

