-- ==== Sys2Proof/Machine/ForwardCommands.lean ====
section
/-! DEFINITION. Machine/ForwardCommands.lean: the requests of chapter 6, the taking of attempt outcomes (R136) and the line arbiter
(R123 to R127). -/

namespace Sys2Proof.Machine

/-! ## Add Forward -/

/-- The first check of Add Forward that fails (R119). -/
def addForwardCheck (s : State) (doc : Nat) (digits : Text) : Option Status :=
  if isNumber digits = false then some .badArgument
  else
    match findDoc s doc with
    | none => some .noSuch
    | some d =>
      if d.life = .landing ∨ d.life = .held then some .wrongState
      else if maxForwards ≤ d.forwards.length then some .limit
      else if d.forwards.any (fun e => e.state == .pending && decide (e.destination = digits)) then some .inUse
      else if maxJobs ≤ s.fwd.jobs.length then some .tableFull
      else none

/-- A SETTLED document returns to OPEN (R42). -/
def reopen (n : Nat) (s : State) : State :=
  modDoc n (fun d => { d with life := .opened, settleTime := none, deadline := none })
    { s with dir.reclaim := s.dir.reclaim.filter (· ≠ n) }

/-- Add Forward as the engine and the directory take it (R119, R42). -/
def addForward (tag : Byte) (doc : Nat) (digits : Text) (s : State) : State :=
  match addForwardCheck s doc digits, findDoc s doc with
  | some why, _ => respond tag .addForward why .empty s
  | none, none => s
  | none, some d =>
    let s1 := addForwardEntry doc (ForwardEntry.fresh digits) (if d.life = .settled then reopen doc s else s)
    let (s2, job) := addJob doc d.forwards.length digits (d.priority == .urgent) s1
    respond tag .addForward .done (.forwardAdded d.forwards.length job) s2

/-- ADD_FORWARD (R119). -/
def execAddForward (r : Envelope) (doc : Nat) (digits : Text) (s : State) : Result State :=
  .next (takeRequest r .addForward (addForward r.tag doc digits) s)

/-! ## Cancel Forward -/

/-- The job of a forward entry (R116). -/
def jobOf (s : State) (doc index : Nat) : Option Job :=
  s.fwd.jobs.find? (fun j => decide (j.document = doc) && decide (j.index = index))

/-- The channel that carries a job is asked to release the call (R139, step 5): in RELEASING it does nothing more. -/
def releaseCall (j : Job) (s : State) : State :=
  match j.line with
  | none => s
  | some n =>
    if inSending (lineAt s n) && (txOf (lineAt s n)).any (fun t => decide (t.job = j.number)) then releaseAttempt n s else s

/-- A cancelled job leaves the list (R139, steps 4 and 5). -/
def cancelJob (j : Job) (s : State) : State :=
  if j.inCall then oweRun (dropJob j.number (releaseCall j s)) else dropJob j.number s

/-- Cancel Forward as the engine takes it (R139). DESIGN CHOICE (log entry 35): fallback is tested as R40 says, although R139 says that a
cancel never causes it. -/
def cancelForward (tag : Byte) (doc index : Nat) (s : State) : State :=
  if maxForwards ≤ index then respond tag .cancelForward .badArgument .empty s
  else
    match entryOf s doc index with
    | none => respond tag .cancelForward .noSuch .empty s
    | some e =>
      if e.isFinal then respond tag .cancelForward .noSuch .empty s
      else if atHighWater s then respond tag .cancelForward .journalFull .empty s
      else
        let job := jobOf s doc index
        let s1 := match job with
          | some j => cancelJob j s
          | none => s
        respond tag .cancelForward .done (.forwardCancelled (job.any Job.inCall)) (endEntry doc index .cancelled .cancelled s1)

/-- CANCEL_FORWARD (R139). -/
def execCancelForward (r : Envelope) (doc index : Nat) (s : State) : Result State :=
  .next (takeRequest r .cancelForward (cancelForward r.tag doc index) s)

/-! ## Resume Forwarding and Read Jobs -/

/-- Resume Forwarding as the engine takes it (R143). -/
def resumeForwarding (tag : Byte) (s : State) : State :=
  let s1 := if s.fwd.suspended then oweRun (mark .forward { s with fwd.suspended := false }) else s
  respond tag .resumeForwarding .done (.resumed s.fwd.jobs.length s.fwd.suspended) s1

/-- RESUME_FORWARDING (R143). -/
def execResumeForwarding (r : Envelope) (s : State) : Result State :=
  .next (takeRequest r .resumeForwarding (resumeForwarding r.tag) s)

/-- Read Jobs as the engine takes it (R145): the response echoes the applied starting job number (R213). -/
def readJobs (tag : Byte) (doc start : Nat) (s : State) : State :=
  if doc ≠ 0 ∧ (findDoc s doc).isNone then respond tag .readJobs .noSuch .empty s
  else
    let from' := clamp 1 maxJobNumber start
    let found := ascending Job.number
      (s.fwd.jobs.filter (fun j => decide (from' ≤ j.number) && (decide (doc = 0) || decide (j.document = doc))))
    respond tag .readJobs .done (.jobs s.fwd.jobs.length s.fwd.suspended from' (found.take 16) (decide (16 < found.length))) s

/-- READ_JOBS (R145). -/
def execReadJobs (r : Envelope) (doc start : Nat) (s : State) : Result State :=
  .next (takeRequest r .readJobs (readJobs r.tag doc start) s)

/-! ## Attempt outcomes -/

/-- What an outcome means for a job (R135, R136). -/
inductive Fate where
  | delivered | failed | retry
  deriving DecidableEq, Repr

/-- The outcome's fate, with the attempts made and the attempt limit (R136). -/
def fateOf (o : AttemptOutcome) (attempts limit : Nat) : Fate :=
  match o with
  | .delivered => .delivered
  | .incompatible => .failed
  | .damaged => .failed
  | .busy => if attempts < limit then .retry else .failed
  | .noAnswer => if attempts < limit then .retry else .failed
  | .lineLost => if attempts < limit then .retry else .failed
  | .trainingFailed => if attempts < limit then .retry else .failed
  | .pageRejected => if attempts < limit then .retry else .failed

/-- The delay after the n-th attempt, in seconds (R137). -/
def backoff (base ceiling n : Nat) : Nat := min (base * 2 ^ (n - 1)) ceiling

/-- The attempt is counted and written into the forward entry, and shown as the last attempt end (R136, R144). -/
def countAttempt (j : Job) (a : AttemptEnd) (final : Bool) (s : State) : State :=
  let s1 := modJob j.number (fun x => { x with attempts := j.attempts + 1, line := none }) s
  let s2 := modForward j.document j.index
    (fun e => { e with attempts := j.attempts + 1, last := some (.attempt a.outcome), pages := a.pages }) s1
  { s2 with fwd.lastEnd := some ⟨j.document, j.index, .attempt a.outcome, final⟩ }

/-- A job ends with its entry's final state (R120). -/
def endJob (j : Job) (state : ForwardState) (result : ForwardResult) (s : State) : State :=
  endEntry j.document j.index state result (oweRun (dropJob j.number s))

/-- The engine takes the outcome of a job that is IN-CALL (R136). -/
def takeOutcome (j : Job) (a : AttemptEnd) (s : State) : State :=
  match fateOf a.outcome (j.attempts + 1) s.policy.attemptLimit with
  | .delivered =>
    endJob j .delivered .delivered
      (modStats a.line (fun st => { st with delivered := satSucc counterTop st.delivered }) (countAttempt j a true s))
  | .failed => endJob j .failed (.failed (.attempt a.outcome)) (countAttempt j a true s)
  | .retry =>
    let due := s.clock.run + backoff s.policy.retryBase s.policy.retryCeiling (j.attempts + 1) * 1000
    oweRun (mark .forward (modJob j.number (fun x => { x with inCall := false, nextDue := due }) (countAttempt j a false s)))

/-- ATTEMPT_OUTCOME (R136, R140): an outcome that names no job IN-CALL on its line is discarded. An outcome on its way leaves with it
(log entry 6). -/
def execAttemptOutcome (a : AttemptEnd) (s : State) : Result State :=
  let s1 : State := { s with fwd.handed := s.fwd.handed.erase a }
  .next (
    match findJob s1 a.job with
    | some j => if j.inCall = true ∧ j.line = some a.line then takeOutcome j a s1 else s1
    | none => s1)

/-- JOB_DUE (R116, R123): run time reaches a WAITING job's next due. -/
def execJobDue (job : Nat) (s : State) : Result State :=
  .next (
    match findJob s job with
    | some j => if j.inCall then s else oweRun (advanceTo j.nextDue s)
    | none => s)

/-! ## The line arbiter -/

/-- A line whose view shows it IN-SERVICE and IDLE (R122). -/
def shownIdle (s : State) (n : LineNo) : Bool := s.fwd.view[n].available

/-- The lines the view shows IN-SERVICE and IDLE (R124). -/
def idleLines (s : State) : List LineNo := allLines.filter (shownIdle s)

/-- The lowest line the view shows IN-SERVICE, IDLE and permitted (R126). -/
def eligibleLine (s : State) : Option LineNo := (idleLines s).find? (fun n => s.fwd.view[n].permitted)

/-- A job the arbiter may choose (R125): WAITING, due, its destination not IN-CALL. -/
def eligible (s : State) (j : Job) : Bool :=
  isDue s j && !(s.fwd.jobs.any (fun x => x.inCall && decide (x.destination = j.destination)))

/-- The keys of R125: whether a goes before b. -/
def goesBefore (a b : Job) : Bool :=
  if a.urgent ≠ b.urgent then a.urgent
  else if a.nextDue ≠ b.nextDue then decide (a.nextDue < b.nextDue)
  else if a.document ≠ b.document then decide (a.document < b.document)
  else decide (a.index < b.index)

/-- The first job by the keys of R125. -/
def firstJob : List Job → Option Job
  | [] => none
  | j :: rest =>
    match firstJob rest with
    | none => some j
    | some k => if goesBefore k j then some k else some j

/-- The job the arbiter chooses (R125). -/
def chosenJob (s : State) : Option Job := firstJob (s.fwd.jobs.filter (eligible s))

/-- The grant conditions of R124 that concern the part and the view. -/
def mayGrant (s : State) : Bool :=
  isReady s && !s.fwd.suspended && !atHighWater s && decide (s.policy.inboundReserve + 1 ≤ (idleLines s).length)

/-- The channel grants a seize (R94). -/
def grantsSeize (s : State) (n : LineNo) : Bool :=
  isReady s && (lineAt s n).service == .inService && (lineAt s n).pendingService.isNone && (lineAt s n).outbound &&
    (lineAt s n).chan == .idle

/-- The sender's call record at the seize (4.2, R106). -/
def TxCall.seized (j : Job) : TxCall where
  job := j.number
  document := j.document
  destination := j.destination
  step := 0
  resolution := .standard
  page := 1
  sends := 0
  offset := 0
  accepted := 0
  trainFails := 0
  glare := false
  verdictReceived := false
  anyRetrain := false
  anyResend := false

/-- A granted seize (R94, R95, R127, R128): the channel enters SEIZED and sends DIAL, and the job becomes IN-CALL. -/
def grantSeize (j : Job) (n : LineNo) (s : State) : State :=
  let s1 := modLine n (fun l => { l with chan := .seized, call := some ⟨none, .sender (TxCall.seized j)⟩ }) s
  let s2 := modStats n (fun st => { st with placed := satSucc counterTop st.placed }) (sendCmd n (.dial j.destination) s1)
  report n (modJob j.number (fun x => { x with inCall := true, line := some n, interrupted := false }) s2)

/-- One test of a run and what follows it (R124 to R126): none when the run ends. -/
def arbiterTest (s : State) : Option State :=
  if mayGrant s then
    match chosenJob s, eligibleLine s with
    | some j, some n => some (if grantsSeize s n then grantSeize j n s else report n s)
    | _, _ => none
  else none

/-- The tests of a run; each takes a job or a line out of the choice, so fuel above their number is enough. -/
def arbiterTests : Nat → State → State
  | 0, s => s
  | k + 1, s =>
    match arbiterTest s with
    | some s1 => arbiterTests k s1
    | none => s

/-- ARBITER_RUN (R123): one run of the line arbiter. -/
def execArbiterRun (s : State) : Result State :=
  .next (arbiterTests (s.fwd.jobs.length + 17) { s with fwd.runOwed := false })

end Sys2Proof.Machine
end

