-- ==== Sys2Proof/Machine/LineCommands.lean ====
section
/-! DEFINITION. Machine/LineCommands.lean: the requests of chapter 4 that act on a line: Set Line, Reset Line and Read Line
Statistics. -/

namespace Sys2Proof.Machine

/-! ## Set Line -/

/-- The service state a request asks for (R70): none for KEEP. -/
def serviceAsked : ServiceRequest → Option Service
  | .busyOut => some .busyOut
  | .inService => some .inService
  | .keep => none

/-- The settings of an accepted Set Line apply at once (R70); a change of outbound permitted is reported (R69, R122). -/
def applySettings (n : LineNo) (outbound : Bool) (maxStep : Nat) (key : Option Text) (s : State) : State :=
  let s1 := modLine n (fun l => { l with outbound := outbound, maxStep := clamp 0 topStep maxStep, defaultKey := key }) s
  if (lineAt s n).outbound = outbound then s1 else reportRun n s1

/-- The service request of an accepted Set Line (R70). -/
def applyService (n : LineNo) (want : Service) (s : State) : State :=
  if (lineAt s n).chan = .idle then
    if want = (lineAt s n).service then s
    else
      reportRun n (mark (.line n) (sendCmd n (presentOf want) (modLine n (fun l => { l with
        service := want, pendingService := none }) s)))
  else
    modLine n (fun l => { l with pendingService := if want = l.service then none else some want }) s

/-- The content of a Set Line response (R70). -/
def lineContent (l : Line) : Content := .line l.outbound l.maxStep l.defaultKey l.service l.pendingService

/-- Set Line as the channel takes it (R70). -/
def setLine (tag : Byte) (line : Nat) (service : Option ServiceRequest) (outbound : Option Bool) (maxStep : Nat)
    (key : Option Text) (s : State) : State :=
  match lineOf line, service, outbound, key.all isKey with
  | some n, some sv, some out, true =>
    if (lineAt s n).service = .fault ∧ sv ≠ .keep then respond tag .setLine .wrongState .empty s
    else
      let s1 := applySettings n out maxStep key s
      let s2 := match serviceAsked sv with
        | none => s1
        | some want => applyService n want s1
      respond tag .setLine .done (lineContent (lineAt s2 n)) s2
  | _, _, _, _ => respond tag .setLine .badArgument .empty s

/-- SET_LINE (R70). -/
def execSetLine (r : Envelope) (line : Nat) (service : Option ServiceRequest) (outbound : Option Bool) (maxStep : Nat)
    (key : Option Text) (s : State) : Result State :=
  .next (takeRequest r .setLine (setLine r.tag line service outbound maxStep key) s)

/-! ## Reset Line -/

/-- The service state a reset restores (R74, step 2). -/
def restoredService (l : Line) : Service :=
  if l.service = .fault then l.returnState.getD .busyOut else l.pendingService.getD l.service

/-- The front-end reset begins (R74, steps 1 to 3): the call has ended, its wait with it, commands are abandoned, RESET is sent, and the
arbiter is told that the channel has left IDLE; a change of the service state is marked and owes it a run. The call record stays until
the channel returns to IDLE (R71, R127). DESIGN CHOICE (log entry 18): the reset of a line that had no call makes no record. -/
def beginReset (n : LineNo) (s : State) : State :=
  let old := (lineAt s n).service
  let new := restoredService (lineAt s n)
  let s1 := modLine n (fun l => { l with
    service := new, pendingService := none, returnState := none, faultCause := none, acks := [], chan := .releasing
    call := l.call.map (fun c => { c with wait := none }), reset := .awaitReset }) s
  let s2 := sendCmd n .reset s1
  if new = old then report n s2 else reportRun n (mark (.line n) s2)

/-- Reset Line as the channel takes it (R74). DESIGN CHOICE (log entry 26): R74 names the answer before step 1; the model queues DONE last,
after the offer's response to a waiting Collect that the ended call's document meets. -/
def resetLine (tag : Byte) (line : Nat) (s : State) : State :=
  match lineOf line with
  | none => respond tag .resetLine .badArgument .empty s
  | some n =>
    if (lineAt s n).reset ≠ .none then respond tag .resetLine .busy .empty s
    else respond tag .resetLine .done .empty (beginReset n (endByFault n .lineReset s))

/-- RESET_LINE (R74). -/
def execResetLine (r : Envelope) (line : Nat) (s : State) : Result State :=
  .next (takeRequest r .resetLine (resetLine r.tag line) s)

/-! ## Read Line Statistics -/

/-- Read Line Statistics as the channel takes it (R97): the counters are zeroed in the event that reads them. -/
def readLineStatistics (tag : Byte) (line : Nat) (clear : Bool) (s : State) : State :=
  match lineOf line with
  | none => respond tag .readLineStatistics .badArgument .empty s
  | some n =>
    respond tag .readLineStatistics .done (.lineStats (lineAt s n).stats)
      (if clear then modStats n (fun _ => LineStats.zero) s else s)

/-- READ_LINE_STATISTICS (R97). -/
def execReadLineStatistics (r : Envelope) (line : Nat) (clear : Bool) (s : State) : Result State :=
  .next (takeRequest r .readLineStatistics (readLineStatistics r.tag line clear) s)

end Sys2Proof.Machine
end

