-- ==== Sys2Proof/Machine/RingEvents.lean ====
section
/-! DEFINITION. Machine/RingEvents.lean: the events of a ringing line (4.4), acknowledgments and their limits (R72), faults (R73), losses
and releases (R90, R92, R95). -/

namespace Sys2Proof.Machine

/-- The channel stands in a state and takes events (R75). -/
def takesIn (s : State) (n : LineNo) (c : Chan) : Bool := takesEvents s n && (lineAt s n).chan == c

/-! ## Ringing -/

/-- A receiver's call record at the first ring (R76). -/
def RxCall.ringing : RxCall where
  rings := 1
  digits := []
  closed := false
  calling := none
  route := none
  document := none
  offeredMax := none
  fineAllowed := none
  step := none
  resolution := none
  trainFails := 0
  pages := 0
  rejects := 0
  discard := none
  lastVerdict := none
  lastCause := none
  anyReject := false
  anyRetrain := false
  firstVerdict := false
  fromReceiving := false
  lastPage := false

/-- A RING that starts an inbound call (R76). -/
def beginRinging (n : LineNo) (s : State) : State :=
  let s1 := modLine n (fun l => { l with
    chan := .alerted, call := some ⟨some ⟨.digitWindow, s.clock.run + digitWindowMs⟩, .receiver RxCall.ringing⟩ }) s
  testAdmission n (report n (modStats n (fun st => { st with offered := satSucc counterTop st.offered }) s1))

/-- A glare ring (R95): the first of the call is counted and marked. -/
def glareRing (n : LineNo) (t : TxCall) (s : State) : State :=
  if t.glare then s
  else
    modTx n (fun u => { u with glare := true })
      (modStats n (fun st => { st with offeredSeized := satSucc counterTop st.offeredSeized }) s)

/-- RING (R75, R76, R95, R99, R100): ignored outside phase READY. -/
def execRing (n : LineNo) (s : State) : Result State :=
  .next (
    if takesEvents s n && isReady s then
      match (lineAt s n).chan, txOf (lineAt s n) with
      | .idle, _ => if (lineAt s n).service = .inService then beginRinging n s else s
      | .alerted, _ => testAdmission n (modRx n (fun c => { c with rings := satSucc 255 c.rings }) s)
      | ch, some t => if sendingChan ch then glareRing n t s else s
      | _, none => s
    else s)

/-- A ringing call ends without admission (R78). -/
def endRinging (n : LineNo) (s : State) : State := mark (.line n) (returnToIdle n s)

/-- RING_END (R78). -/
def execRingEnd (n : LineNo) (s : State) : Result State :=
  .next (if takesIn s n .alerted then endRinging n s else s)

/-- Digits join those gathered (R77). -/
def gather (c : RxCall) (string : Text) (complete : Bool) : RxCall :=
  let all := (c.digits ++ string).take maxDigits
  { c with digits := all, closed := complete || decide (all.length = maxDigits) }

/-- DIGITS (R77): the closing of the digits is followed by the test of R79. -/
def execDigits (n : LineNo) (string : Text) (complete : Bool) (s : State) : Result State :=
  .next (
    match rxOf (lineAt s n) with
    | some c =>
      if takesIn s n .alerted && !c.closed && allDigits string then
        testAdmission n (modRx n (fun _ => gather c string complete) s)
      else s
    | none => s)

/-- CALLING_NUMBER (R77): a number of another form leaves the one held. -/
def execCallingNumber (n : LineNo) (number : Text) (s : State) : Result State :=
  .next (if takesIn s n .alerted && isNumber number then modRx n (fun c => { c with calling := some number }) s else s)

/-- DIGIT_WINDOW_EXPIRY (R77): gathering closes, if it had not. -/
def execDigitWindowExpiry (n : LineNo) (s : State) : Result State :=
  .next (
    match expireWait n .digitWindow s, rxOf (lineAt s n) with
    | some s1, some c => if c.closed then s1 else testAdmission n (modRx n (fun d => { d with closed := true }) s1)
    | some s1, none => s1
    | none, _ => s)

/-! ## Acknowledgments -/

/-- Two commands of a kind whose acknowledgment moves the channel on. -/
def sameKind : PortCommand → PortCommand → Bool
  | .dial _, .dial _ => true
  | .sendPageData _, .sendPageData _ => true
  | .pageEndMark _, .pageEndMark _ => true
  | .sendVerdict _, .sendVerdict _ => true
  | _, _ => false

/-- The channel goes back to RECEIVING for the next page, or the next send of the page (R87, R88). -/
def awaitPage (n : LineNo) (s : State) : State := startWait n .receiverSignal signalWaitMs (setChan n .receiving s)

/-- Page 500 was accepted with more to come (R47, R48, R89). -/
def pageLimit (n : LineNo) (doc : Nat) (s : State) : State :=
  if atHighWater s then endReceiving n .pageLimit true s
  else
    match continueDoc doc s with
    | some (s1, b) => awaitPage n (modRx n (fun c => { c with document := some b }) s1)
    | none => endReceiving n .directoryFull true s

/-- The document of a number holds as many pages as a document may. -/
def documentFull (s : State) (doc : Nat) : Bool := (findDoc s doc).any (fun d => decide (maxPages ≤ d.pages.length))

/-- SEND-VERDICT has been acknowledged (R87, R88). -/
def afterVerdict (n : LineNo) (c : RxCall) (s : State) : State :=
  if c.lastVerdict = some .reject then
    if c.lastCause = some .storeFull then endReceiving n .storeFull true s
    else if maxTries ≤ c.rejects then endReceiving n .thirdReject true s
    else awaitPage n s
  else if c.lastPage then endReceiving n .lastPage true s
  else
    match c.document with
    | some doc => if documentFull s doc then pageLimit n doc s else awaitPage n s
    | none => awaitPage n s

/-- What follows the acknowledgment of a command in a channel state (R87, R88, R128, R131). -/
def afterAck (n : LineNo) (c : PortCommand) (s : State) : State :=
  match c, (lineAt s n).chan, rxOf (lineAt s n) with
  | .dial _, .seized, _ => startWait n .dial dialWaitMs (setChan n .dialling s)
  | .sendPageData _, .sending, _ => sendNext n s
  | .pageEndMark _, .sending, _ => startWait n .sender signalWaitMs (setChan n .awaitingVerdict s)
  | .sendVerdict _, .verdict, some r => afterVerdict n r s
  | _, _, _ => s

/-- The oldest command awaiting acknowledgment is complete (R72). It moves the channel on unless a later command of its kind still awaits
its own. -/
def completeCommand (n : LineNo) (s : State) : State :=
  match (lineAt s n).acks with
  | [] => s
  | w :: rest =>
    let s1 := modLine n (fun l => { l with acks := rest }) s
    if rest.any (fun x => sameKind x.command w.command) then s1 else afterAck n w.command s1

/-- RESET has been acknowledged (R74, step 3). -/
def afterReset (n : LineNo) (s : State) : State :=
  sendCmd n (presentOf (lineAt s n).service) (modLine n (fun l => { l with acks := [], reset := .awaitPresent }) s)

/-- The PRESENT command of a reset has been acknowledged (R74, steps 3 and 4). -/
def endReset (n : LineNo) (s : State) : State :=
  mark (.line n) (returnToIdle n (modLine n (fun l => { l with acks := [] }) s))

/-- COMMAND_ACK (R72, R74): in a reset the first acknowledgment that counts is that of RESET, and the next that of the PRESENT command.
That of an abandoned command is ignored wherever it arrives, and so is every one on a line in FAULT (log entry 34). -/
def execCommandAck (n : LineNo) (acked : Acked) (s : State) : Result State :=
  .next (
    if (lineAt s n).service = .fault then s
    else
      match (lineAt s n).reset, acked with
      | _, .abandoned => s
      | .awaitReset, .reset => afterReset n s
      | .awaitReset, .other => s
      | .awaitPresent, .reset => s
      | .awaitPresent, .other => endReset n s
      | .none, .reset => s
      | .none, .other => completeCommand n s)

/-- ACK_LIMIT_EXPIRY (R72, R73): the limit of the oldest command awaiting acknowledgment is the first to expire. -/
def execAckLimitExpiry (n : LineNo) (s : State) : Result State :=
  .next (
    match (lineAt s n).acks with
    | [] => s
    | w :: _ => enterFault n .ackTimeout (advanceTo w.expiry s))

/-- FRONT_END_FAULT (R73). -/
def execFrontEndFault (n : LineNo) (s : State) : Result State :=
  .next (if takesEvents s n then enterFault n .frontEndFault s else s)

/-! ## Losses and releases -/

/-- CARRIER_LOST (R90, R95): it acts in every state of a call after admission or seizure and before its end. -/
def execCarrierLost (n : LineNo) (s : State) : Result State :=
  .next (if takesEvents s n then lineLost n s else s)

/-- RELEASED (R75, R78, R90, R92, R95): no RELEASE is sent, and the channel returns to IDLE. -/
def execReleased (n : LineNo) (s : State) : Result State :=
  .next (
    if takesEvents s n then
      if (lineAt s n).chan = .idle then s
      else if (lineAt s n).chan = .alerted then endRinging n s
      else if inReceiving (lineAt s n) then returnToIdle n (endReceiving n .lost false s)
      else if inSending (lineAt s n) then returnToIdle n (endAttempt n .lineLost .lost false s)
      else returnToIdle n s
    else s)

/-- RECEIVER_SIGNAL_WAIT_EXPIRY (R82, R84, R90): the 6 s wait for REMOTE-CHOICE, TRAINING-DONE or the first data of a page. -/
def execReceiverSignalWaitExpiry (n : LineNo) (s : State) : Result State :=
  .next (
    match expireWait n .receiverSignal s with
    | some s1 => lineLost n s1
    | none => s)

/-- PAGE_WAIT_EXPIRY (R85, R90): the 12 s wait inside a page. -/
def execPageWaitExpiry (n : LineNo) (s : State) : Result State :=
  .next (
    match expireWait n .page s with
    | some s1 => lineLost n s1
    | none => s)

/-- RELEASE_WAIT_EXPIRY (R92): the line enters FAULT. -/
def execReleaseWaitExpiry (n : LineNo) (s : State) : Result State :=
  .next (
    match expireWait n .release s with
    | some s1 => enterFault n .releaseTimeout s1
    | none => s)

/-- DIAL_WAIT_EXPIRY (R95, R128): the 60 s wait for a dial result. -/
def execDialWaitExpiry (n : LineNo) (s : State) : Result State :=
  .next (
    match expireWait n .dial s with
    | some s1 => lineLost n s1
    | none => s)

/-- SENDER_WAIT_EXPIRY (R95, R130, R133): a 6 s wait for REMOTE-OFFER, TRAINING-DONE or VERDICT. -/
def execSenderWaitExpiry (n : LineNo) (s : State) : Result State :=
  .next (
    match expireWait n .sender s with
    | some s1 => lineLost n s1
    | none => s)

end Sys2Proof.Machine
end

