-- ==== Sys2Proof/Machine/ReceiveEvents.lean ====
section
/-! DEFINITION. Machine/ReceiveEvents.lean: negotiation, training, page data and verdicts of a receiving call (4.5, 4.6), and the training
of a sending one (R130). -/

namespace Sys2Proof.Machine

/-! ## Negotiation and training -/

/-- The page now arriving has had no data. -/
def noPageData (s : State) (c : RxCall) : Bool := ((c.document.bind (findDoc s)).bind Document.landing).isNone

/-- A choice may be taken (R83): in NEGOTIATING, or in RECEIVING while the page now arriving has no data. -/
def takesChoice (s : State) (n : LineNo) (c : RxCall) : Bool :=
  takesEvents s n && ((lineAt s n).chan == .negotiating || ((lineAt s n).chan == .receiving && noPageData s c))

/-- A choice is valid (R83). -/
def validChoice (c : RxCall) (step : Nat) (res : Resolution) : Bool :=
  c.offeredMax.any (fun m => decide (step ≤ m)) && (res == .standard || c.fineAllowed == some true)

/-- The remote identity is written into the document record (R31, R83). -/
def noteIdentity (c : RxCall) (identity : Text) (s : State) : State :=
  match c.document with
  | some doc => modDoc doc (fun d => { d with remoteId := some (identity.take identityChars) }) s
  | none => s

/-- The failed trainings of the call and of its line each rise by one (R83, R84). -/
def countRxFail (n : LineNo) (s : State) : State :=
  modStats n (fun st => { st with trainFails := satSucc counterTop st.trainFails })
    (modRx n (fun c => { c with trainFails := c.trainFails + 1 }) s)

/-- A failed training of a receiving call (R83, R84): TRAINING-REPLY negative, the counts, and at the third the end of the call; else the
channel waits in the given state. -/
def failTraining (n : LineNo) (back : Chan) (c : RxCall) (s : State) : State :=
  let s1 := countRxFail n (sendCmd n (.trainingReply false) s)
  if maxTries ≤ c.trainFails + 1 then endReceiving n .trainingExhausted true s1
  else startWait n .receiverSignal signalWaitMs (setChan n back s1)

/-- REMOTE_CHOICE (R83). -/
def execRemoteChoice (n : LineNo) (step : Nat) (resolution : Resolution) (identity : Text) (s : State) : Result State :=
  .next (
    match rxOf (lineAt s n) with
    | none => s
    | some c =>
      if takesChoice s n c then
        let s1 := noteIdentity c identity s
        let here := (lineAt s n).chan
        if validChoice c step resolution then
          startWait n .receiverSignal signalWaitMs (setChan n .training (sendCmd n (.train step)
            (modRx n (fun r => { r with step := some step, resolution := some resolution, fromReceiving := here == .receiving }) s1)))
        else failTraining n here c s1
      else s)

/-- TRAINING-DONE in the receiver role (R84). -/
def rxTrained (n : LineNo) (c : RxCall) (step : Nat) (pass : Bool) (s : State) : State :=
  if pass = true ∧ c.step = some step then awaitPage n (sendCmd n (.trainingReply true) s)
  else failTraining n (if c.fromReceiving then .receiving else .negotiating) c s

/-- The failed trainings of the attempt and of its line each rise by one (R130). -/
def countTxFail (n : LineNo) (s : State) : State :=
  modStats n (fun st => { st with trainFails := satSucc counterTop st.trainFails })
    (modTx n (fun t => { t with trainFails := t.trainFails + 1 }) s)

/-- TRAINING-DONE in the sender role (R130). -/
def txTrained (n : LineNo) (t : TxCall) (step : Nat) (pass : Bool) (s : State) : State :=
  if pass = true ∧ t.step = step then beginPage n s
  else
    let s1 := countTxFail n s
    if maxTries ≤ t.trainFails + 1 then endAttempt n .trainingFailed .outcome true s1
    else trainAt n (t.step - 1) t.resolution s1

/-- TRAINING_DONE (R84, R130). -/
def execTrainingDone (n : LineNo) (step : Nat) (pass : Bool) (s : State) : Result State :=
  .next (
    if takesIn s n .training then
      match rxOf (lineAt s n), txOf (lineAt s n) with
      | some c, _ => rxTrained n c step pass s
      | none, some t => txTrained n t step pass s
      | none, none => s
    else s)

/-! ## Page data -/

/-- A landing page at its first PAGE-DATA (R31, R32, R85). -/
def startLanding (d : Document) (c : RxCall) : Landing where
  number := d.pages.length + 1
  resolution := c.resolution.getD .standard
  step := c.step.getD 0
  blocks := []
  length := 0
  held := []
  crc := d.crc

/-- Bytes join the landing page (R85, R16): they fill its last block, and a further block is drawn when they do not fit. A refused draw
gives the discard cause, and the bytes not yet written are dropped. Fuel above the block boundaries crossed is enough. -/
def fillPage : Nat → LineNo → Dept → List Byte → Landing → State → (Landing × Option DiscardCause) × State
  | 0, _, _, _, l, s => ((l, none), s)
  | k + 1, n, d, bytes, l, s =>
    let room := l.blocks.length * blockBytes - l.length
    let (l1, s1) := putBytes (bytes.take room) l s
    if bytes.length ≤ room then ((l1, none), s1)
    else
      match drawBlock n d l1.blocks.length s1 with
      | (s2, .block b) => fillPage k n d (bytes.drop room) { l1 with blocks := l1.blocks ++ [b] } s2
      | (s2, .oversize) => ((l1, some .oversize), s2)
      | (s2, .storeFull) => ((l1, some .storeFull), s2)

/-- The bytes of a PAGE-DATA event reach the page now arriving (R85): a page marked with a discard cause drops them. -/
def receiveData (n : LineNo) (doc : Nat) (d : Document) (c : RxCall) (bytes : List Byte) (s : State) : State :=
  if c.discard.isSome then s
  else
    let ((l, cause), s1) := fillPage (bytes.length / blockBytes + 2) n d.dept bytes (d.landing.getD (startLanding d c)) s
    let s2 := modDoc doc (fun e => { e with landing := some l }) s1
    match cause with
    | none => s2
    | some why => modRx n (fun r => { r with discard := some why }) s2

/-- PAGE_DATA (R85): the bytes are received, and the 12 s wait is renewed. -/
def execPageData (n : LineNo) (bytes : List Byte) (s : State) : Result State :=
  .next (
    if takesIn s n .receiving then
      match rxOf (lineAt s n) with
      | none => s
      | some c =>
        let s1 := match c.document, c.document.bind (findDoc s) with
          | some doc, some d => receiveData n doc d c bytes s
          | _, _ => s
        startWait n .page pageWaitMs s1
    else s)

/-! ## Verdicts -/

/-- T as a page's quality takes it (R86). -/
def scanLines (total : Nat) : Nat := min total 16383

/-- B as a page's quality takes it (R86). -/
def badLines (total bad : Nat) : Nat := min bad (scanLines total)

/-- The verdict on a page and its cause (R86). -/
def judge (discard : Option DiscardCause) (length total bad : Nat) : Verdict × Option VerdictCause :=
  match discard with
  | some .oversize => (.reject, some .oversize)
  | some .storeFull => (.reject, some .storeFull)
  | none =>
    let t := scanLines total
    let b := badLines total bad
    if length = 0 then (.reject, some .empty)
    else if t = 0 then (.reject, some .quality)
    else if b * 64 ≤ t then (.accept, none)
    else if b * 16 ≤ t then (.acceptRetrain, none)
    else (.reject, some .quality)

/-- SEND-VERDICT is sent and the channel enters VERDICT, with no wait (R87, R88). -/
def giveVerdict (n : LineNo) (v : Verdict) (s : State) : State :=
  setWait n none (setChan n .verdict (sendCmd n (.sendVerdict v) s))

/-- The page record of an accepted landing page (R31, R87). -/
def pageRecord (l : Landing) (v : Verdict) (total bad : Nat) : Page where
  number := l.number
  resolution := l.resolution
  step := l.step
  length := l.length
  blocks := l.blocks
  total := scanLines total
  bad := badLines total bad
  verdict := v
  damaged := false

/-- The landing page joins the document's page list, and its running CRC becomes the document's (R31, R32, R87). -/
def acceptLanding (doc : Nat) (l : Landing) (v : Verdict) (total bad : Nat) (s : State) : State :=
  modDoc doc (fun d => { d with pages := d.pages ++ [pageRecord l v total bad], landing := none, crc := l.crc }) (closeGroup l s)

/-- A page is accepted (R87). -/
def acceptPage (n : LineNo) (doc : Nat) (d : Document) (l : Landing) (v : Verdict) (total bad : Nat) (last : Bool) (s : State) :
    State :=
  let s1 := acceptLanding doc l v total bad s
  let s2 := modRx n (fun c => { c with
    pages := c.pages + 1, rejects := 0, firstVerdict := true, anyRetrain := c.anyRetrain || v == .acceptRetrain
    lastVerdict := some v, lastCause := none, discard := none, lastPage := last }) s1
  let s3 := modStats n (fun st => { st with pagesAccepted := satSucc counterTop st.pagesAccepted }) s2
  giveVerdict n v (topUp n d.dept s3)

/-- A page is rejected (R88). -/
def rejectPage (n : LineNo) (doc : Nat) (cause : Option VerdictCause) (last : Bool) (s : State) : State :=
  let s1 := modRx n (fun c => { c with
    rejects := c.rejects + 1, firstVerdict := true, anyReject := true, lastVerdict := some .reject, lastCause := cause
    discard := none, lastPage := last }) (freeLanding doc s)
  giveVerdict n .reject (modStats n (fun st => { st with pagesRejected := satSucc counterTop st.pagesRejected }) s1)

/-- The verdict on the page now arriving takes effect (R86 to R88). -/
def judgePage (n : LineNo) (doc : Nat) (d : Document) (c : RxCall) (total bad : Nat) (last : Bool) (s : State) : State :=
  match judge c.discard (d.landing.elim 0 Landing.length) total bad, d.landing with
  | (.reject, cause), _ => rejectPage n doc cause last s
  | (v, _), some l => acceptPage n doc d l v total bad last s
  | (_, _), none => s

/-- PAGE_END (R86). -/
def execPageEnd (n : LineNo) (total bad : Nat) (last : Bool) (s : State) : Result State :=
  .next (
    if takesIn s n .receiving then
      match rxOf (lineAt s n) with
      | none => s
      | some c =>
        match c.document, c.document.bind (findDoc s) with
        | some doc, some d => judgePage n doc d c total bad last s
        | _, _ => s
    else s)

end Sys2Proof.Machine
end

