-- ==== Sys2Proof/Machine/SendEvents.lean ====
section
/-! DEFINITION. Machine/SendEvents.lean: the events of a sending call (6.3). -/

namespace Sys2Proof.Machine

/-- CONNECTED (R128): ignored in the receiver role (R81). -/
def execConnected (n : LineNo) (s : State) : Result State :=
  .next (
    if takesIn s n .dialling then startWait n .sender signalWaitMs (setChan n .offeringWait s) else s)

/-- The outcome of a failed dial (R128). -/
def dialOutcome : DialFailure → AttemptOutcome
  | .busy => .busy
  | .noAnswer => .noAnswer
  | .noTone => .lineLost

/-- DIAL_FAILED (R128). -/
def execDialFailed (n : LineNo) (reason : DialFailure) (s : State) : Result State :=
  .next (if takesIn s n .dialling then endAttempt n (dialOutcome reason) .outcome true s else s)

/-- A document holds a FINE page (R129). -/
def holdsFine (s : State) (doc : Nat) : Bool := (findDoc s doc).any (fun d => d.pages.any (fun p => p.resolution == .fine))

/-- The starting step and the resolution are fixed and the first training begins (R103, R129). -/
def beginSending (n : LineNo) (t : TxCall) (maxStep : Nat) (s : State) : State :=
  let (s1, ceiling) := lookupCaller t.destination s
  let step := min (min (min maxStep topStep) (lineAt s n).maxStep) ceiling
  trainAt n step (if holdsFine s t.document then .fine else .standard) (modTx n (fun u => { u with page := 1, sends := 0 }) s1)

/-- REMOTE_OFFER (R129). -/
def execRemoteOffer (n : LineNo) (maxStep : Nat) (fine : Bool) (_identity : Text) (s : State) : Result State :=
  .next (
    if takesIn s n .offeringWait then
      match txOf (lineAt s n) with
      | none => s
      | some t =>
        if holdsFine s t.document = true ∧ fine = false then endAttempt n .incompatible .outcome true s
        else beginSending n t maxStep s
    else s)

/-- The marks of every VERDICT (R106, R133). -/
def noteVerdict (v : Verdict) (t : TxCall) : TxCall :=
  { t with
    verdictReceived := true
    anyRetrain := t.anyRetrain || v == .acceptRetrain
    anyResend := t.anyResend || v == .reject
    accepted := if v = .reject then t.accepted else t.accepted + 1 }

/-- The page just sent is the last of its document (R133). -/
def sentLast (s : State) (t : TxCall) : Bool := (findDoc s t.document).all (fun d => decide (d.pages.length ≤ t.page))

/-- The next page is taken, with send count 0 (R133). -/
def nextPage (t : TxCall) : TxCall := { t with page := t.page + 1, sends := 0 }

/-- A VERDICT acts on the page just sent (R133, R134). -/
def takeVerdict (n : LineNo) (v : Verdict) (t : TxCall) (s : State) : State :=
  let s1 := modTx n (noteVerdict v) s
  match v, sentLast s t with
  | .reject, _ =>
    if maxTries ≤ t.sends then endAttempt n .pageRejected .outcome true s1 else trainAt n (t.step - 1) t.resolution s1
  | _, true => endAttempt n .delivered .outcome true s1
  | .accept, false => beginPage n (modTx n nextPage s1)
  | .acceptRetrain, false => trainAt n (t.step - 1) t.resolution (modTx n nextPage s1)

/-- VERDICT (R133). -/
def execVerdict (n : LineNo) (v : Verdict) (s : State) : Result State :=
  .next (
    if takesIn s n .awaitingVerdict then
      match txOf (lineAt s n) with
      | none => s
      | some t => takeVerdict n v t s
    else s)

end Sys2Proof.Machine
end

