-- ==== Sys2Proof/Machine/Dispatch.lean ====
section
/-! DEFINITION. Machine/Dispatch.lean: one arm for each command, each one call of its meaning. -/

namespace Sys2Proof.Machine

open Sys2Proof

def exec (i : Instr) (s : State) : Host.Outcome State Fault Refusal :=
  match i with
  | .powerOn strapHigh => Sys2Proof.Machine.execPowerOn strapHigh s
  | .resetPinAssert => Sys2Proof.Machine.execResetPinAssert s
  | .resetPinRelease strapHigh => Sys2Proof.Machine.execResetPinRelease strapHigh s
  | .storeInitializationComplete => Sys2Proof.Machine.execStoreInitializationComplete s
  | .frameReceived bytes => Sys2Proof.Machine.execFrameReceived bytes s
  | .byteGapTimeout => Sys2Proof.Machine.execByteGapTimeout s
  | .requestToSendChange active => Sys2Proof.Machine.execRequestToSendChange active s
  | .beginFrameSend => Sys2Proof.Machine.execBeginFrameSend s
  | .unknownKindRequest tag kind => Sys2Proof.Machine.execUnknownKindRequest tag kind s
  | .setDepartment r dept name guarantee cap retention => Sys2Proof.Machine.execSetDepartment r dept name guarantee cap retention s
  | .removeDepartment r dept => Sys2Proof.Machine.execRemoveDepartment r dept s
  | .setRoute r key dept hold collect priority dests => Sys2Proof.Machine.execSetRoute r key dept hold collect priority dests s
  | .removeRoute r key => Sys2Proof.Machine.execRemoveRoute r key s
  | .setLine r line service outbound maxStep key => Sys2Proof.Machine.execSetLine r line service outbound maxStep key s
  | .resetLine r line => Sys2Proof.Machine.execResetLine r line s
  | .readLineStatistics r line clear => Sys2Proof.Machine.execReadLineStatistics r line clear s
  | .setPolicy r p => Sys2Proof.Machine.execSetPolicy r p s
  | .readStatus r => Sys2Proof.Machine.execReadStatus r s
  | .restart r => Sys2Proof.Machine.execRestart r s
  | .restartEnd => Sys2Proof.Machine.execRestartEnd s
  | .setTime r sec ms => Sys2Proof.Machine.execSetTime r sec ms s
  | .readJournal r seq => Sys2Proof.Machine.execReadJournal r seq s
  | .releaseJournal r seq => Sys2Proof.Machine.execReleaseJournal r seq s
  | .setNotices r line dept store journal integrity forward => Sys2Proof.Machine.execSetNotices r line dept store journal integrity forward s
  | .readLinkStatistics r clear => Sys2Proof.Machine.execReadLinkStatistics r clear s
  | .releaseHold r doc => Sys2Proof.Machine.execReleaseHold r doc s
  | .discardDocument r doc => Sys2Proof.Machine.execDiscardDocument r doc s
  | .verifyDocument r doc => Sys2Proof.Machine.execVerifyDocument r doc s
  | .verifyStep doc => Sys2Proof.Machine.execVerifyStep doc s
  | .readDocument r doc firstPage => Sys2Proof.Machine.execReadDocument r doc firstPage s
  | .listDocuments r dept filter start => Sys2Proof.Machine.execListDocuments r dept filter start s
  | .collect r dept timeout => Sys2Proof.Machine.execCollect r dept timeout s
  | .acceptOffer r doc => Sys2Proof.Machine.execAcceptOffer r doc s
  | .declineOffer r doc => Sys2Proof.Machine.execDeclineOffer r doc s
  | .abortTransfer r doc => Sys2Proof.Machine.execAbortTransfer r doc s
  | .confirmCollected r doc => Sys2Proof.Machine.execConfirmCollected r doc s
  | .addForward r doc digits => Sys2Proof.Machine.execAddForward r doc digits s
  | .cancelForward r doc index => Sys2Proof.Machine.execCancelForward r doc index s
  | .resumeForwarding r => Sys2Proof.Machine.execResumeForwarding r s
  | .readJobs r doc start => Sys2Proof.Machine.execReadJobs r doc start s
  | .readCallerMemory r index => Sys2Proof.Machine.execReadCallerMemory r index s
  | .forgetCaller r number => Sys2Proof.Machine.execForgetCaller r number s
  | .readErrorRecords r serial => Sys2Proof.Machine.execReadErrorRecords r serial s
  | .ring n => Sys2Proof.Machine.execRing n s
  | .ringEnd n => Sys2Proof.Machine.execRingEnd n s
  | .digits n string complete => Sys2Proof.Machine.execDigits n string complete s
  | .callingNumber n number => Sys2Proof.Machine.execCallingNumber n number s
  | .digitWindowExpiry n => Sys2Proof.Machine.execDigitWindowExpiry n s
  | .commandAck n acked => Sys2Proof.Machine.execCommandAck n acked s
  | .ackLimitExpiry n => Sys2Proof.Machine.execAckLimitExpiry n s
  | .frontEndFault n => Sys2Proof.Machine.execFrontEndFault n s
  | .remoteChoice n step resolution identity => Sys2Proof.Machine.execRemoteChoice n step resolution identity s
  | .trainingDone n step pass => Sys2Proof.Machine.execTrainingDone n step pass s
  | .pageData n bytes => Sys2Proof.Machine.execPageData n bytes s
  | .pageEnd n total bad last => Sys2Proof.Machine.execPageEnd n total bad last s
  | .carrierLost n => Sys2Proof.Machine.execCarrierLost n s
  | .released n => Sys2Proof.Machine.execReleased n s
  | .receiverSignalWaitExpiry n => Sys2Proof.Machine.execReceiverSignalWaitExpiry n s
  | .pageWaitExpiry n => Sys2Proof.Machine.execPageWaitExpiry n s
  | .releaseWaitExpiry n => Sys2Proof.Machine.execReleaseWaitExpiry n s
  | .connected n => Sys2Proof.Machine.execConnected n s
  | .dialFailed n reason => Sys2Proof.Machine.execDialFailed n reason s
  | .dialWaitExpiry n => Sys2Proof.Machine.execDialWaitExpiry n s
  | .remoteOffer n maxStep fine identity => Sys2Proof.Machine.execRemoteOffer n maxStep fine identity s
  | .verdict n v => Sys2Proof.Machine.execVerdict n v s
  | .senderWaitExpiry n => Sys2Proof.Machine.execSenderWaitExpiry n s
  | .attemptOutcome a => Sys2Proof.Machine.execAttemptOutcome a s
  | .callerClassification number cls => Sys2Proof.Machine.execCallerClassification number cls s
  | .jobDue job => Sys2Proof.Machine.execJobDue job s
  | .arbiterRun => Sys2Proof.Machine.execArbiterRun s
  | .collectExpiry tag => Sys2Proof.Machine.execCollectExpiry tag s
  | .documentJoinsReadyQueue doc => Sys2Proof.Machine.execDocumentJoinsReadyQueue doc s
  | .offerWindowExpiry doc => Sys2Proof.Machine.execOfferWindowExpiry doc s
  | .retentionExpiry doc => Sys2Proof.Machine.execRetentionExpiry doc s
  | .spontaneousAppend content => Sys2Proof.Machine.execSpontaneousAppend content s
  | .calendarClockLimit => Sys2Proof.Machine.execCalendarClockLimit s
  | .powerFailure => Sys2Proof.Machine.execPowerFailure s
  | .byteWithoutStopBit => Sys2Proof.Machine.execByteWithoutStopBit s

end Sys2Proof.Machine
end

