-- ==== Sys2Proof/Machine/Step.lean ====
section
/-! DEFINITION. Machine/Step.lean: one step of the part: the command at the front of the queue, and what happens when none waits. -/

namespace Sys2Proof.Machine

open Sys2Proof

/-- The expiry event of a wait. -/
def waitEvent (n : LineNo) : WaitKind → Instr
  | .digitWindow => .digitWindowExpiry n
  | .receiverSignal => .receiverSignalWaitExpiry n
  | .page => .pageWaitExpiry n
  | .release => .releaseWaitExpiry n
  | .dial => .dialWaitExpiry n
  | .sender => .senderWaitExpiry n

/-- The acknowledgment limit of a line's oldest command, once run time has reached it (R72). -/
def owedAck (run : Nat) (n : LineNo) (l : Line) : List Instr :=
  match l.acks with
  | w :: _ => if w.expiry ≤ run then [.ackLimitExpiry n] else []
  | [] => []

/-- The wait of a line's call, once run time has reached its expiry (R71). -/
def owedWait (run : Nat) (n : LineNo) (l : Line) : List Instr :=
  match l.call with
  | some ⟨some w, _⟩ => if w.expiry ≤ run then [waitEvent n w.kind] else []
  | _ => []

/-- A SETTLED document's deadline that run time has reached, with no verification to wait for (R44). -/
def owedRetention (run : Nat) (d : Document) : List Instr :=
  match d.deadline with
  | some t => if d.life = .settled ∧ d.verifying = false ∧ t ≤ run then [.retentionExpiry d.number] else []
  | none => []

/-- A gap inside a frame that run time has passed (R208). -/
def owedGap (s : State) : List Instr := if gapPassed s then [.byteGapTimeout] else []

/-- The events the part owes itself now: expiries that run time has reached, messages on their way between blocks (R107, R135), and a
run of the arbiter (R123). -/
def owed (s : State) : List Instr :=
  let run := s.clock.run
  s.fwd.handed.map Instr.attemptOutcome ++
    s.callers.handed.map (fun c => Instr.callerClassification c.number c.cls) ++
    owedGap s ++
    allLines.flatMap (fun n => owedAck run n (lineAt s n) ++ owedWait run n (lineAt s n)) ++
    (s.collect.queue.filter (fun w => decide (w.expiry ≤ run))).map (fun w => Instr.collectExpiry w.tag) ++
    (s.collect.offers.filter (fun o => decide (o.expiry ≤ run))).map (fun o => Instr.offerWindowExpiry o.doc) ++
    (if isReady s then s.dir.docs.flatMap (owedRetention run) else []) ++
    (if s.fwd.runOwed then [Instr.arbiterRun] else [])

/-- What happens when no command waits (log entry 4): held in reset, nothing; with events owed, the first of them is raised, and acts
before another is, so that none is raised whose cause an earlier one has taken away (R71, R149, R153); else one millisecond of run
time passes. -/
def idle (s : State) : State :=
  if s.part.phase = none then s
  else
    match owed s with
    | [] => advance 1 s
    | e :: _ => { s with pending := [e] }

/-- One step of the part: the command at the front of the queue acts on all but the queue; with no command waiting the part idles. -/
def step (s : State) : Host.Outcome State Fault Refusal :=
  match s.pending with
  | [] => .next (idle s)
  | c :: rest => exec c { s with pending := rest }

/-- The state with the command that a word spells put at the front of the queue, and the state itself where the word spells none. -/
def State.withFetchWord (s : State) (nbits w : Nat) : State :=
  match decodeTableWord nbits w with
  | some c => { s with pending := c :: s.pending }
  | none => s

end Sys2Proof.Machine
end

