-- ==== Sys2Proof/WellFormed.lean ====
section
/-! DEFINITION. WellFormed.lean: the operands a command can carry at all, from the content the manual gives its event. What a request may
carry is its owner's own test (R213), so a request is well formed whatever its fields hold. -/

namespace Sys2Proof

open Machine

/-- A number of a document, a journal entry or a record (R29). -/
def numberForm (n : Nat) : Bool := decide (1 ≤ n) && decide (n ≤ maxNumber)

/-- The bytes of a PAGE-DATA event (4.3). -/
def pageDataForm (bytes : List Byte) : Bool := decide (1 ≤ bytes.length) && decide (bytes.length ≤ portBytes)

/-- An attempt's end (R135): its job's number (R117) and the pages accepted, at most a document's (R47). -/
def attemptEndForm (a : AttemptEnd) : Bool :=
  decide (1 ≤ a.job) && decide (a.job ≤ maxJobNumber) && decide (a.pages ≤ maxPages)

/-- The command can arrive. -/
def Instr.wf : Instr → Bool
  | .frameReceived bytes => !bytes.isEmpty
  | .pageData _ bytes => pageDataForm bytes
  | .attemptOutcome a => attemptEndForm a
  | .callerClassification number _ => isNumber number
  | .jobDue job => decide (1 ≤ job) && decide (job ≤ maxJobNumber)
  | .verifyStep doc => numberForm doc
  | .documentJoinsReadyQueue doc => numberForm doc
  | .offerWindowExpiry doc => numberForm doc
  | .retentionExpiry doc => numberForm doc
  | .spontaneousAppend content => isSpontaneous content
  | .powerOn _ => true
  | .resetPinAssert => true
  | .resetPinRelease _ => true
  | .storeInitializationComplete => true
  | .byteGapTimeout => true
  | .requestToSendChange _ => true
  | .beginFrameSend => true
  | .unknownKindRequest _ _ => true
  | .setDepartment _ _ _ _ _ _ => true
  | .removeDepartment _ _ => true
  | .setRoute _ _ _ _ _ _ _ => true
  | .removeRoute _ _ => true
  | .setLine _ _ _ _ _ _ => true
  | .resetLine _ _ => true
  | .readLineStatistics _ _ _ => true
  | .setPolicy _ _ => true
  | .readStatus _ => true
  | .restart _ => true
  | .restartEnd => true
  | .setTime _ _ _ => true
  | .readJournal _ _ => true
  | .releaseJournal _ _ => true
  | .setNotices _ _ _ _ _ _ _ => true
  | .readLinkStatistics _ _ => true
  | .releaseHold _ _ => true
  | .discardDocument _ _ => true
  | .verifyDocument _ _ => true
  | .readDocument _ _ _ => true
  | .listDocuments _ _ _ _ => true
  | .collect _ _ _ => true
  | .acceptOffer _ _ => true
  | .declineOffer _ _ => true
  | .abortTransfer _ _ => true
  | .confirmCollected _ _ => true
  | .addForward _ _ _ => true
  | .cancelForward _ _ _ => true
  | .resumeForwarding _ => true
  | .readJobs _ _ _ => true
  | .readCallerMemory _ _ => true
  | .forgetCaller _ _ => true
  | .readErrorRecords _ _ => true
  | .ring _ => true
  | .ringEnd _ => true
  | .digits _ _ _ => true
  | .callingNumber _ _ => true
  | .digitWindowExpiry _ => true
  | .commandAck _ _ => true
  | .ackLimitExpiry _ => true
  | .frontEndFault _ => true
  | .remoteChoice _ _ _ _ => true
  | .trainingDone _ _ _ => true
  | .pageEnd _ _ _ _ => true
  | .carrierLost _ => true
  | .released _ => true
  | .receiverSignalWaitExpiry _ => true
  | .pageWaitExpiry _ => true
  | .releaseWaitExpiry _ => true
  | .connected _ => true
  | .dialFailed _ _ => true
  | .dialWaitExpiry _ => true
  | .remoteOffer _ _ _ _ => true
  | .verdict _ _ => true
  | .senderWaitExpiry _ => true
  | .arbiterRun => true
  | .collectExpiry _ => true
  | .calendarClockLimit => true
  | .powerFailure => true
  | .byteWithoutStopBit => true

end Sys2Proof
end

