-- ==== Sys2Proof/Safety.lean ====
section
/-! DEFINITION. Safety.lean: what counts as a safe run, and the laws the manual states of the whole part, as conditions on one state. -/

namespace Sys2Proof.Machine

open Sys2Proof

/-- A step that answers a next state. Every step of this part does (log entry 9). -/
def Answers (o : Host.Outcome State Fault Refusal) : Prop := ∃ t, o = .next t

/-- The store memory keeps its canonical form. -/
def MemoryCanonical (s : State) : Prop := memoryWf s.mem = true

/-- The spare set and the retired list together hold 64 blocks once the store is initialized (R197). -/
def SparesConserved (s : State) : Prop :=
  (s.part.phase = some .ready ∨ s.part.phase = some .restarting) → s.store.spares.length + s.store.retired.length = spareBlocks

/-- For every department, its ready queue is empty or no request for it waits (R146). -/
def CollectMet (s : State) : Prop :=
  ∀ d : Dept, readyQueue s d = [] ∨ ∀ w ∈ s.collect.queue, w.dept ≠ d

/-- The Caller Memory's entries (R104): distinct numbers, ceilings and fail counts in their ranges, history held, and at most 512; the
table stands in the number order of R113. The fail limit stands in its range (R230). -/
def CallersOk (s : State) : Prop :=
  (2 ≤ s.policy.failLimit ∧ s.policy.failLimit ≤ 9) ∧
  s.callers.table.length ≤ maxCallers ∧
  (s.callers.table.map CallerEntry.number).Nodup ∧
  s.callers.table.Pairwise (fun a b => numberBefore a.number b.number = true) ∧
  ∀ e ∈ s.callers.table,
    e.ceiling ≤ topStep ∧ e.fails < s.policy.failLimit ∧ (e.ceiling < topStep ∨ 1 ≤ e.fails)

/-- A line that has nothing in progress (R71). -/
def Line.quiet (l : Line) : Prop := l.chan = .idle ∧ l.call = none ∧ l.reset = .none

/-- What holds of every line (R68, R71, R73): in FAULT it is IDLE with no call record and no command outstanding, with a return state
and no pending state; the return state is kept only in FAULT; FAULT is never pending nor returned to; and an IDLE channel holds no
call record and no reset. -/
def Line.ok (l : Line) : Prop :=
  (l.service = .fault → l.quiet ∧ l.acks = [] ∧ l.returnState ≠ none ∧ l.pendingService = none) ∧
  (l.service ≠ .fault → l.returnState = none ∧ l.faultCause = none) ∧
  l.pendingService ≠ some .fault ∧ l.returnState ≠ some .fault ∧
  (l.chan = .idle → l.call = none ∧ l.reset = .none)

/-- Every line is as Line.ok says, and before READY every line is BUSY-OUT, IDLE, and has sent nothing (R100). -/
def LinesOk (s : State) : Prop :=
  (∀ n : LineNo, (lineAt s n).ok) ∧
  (s.part.phase = none ∨ s.part.phase = some .starting →
    ∀ n : LineNo, (lineAt s n).service = .busyOut ∧ (lineAt s n).quiet ∧ (lineAt s n).acks = [])

/-- The tables and queues stay within the places the manual gives them. -/
structure TablesFit (s : State) : Prop where
  collects : s.collect.queue.length ≤ maxCollects          -- R146
  intake : s.link.intake.length ≤ intakePlaces             -- R209
  verifications : s.dir.verifications.length ≤ maxVerifications -- R49
  routes : s.routes.length ≤ maxRoutes                     -- R55
  jobs : s.fwd.jobs.length ≤ maxJobs                       -- R116
  records : s.dir.docs.length ≤ recordSlots                -- R29
  ring : s.journal.ring.length ≤ ringPlaces                -- R173
  errors : s.integrity.records.length ≤ maxRecords         -- R200
  runTime : s.clock.run ≤ runTop                           -- R186, 64 bits

/-- The job list (R116, R117): at most 256 jobs with distinct numbers from 1 to 65,535, the next-job-number counter in that range, and at
most one job IN-CALL for a destination. -/
def JobsOk (s : State) : Prop :=
  s.fwd.jobs.length ≤ maxJobs ∧ (1 ≤ s.fwd.nextJob ∧ s.fwd.nextJob ≤ maxJobNumber) ∧
  (∀ j ∈ s.fwd.jobs, 1 ≤ j.number ∧ j.number ≤ maxJobNumber) ∧
  (s.fwd.jobs.map Job.number).Nodup ∧
  ((s.fwd.jobs.filter Job.inCall).map Job.destination).Nodup

/-- The journal's ring (R171, R172, R173): no unreleased entry lacks its place, the ring holds at most 8,192, and the held entries carry
consecutive numbers of the cycle, up to the one before the next. -/
def JournalOk (s : State) : Prop :=
  s.journal.unreleased ≤ s.journal.ring.length ∧ s.journal.ring.length ≤ ringPlaces ∧
  (1 ≤ s.journal.nextSeq ∧ s.journal.nextSeq ≤ maxNumber) ∧
  (∀ (i : Nat) (e f : Entry), s.journal.ring[i]? = some e → s.journal.ring[i + 1]? = some f →
    f.seq = if e.seq < 4294967295 then e.seq + 1 else 1) ∧
  (∀ e, s.journal.ring.getLast? = some e → s.journal.nextSeq = if e.seq < 4294967295 then e.seq + 1 else 1)

/-- All blocks of a document: its pages' and its landing page's. -/
def heldBlocks (d : Document) : List Block := docBlocks d ++ d.landing.elim [] Landing.blocks

/-- The store's books are in order (R1, R7, R8, R9, R14, R43). Every block is in exactly one place, and the free list and the used counts
make up the pool; used counts are those of the documents, and reserved counts those of the allotment table; no account goes above its
cap, nor all together above the shared pool; and the reclaim list holds exactly the SETTLED documents. What ties them together: document
numbers rise, a landing page is a LANDING document's, an allotment belongs to a receiving call, for its document's department, and a line
in a front-end reset carries no such call. -/
structure StoreOk (s : State) : Prop where
  numbers : (s.dir.docs.map (fun d => d.number)).Pairwise (· < ·) ∧ ∀ d ∈ s.dir.docs, d.number < s.dir.nextNumber
  unopened : isOpen s = false → s.dir.docs = []
  blocks : isOpen s = true →
    (s.store.free ++ s.store.spares ++ s.store.retired ++ s.dir.docs.flatMap heldBlocks).Perm (List.finRange 32768)
  pool : isOpen s = true → s.store.free.length + ((List.finRange 32).map (fun e => (acct s e).used)).sum = 32704
  used : ∀ e : Dept, (acct s e).used = ((s.dir.docs.filter (fun d => decide (d.dept = e))).flatMap heldBlocks).length
  resv : ∀ e : Dept, (acct s e).resv = ((List.finRange 16).map (fun n =>
    if (Machine.allotment s n).dept = some e then (Machine.allotment s n).count else 0)).sum
  caps : ∀ e : Dept, (acct s e).used + (acct s e).resv ≤ (acct s e).cap
  shared : sharedCommitted s ≤ sharedPool s ∧ guarantees s ≤ 31680
  absent : ∀ e : Dept, (acct s e).configured = false →
    (acct s e).guarantee = 0 ∧ (acct s e).cap = 0 ∧ (acct s e).used = 0 ∧ (acct s e).resv = 0
  reclaim : s.dir.reclaim.Nodup ∧ ∀ m, m ∈ s.dir.reclaim ↔ ∃ d ∈ s.dir.docs, d.number = m ∧ d.life = .settled
  landings : ∀ d ∈ s.dir.docs, d.landing ≠ none → d.life = .landing
  calls : ∀ (n : LineNo) (c : RxCall), rxOf (lineAt s n) = some c → receivingChan (lineAt s n).chan = true →
    ∃ d ∈ s.dir.docs, c.document = some d.number ∧ d.life = .landing ∧ d.line = n ∧ (Machine.allotment s n).dept = some d.dept
  idle : ∀ n : LineNo, inReceiving (lineAt s n) = false → Machine.allotment s n = ⟨none, 0⟩
  resets : ∀ n : LineNo, (lineAt s n).reset ≠ .none → (lineAt s n).chan = .releasing

/-! ## What a command may change -/

/-- The commands that start the part anew or hold it in reset (R222, R229), and the completion of store initialization (R224). -/
def isStart : Instr → Bool
  | .powerOn _ => true
  | .resetPinAssert => true
  | .resetPinRelease _ => true
  | .powerFailure => true
  | .storeInitializationComplete => true
  | _ => false

/-- The commands by which a landing page is written or may come to its end (R85, R86, R90, R73, R74, R99). -/
def endsLandingPages : Instr → Bool
  | .pageData _ _ => true
  | .pageEnd _ _ _ _ => true
  | .remoteChoice _ _ _ _ => true
  | .trainingDone _ _ _ => true
  | .commandAck _ _ => true
  | .carrierLost _ => true
  | .released _ => true
  | .receiverSignalWaitExpiry _ => true
  | .pageWaitExpiry _ => true
  | .releaseWaitExpiry _ => true
  | .dialWaitExpiry _ => true
  | .senderWaitExpiry _ => true
  | .ackLimitExpiry _ => true
  | .frontEndFault _ => true
  | .resetLine _ _ => true
  | .restart _ => true
  | _ => false

/-- The commands that say how far run time has come: the expiries and due times of R186, the gap of R208, and the calendar clock's
limit. -/
def tellsTime : Instr → Bool
  | .byteGapTimeout => true
  | .digitWindowExpiry _ => true
  | .ackLimitExpiry _ => true
  | .receiverSignalWaitExpiry _ => true
  | .pageWaitExpiry _ => true
  | .releaseWaitExpiry _ => true
  | .dialWaitExpiry _ => true
  | .senderWaitExpiry _ => true
  | .jobDue _ => true
  | .collectExpiry _ => true
  | .offerWindowExpiry _ => true
  | .retentionExpiry _ => true
  | .calendarClockLimit => true
  | _ => false

/-! ## Marks, requests and commands as statements speak of them -/

/-- The notice set of t is that of s with, behind it, the subjects of enabled classes that P names and s did not list (R215). -/
def Marked (s t : State) (P : Subject → Prop) : Prop :=
  s.link.notices <+: t.link.notices ∧
    ∀ x, x ∈ t.link.notices ↔ x ∈ s.link.notices ∨ (s.link.classes.enables x = true ∧ P x)

/-- A request has been taken from the intake queue, and its response stands behind those that waited (R209, R212). -/
def Responded (s t : State) (r : Envelope) (k : ReqKind) (st : Status) (c : Content) : Prop :=
  t.link.intake = afterTaking r.tag s.link.intake ∧ t.link.responses = s.link.responses ++ [⟨r.tag, k, st, c⟩]

/-- Every line but one stands as it did. -/
def OtherLines (s t : State) (n : LineNo) : Prop := ∀ m : LineNo, m ≠ n → lineAt t m = lineAt s m

/-- The arbiter's view of every line but one stands as it did. -/
def OtherViews (s t : State) (n : LineNo) : Prop := ∀ m : LineNo, m ≠ n → t.fwd.view[m] = s.fwd.view[m]

/-- A line to whose front-end one more command has been sent at the given run time (R72). -/
def Line.sends (l : Line) (run : Nat) (c : PortCommand) : Line := { l with acks := l.acks ++ [⟨c, run + 500⟩] }

/-- A line that has sent a command ending its call and waits for RELEASED (R92). -/
def Line.releases (l : Line) (run : Nat) (c : PortCommand) : Line :=
  { l.sends run c with chan := .releasing, call := l.call.map (fun x => { x with wait := some ⟨.release, run + 6000⟩ }) }

/-- A line that has returned to IDLE (R71, R92): no call record, and a pending service state applied, with its PRESENT command. -/
def Line.idles (l : Line) (run : Nat) : Line :=
  let free := { l with chan := .idle, call := none, reset := .none }
  match l.pendingService with
  | none => free
  | some .inService => ({ free with service := .inService, pendingService := none }).sends run .presentIdle
  | some p => ({ free with service := p, pendingService := none }).sends run .presentBusy

/-- The journal after one entry has been written with the given stamp (R168, R171, R172, R173). -/
def Journal.written (j : Journal) (content : JournalContent) (time : CalTime) (trusted : Bool) : Journal :=
  { j with
    ring := (if j.ring.length < 8192 then j.ring else j.ring.tail) ++ [⟨j.nextSeq, content, time, trusted⟩]
    nextSeq := if j.nextSeq < 4294967295 then j.nextSeq + 1 else 1
    unreleased := j.unreleased + 1 }

/-- The steps forward from a release point to a number (R172, R176): 0 lies one step before 1. -/
def forward (point n : Nat) : Nat := if point = 0 then n else if point ≤ n then n - point else n + 4294967295 - point

/-- The bytes of a frame on the link (10.2, R207): the mark, the length, the kind, the tag, the body and the check, low bytes first. -/
def frameBytes (f : Frame) : List Byte :=
  let checked := BitVec.ofNat 8 f.body.length :: BitVec.ofNat 8 (f.body.length / 256) :: f.kind :: f.tag :: f.body
  0xC3 :: 0x3C :: checked ++ [(crc16 checked).truncate 8, ((crc16 checked) >>> 8).truncate 8]

/-- The pressure state an evaluation leaves (R21), from the one before it. -/
def pressureAfter (was : Bool) (t : State) : Bool :=
  if was then decide (pLeave t ≤ sharedCommitted t) else decide (pEnter t ≤ sharedCommitted t)

/-! ## Documents as statements speak of them -/

/-- Every record but that of one number stands as it did, and the same numbers are held. -/
def OtherDocs (s t : State) (doc : Nat) : Prop :=
  (∀ m, m ≠ doc → findDoc t m = findDoc s m) ∧ t.dir.docs.map (fun x => x.number) = s.dir.docs.map (fun x => x.number)

/-- A document d that has become DUE meets the oldest waiting request for its department, which is answered with an offer, or takes its
place in its ready queue (R37, R39, R148, R150). The disposition it has then, the open offers beside which the new one stands and the
responses it sends are given. -/
structure Joined (s t : State) (d : Document) (offers : List Offer) (answers : List Response) (left : Disposition) : Prop where
  others : ∀ e : Dept, e ≠ d.dept → readyQueue t e = readyQueue s e
  waits : (∀ w ∈ s.collect.queue, w.dept ≠ d.dept) →
    left = .due ∧ answers = [] ∧ t.collect.queue = s.collect.queue ∧ t.collect.offers = offers ∧
    (d.priority = .normal → readyQueue t d.dept = readyQueue s d.dept ++ [d.number]) ∧
    (d.priority = .urgent → ∃ front back, readyQueue s d.dept = front ++ back ∧ readyQueue t d.dept = front ++ d.number :: back ∧
      (∀ x, front.getLast? = some x → isUrgent s x = true) ∧ ∀ x ∈ back, isUrgent s x = false)
  meets : ∀ front w rest, s.collect.queue = front ++ w :: rest → w.dept = d.dept → (∀ v ∈ front, v.dept ≠ d.dept) →
    left = .offered ∧ answers = [⟨w.tag, .collect, .done, .offer (offerSummary d w.timeout s.policy.offerWindow)⟩] ∧
    t.collect.queue = front ++ rest ∧
    t.collect.offers = offers ++ [⟨d.number, d.dept, t.clock.run + s.policy.offerWindow * 1000⟩] ∧
    readyQueue t d.dept = readyQueue s d.dept

/-- The oldest document of the reclaim list that no verification reads and of which P holds (R11, R30). -/
def Oldest (s : State) (P : Document → Prop) (m : Nat) : Prop :=
  ∃ front x back, s.dir.reclaim = front ++ m :: back ∧ findDoc s m = some x ∧ x.verifying = false ∧ P x ∧
    ∀ y ∈ front, ∀ z, findDoc s y = some z → z.verifying = true ∨ ¬ P z

/-- A verification reads every document of the reclaim list of which P holds. -/
def NoneLeft (s : State) (P : Document → Prop) : Prop :=
  ∀ m ∈ s.dir.reclaim, ∀ x, findDoc s m = some x → x.verifying = true ∨ ¬ P x

/-- The cap test of R9 for k more blocks. -/
def CapPasses (s : State) (d : Dept) (k : Nat) : Prop := (acct s d).used + (acct s d).resv + k ≤ (acct s d).cap

/-- The shared test of R9 for k more blocks. -/
def SharedPasses (s : State) (d : Dept) (k : Nat) : Prop :=
  let a := acct s d
  sharedCommitted s + ((a.used + a.resv + k - a.guarantee) - (a.used + a.resv - a.guarantee)) ≤ sharedPool s

/-- The document that a test for k blocks of a department purges next (R11): the oldest of that department, and when it has none and the
cap test holds, the oldest of a department that borrows. -/
def Reclaims (s : State) (d : Dept) (k m : Nat) : Prop :=
  ¬ (CapPasses s d k ∧ SharedPasses s d k) ∧
    (Oldest s (fun x => x.dept = d) m ∨
      (NoneLeft s (fun x => x.dept = d) ∧ CapPasses s d k ∧
        Oldest s (fun x => (acct s x.dept).guarantee < (acct s x.dept).used + (acct s x.dept).resv) m))

/-- A test for k blocks of a department fails, with nothing left that it may purge, and the cause of its failure (R11, R12). -/
def TestFails (s : State) (d : Dept) (k : Nat) (cause : AllocCause) : Prop :=
  NoneLeft s (fun x => x.dept = d) ∧
    ((¬ CapPasses s d k ∧ cause = .cap) ∨
      (CapPasses s d k ∧ ¬ SharedPasses s d k ∧ cause = .shared ∧
        NoneLeft s (fun x => (acct s x.dept).guarantee < (acct s x.dept).used + (acct s x.dept).resv)))

/-- The blocks of pages given back (R6, R197, R198): their department's used count falls by one for each, the free list takes a block
for each, and spares and retired blocks only change places. -/
structure Freed (s t : State) (dept : Dept) (blocks : Nat) : Prop where
  used : (acct t dept).used = (acct s dept).used - blocks
  free : t.store.free.length = s.store.free.length + blocks ∧ s.store.free <+: t.store.free
  spares : t.store.spares <:+ s.store.spares ∧ s.store.retired <+: t.store.retired ∧
    t.store.spares.length + t.store.retired.length = s.store.spares.length + s.store.retired.length
  pressure : t.store.pressure = pressureAfter s.store.pressure t

/-- A document has been purged (R45). -/
structure Purged (s t : State) (d : Document) : Prop extends Freed s t d.dept (docBlocks d).length where
  docs : t.dir.docs = s.dir.docs.filter (fun x => decide (x.number ≠ d.number))
  reclaim : t.dir.reclaim = s.dir.reclaim.filter (fun x => decide (x ≠ d.number))
  queues : ∀ e : Dept, readyQueue t e = if e = d.dept then (readyQueue s e).filter (fun x => decide (x ≠ d.number)) else readyQueue s e
  account : acct t d.dept = { acct s d.dept with used := (acct t d.dept).used }
  accounts : ∀ e : Dept, e ≠ d.dept → acct t e = acct s e

/-- The frame of the open transfer that is handed to the scheduler next (R156 to R159), when no bit error stands in the DRAM: pages
marked damaged are left out as they are reached, the others go in chunks of up to 1,024 bytes, and a Transfer End follows the last. -/
def NextFrame (s t : State) (d : Document) (tr : Transfer) : Prop :=
  let ahead := d.pages.drop (tr.page - 1)
  let skipped := if tr.offset = 0 then ahead.takeWhile Page.damaged else []
  let omitted := tr.omitted ++ skipped.map Page.number
  match ahead.drop skipped.length with
  | [] =>
    let status : Ending := if omitted = [] then .complete else .omissions
    t.link.waiting = some (.transferEnd tr.doc status tr.bytesSent d.digest (tr.crc ^^^ 0xFFFFFFFF) tr.pagesWhole omitted) ∧
      t.collect.transfer = some { tr with page := tr.page + skipped.length, omitted := omitted, ending := some status }
  | p :: _ =>
    let n := min 1024 (p.length - tr.offset)
    let last := decide (p.length ≤ tr.offset + 1024)
    ∃ data, t.link.waiting = some (.pageData tr.doc p.number tr.offset data) ∧ data.length = n ∧
      (∀ i, i < n → ∃ b, p.blocks[(tr.offset + i) / 8192]? = some b ∧
        data[i]? = some (readByte s.mem (b.val * 8192 + (tr.offset + i) % 8192))) ∧
      t.collect.transfer = some { tr with
        page := tr.page + skipped.length + (if last then 1 else 0), offset := if last then 0 else tr.offset + 1024
        bytesSent := tr.bytesSent + n, crc := crc32Run tr.crc data, omitted := omitted
        pagesWhole := tr.pagesWhole + (if last then 1 else 0) }

/-- What a RECEIPT entry carries of a document (R169, R33, R34): the number and the digest only when it accepted a page. -/
def receiptFor (d : Document) (o : ReceiptOutcome) : JournalContent :=
  let kept := !d.pages.isEmpty
  .receipt ⟨if kept then some d.number else none, d.line, d.called, d.calling, d.dept, d.routeKey, d.answerTime, d.pages.length, o,
    if kept then some (d.crc ^^^ 0xFFFFFFFF) else none, d.continuationOf⟩

/-- The journal after a spontaneous entry (R173, R181). -/
def Journal.offered (j : Journal) (content : JournalContent) (time : CalTime) (trusted : Bool) : Journal :=
  if j.unreleased < 8192 then j.written content time trusted else { j with overrun := true }

/-- A page that ends leaves no partial group behind (R190): with bytes of its last group held, that group is completed with zero bytes and
written in its place, which clears the faults that stood there but for those that persist, and every other byte stands as it did. The premises hold of every
landing page: the memory is canonical, and the bytes held are those past the last whole group. -/
structure GroupClosed (s t : State) (l : Landing) : Prop where
  whole : l.held = [] → t.mem = s.mem ∧ t.dram = s.dram
  written : l.held ≠ [] → MemoryCanonical s → l.held.length = l.length % 8 →
    let start := l.length - l.held.length
    (∀ i a, i < 8 → pageAddress l.blocks (start + i) = some a → readByte t.mem a = l.held.getD i 0) ∧
    (∀ a, (∀ i, i < 8 → pageAddress l.blocks (start + i) ≠ some a) → readByte t.mem a = readByte s.mem a) ∧
    t.dram.draws = s.dram.draws ∧ ∀ f, f ∈ t.dram.faults ↔ f ∈ s.dram.faults ∧
      (f.persists = true ∨ ¬ (l.blocks[start / 8192]? = some f.block ∧ f.group.val = start % 8192 / 8))

/-- The PENDING entries of a document's plan (R35). -/
def planned (d : Document) : List ForwardEntry := d.plan.dests.map (fun x => ⟨x, .pending, 0, none, 0⟩)

/-- A document d has entered OPEN (R35): a plan that collects makes it DUE (R37), and each destination of the plan has a WAITING job that is
due at once (R117, R118). left is its disposition then, and answers the responses sent. -/
structure Opened (s t : State) (d : Document) (answers : List Response) (left : Disposition) : Prop where
  collects : d.plan.collect = true → Joined s t d s.collect.offers answers left
  keeps : d.plan.collect = false → left = d.disposition ∧ answers = [] ∧ t.collect = s.collect ∧ t.dir.ready = s.dir.ready
  jobs : ∃ new : List Job, t.fwd.jobs = s.fwd.jobs ++ new ∧ new.length = d.plan.dests.length ∧
    ∀ (i : Nat) (j : Job), new[i]? = some j → some j.destination = d.plan.dests[i]? ∧
      j = { j with
        document := d.number, index := i, inCall := false, attempts := 0, nextDue := s.clock.run
        urgent := decide (d.priority = .urgent), interrupted := false, line := none }
  owed : d.plan.dests ≠ [] → t.fwd.runOwed = true

/-- The record of a document that has landed (R33), before it is HELD or OPEN. -/
def landedAs (s : State) (d : Document) (o : ReceiptOutcome) : Document := { d with
  landing := none, completionTime := some s.clock.cal, digest := some (d.crc ^^^ 0xFFFFFFFF), outcome := some o
  partialFlag := decide (o ≠ .complete ∧ o ≠ .continued)
  receiptSeq := if s.journal.unreleased < 8192 then some s.journal.nextSeq else none }

/-- A receiving call on line n has ended (R91): its document d has landed, HELD or OPEN as its plan says (R33, R35), or is gone when it
accepted no page (R34); the landing page's last group is written (R190) and its blocks and the line's allotment are given back (R18, R19);
the classification of a call with a calling number is handed (R93); and the line's subject, and a landed document's department, are
marked (R33, R98). own are the responses the event itself sends behind those of a collect offer. -/
structure RxEnded (s t : State) (n : LineNo) (c : RxCall) (d : Document) (o : ReceiptOutcome) (cls : CallClass)
    (own : List Response := []) : Prop where
  receipt : t.journal = s.journal.offered (receiptFor d o) s.clock.cal s.clock.trusted
  empty : d.pages = [] → findDoc t d.number = none ∧ t.dir.docs = s.dir.docs.filter (fun x => decide (x.number ≠ d.number)) ∧
    t.dir.ready = s.dir.ready ∧ t.fwd.jobs = s.fwd.jobs ∧ t.collect = s.collect ∧ t.link.responses = s.link.responses ++ own
  landed : d.pages ≠ [] → OtherDocs s t d.number ∧
    (s.link.classes.department = true → Subject.department d.dept ∈ t.link.notices) ∧
    (d.plan.hold = true → findDoc t d.number = some { landedAs s d o with life := .held } ∧ t.dir.ready = s.dir.ready ∧
      t.fwd.jobs = s.fwd.jobs ∧ t.collect = s.collect ∧ t.link.responses = s.link.responses ++ own) ∧
    (d.plan.hold = false → ∃ (answers : List Response) (left : Disposition),
      let opened : Document := { landedAs s d o with life := .opened }
      findDoc t d.number = some { opened with disposition := left, forwards := planned d } ∧ Opened s t opened answers left ∧
      t.link.responses = s.link.responses ++ answers ++ own)
  otherDocs : ∀ m, m ≠ d.number → findDoc t m = findDoc s m
  free : t.store.free.length = s.store.free.length + d.landing.elim 0 (fun l => l.blocks.length) ∧ s.store.free <+: t.store.free
  spares : t.store.spares <:+ s.store.spares ∧ s.store.retired <+: t.store.retired ∧
    t.store.spares.length + t.store.retired.length = s.store.spares.length + s.store.retired.length
  group : ∀ l, d.landing = some l → GroupClosed s t l
  noBlocks : d.landing = none → t.store.free = s.store.free ∧ t.mem = s.mem ∧ t.dram = s.dram
  account : acct t d.dept = { acct s d.dept with
    used := (acct s d.dept).used - (d.landing.elim 0 (fun l => l.blocks.length))
    resv := (acct s d.dept).resv - (allotment s n).count }
  accounts : ∀ e : Dept, e ≠ d.dept → acct t e = acct s e
  pressure : (s.store.pressure = false → sharedCommitted s < pEnter s) → t.store.pressure = pressureAfter s.store.pressure t
  allotment : Machine.allotment t n = ⟨none, 0⟩ ∧ ∀ m : LineNo, m ≠ n → Machine.allotment t m = Machine.allotment s m
  handed : t.callers.table = s.callers.table ∧ t.callers.handed = s.callers.handed ++ (match c.calling with
    | some number => [⟨number, cls⟩]
    | none => [])
  marked : s.link.classes.line = true → Subject.line n ∈ t.link.notices
  marks : s.link.notices <+: t.link.notices ∧ ∀ x ∈ t.link.notices, x ∈ s.link.notices ∨ (s.link.classes.enables x = true ∧
    (x = .line n ∨ (x = .department d.dept ∧ d.pages ≠ []) ∨ x = .store ∨ x = .integrity ∨ x = .journal))
  intake : own = [] → t.link.intake = s.link.intake
  frame : t = { s with
    lines := t.lines, store := t.store, mem := t.mem, dram := t.dram
    integrity := { s.integrity with exhausted := t.integrity.exhausted }
    dir := { s.dir with docs := t.dir.docs, ready := t.dir.ready }, journal := t.journal, callers := t.callers
    fwd := { s.fwd with jobs := t.fwd.jobs, nextJob := t.fwd.nextJob, view := t.fwd.view, runOwed := t.fwd.runOwed }
    collect := { s.collect with queue := t.collect.queue, offers := t.collect.offers }
    link := { s.link with intake := t.link.intake, responses := t.link.responses, notices := t.link.notices } }

/-- An outbound attempt on line n with record u has ended (R135): its outcome and then its classification are handed, and the line's
subject is marked (R98). own are the responses the event itself sends. -/
structure TxEnded (s t : State) (n : LineNo) (u : TxCall) (o : AttemptOutcome) (cls : CallClass) (own : List Response := []) :
    Prop where
  outcome : t.fwd.handed = s.fwd.handed ++ [⟨u.job, n, o, u.accepted⟩]
  handed : t.callers.table = s.callers.table ∧ t.callers.handed = s.callers.handed ++ [⟨u.destination, cls⟩]
  marked : Marked s t (fun x => x = .line n)
  answers : t.link.responses = s.link.responses ++ own ∧ (own = [] → t.link.intake = s.link.intake)
  frame : t = { s with
    lines := t.lines, fwd := { s.fwd with handed := t.fwd.handed, view := t.fwd.view, runOwed := t.fwd.runOwed }
    callers := t.callers
    link := { s.link with intake := t.link.intake, responses := t.link.responses, notices := t.link.notices } }
  engine : t.fwd.jobs = s.fwd.jobs ∧ t.fwd.suspended = s.fwd.suspended

/-- A forward entry of an OPEN document d has ended as e (R120): its FORWARD entry is appended (R121), subject FORWARD is marked, and the
document falls back to collection when nothing is PENDING and an entry FAILED (R40), settles when nothing is left to do (R41), and
stays as it is otherwise. answers are the responses a fallback sends. -/
structure EntryEnded (s t : State) (d : Document) (i : Nat) (e : ForwardEntry) (result : ForwardResult) (answers : List Response) :
    Prop where
  journal : t.journal =
    s.journal.offered (.forward d.number i e.destination result e.attempts e.pages) s.clock.cal s.clock.trusted
  others : ∀ m, m ≠ d.number → findDoc t m = findDoc s m
  marked : s.link.classes.forward = true → Subject.forward ∈ t.link.notices
  stays : (∃ x ∈ d.forwards.set i e, x.state = .pending) ∨ (d.disposition ≠ .none ∧ d.disposition ≠ .done) →
    findDoc t d.number = some { d with forwards := d.forwards.set i e } ∧ answers = [] ∧ t.dir.ready = s.dir.ready ∧
    t.dir.reclaim = s.dir.reclaim ∧ t.collect = s.collect ∧ t.store = s.store
  falls : (∀ x ∈ d.forwards.set i e, x.state ≠ .pending) → (∃ x ∈ d.forwards.set i e, x.state = .failed) → d.disposition = .none →
    d.number ∉ readyQueue s d.dept → ∃ now, findDoc t d.number = some { d with forwards := d.forwards.set i e, disposition := now } ∧
      Joined s t d s.collect.offers answers now ∧ t.dir.reclaim = s.dir.reclaim ∧ t.store = s.store
  settled : (∀ x ∈ d.forwards.set i e, x.state ≠ .pending) →
    d.disposition = .done ∨ (d.disposition = .none ∧ ∀ x ∈ d.forwards.set i e, x.state ≠ .failed) →
    0 < (acct s d.dept).retention → findDoc t d.number = some { d with
        forwards := d.forwards.set i e, life := .settled, settleTime := some s.clock.cal
        deadline := some (s.clock.run + (acct s d.dept).retention * 3600000) } ∧
      t.dir.reclaim = s.dir.reclaim ++ [d.number] ∧ answers = [] ∧ t.dir.ready = s.dir.ready ∧ t.collect = s.collect ∧
      t.store = s.store

/-- The order in which the arbiter takes jobs (R125): URGENT first, then the earlier due, the lower document, the lower index. -/
def Job.before (a b : Job) : Prop :=
  (a.urgent = true ∧ b.urgent = false) ∨ (a.urgent = b.urgent ∧ (a.nextDue < b.nextDue ∨ (a.nextDue = b.nextDue ∧
    (a.document < b.document ∨ (a.document = b.document ∧ a.index < b.index)))))

/-- A job the arbiter may choose (R125): WAITING, due, and no job for its number IN-CALL. -/
def mayDial (s : State) (j : Job) : Prop :=
  j ∈ s.fwd.jobs ∧ j.inCall = false ∧ j.nextDue ≤ s.clock.run ∧ ∀ k ∈ s.fwd.jobs, k.inCall = true → k.destination ≠ j.destination

/-- The number of lines the arbiter's view shows IN-SERVICE and IDLE (R124). -/
def shown (s : State) : Nat := (List.finRange 16).countP (fun n => s.fwd.view[n].available)

/-- The integrity counts (R202): blocks in service are those on the free list, in a page's block list or in a landing page's. -/
structure FiguresShow (s : State) (f : IntegrityFigures) : Prop where
  counts : f.corrected = s.integrity.corrected ∧ f.uncorrectable = s.integrity.uncorrectable
  spares : f.sparesLeft = s.store.spares.length ∧ f.retiredCount = s.store.retired.length ∧ f.sparesExhausted = s.integrity.exhausted
  inUse : ∃ serves : Block → Bool,
    (∀ b, serves b = true ↔ b ∈ s.store.free ∨ ∃ d ∈ s.dir.docs, b ∈ heldBlocks d) ∧
    f.weakInService = s.integrity.health.countP (fun e => decide (e.2.health = .weak) && serves e.1) ∧
    f.badInService = s.integrity.health.countP (fun e => decide (e.2.health = .bad) && serves e.1)

/-- What each subject's snapshot shows (R26, R27, R98, R104, R144, R182, R203). -/
structure SnapshotsShow (s : State) : Prop where
  department : ∀ d : Dept,
    ((acct s d).configured = true → snapshot s (.department d) =
      .department d true (acct s d).name (acct s d).guarantee (acct s d).cap (acct s d).retention (acct s d).used (acct s d).resv
        ((acct s d).used + (acct s d).resv) ((acct s d).used + (acct s d).resv - (acct s d).guarantee) (acct s d).lastFailure
        (readyQueue s d).length) ∧
    ((acct s d).configured = false → snapshot s (.department d) = .department d false [] 0 0 0 0 0 0 0 none 0)
  line : ∀ n : LineNo, ∃ role rx tx, snapshot s (.line n) =
      .line n (lineAt s n).service (lineAt s n).pendingService (lineAt s n).returnState (lineAt s n).faultCause (lineAt s n).chan role
        (lineAt s n).outbound (lineAt s n).maxStep (lineAt s n).defaultKey rx tx (lineAt s n).stats ∧
    ((lineAt s n).call = none → role = none ∧ rx = none ∧ tx = none) ∧
    (∀ w c, (lineAt s n).call = some ⟨w, .receiver c⟩ → role = some .receiver ∧ tx = none ∧
      rx = some ⟨c.document, c.pages, c.offeredMax, c.step, c.resolution, c.trainFails, c.lastVerdict, c.lastCause⟩) ∧
    ∀ w c, (lineAt s n).call = some ⟨w, .sender c⟩ → role = some .sender ∧ tx = some ⟨c.job, c.step⟩ ∧ rx = none
  journal : snapshot s .journal = .journal ⟨s.journal.ring.getLast?.map Entry.seq, s.journal.nextSeq,
    s.journal.ring.head?.map Entry.seq, s.journal.releasePoint, s.journal.ring.length, s.journal.unreleased,
    decide (8128 ≤ s.journal.unreleased), s.journal.overrun, s.clock.cal, s.clock.trusted, s.clock.run⟩
  store : snapshot s .store = .store (storeFigures s)
  integrity : ∃ f, FiguresShow s f ∧ snapshot s .integrity =
    .integrity s.integrity.records.getLast? s.integrity.nextSerial f
      (s.integrity.health.countP (fun e => decide (e.2.health = .weak ∧ e.1 ∈ s.store.retired)))
      (s.integrity.health.countP (fun e => decide (e.2.health = .bad ∧ e.1 ∈ s.store.retired)))
  forward : ∃ first, snapshot s .forward = .forward s.fwd.suspended s.fwd.jobs.length (s.fwd.jobs.countP (fun j => !j.inCall))
      (s.fwd.jobs.countP (fun j => !j.inCall && decide (j.nextDue ≤ s.clock.run))) (s.fwd.jobs.countP (fun j => j.inCall)) first
      s.fwd.lastEnd ∧
    ((∀ j ∈ s.fwd.jobs, j.inCall = false → j.nextDue ≤ s.clock.run) → first = none) ∧
    ∀ j ∈ s.fwd.jobs, j.inCall = false → s.clock.run < j.nextDue →
      ∃ m, first = some m ∧ m ≤ j.nextDue ∧ ∃ k ∈ s.fwd.jobs, k.inCall = false ∧ k.nextDue = m ∧ s.clock.run < m

/-- The record of a receiving call and its document fit together: the call's line holds its allotment for the document's department, and a
document whose plan is to open at once has a plan that is not empty (R57), no entry yet, nothing due, no place in its ready queue (R39),
and room in the job list. -/
structure RxFits (s : State) (n : LineNo) (c : RxCall) (d : Document) : Prop where
  document : c.document = some d.number
  record : findDoc s d.number = some d
  account : (Machine.allotment s n).dept = some d.dept
  plan : d.plan.hold = false → (d.plan.collect = true ∨ d.plan.dests ≠ []) ∧ d.forwards = [] ∧ d.disposition = .none ∧
    d.number ∉ readyQueue s d.dept ∧ s.fwd.jobs.length + d.plan.dests.length ≤ 256

/-! ## Restart as statements speak of it -/

/-- The lines whose receiving calls a Restart ends (R99), in the order of log entry 29. -/
def receivingLines (s : State) : List LineNo := allLines.filter (fun n => inReceiving (lineAt s n))

/-- The document of a line's receiving call. -/
def callDocument (s : State) (n : LineNo) : Option Document := ((rxOf (lineAt s n)).bind RxCall.document).bind (findDoc s)

/-- The documents of the calls that a Restart ends, in their order. -/
def callDocuments (s : State) : List Document := (receivingLines s).filterMap (callDocument s)

/-- The documents that rejoin their ready queues at Restart (R166): those of the open offers, the oldest first (log entry 29), and that of
the transfer unless it was aborted. -/
def returnedDocs (s : State) : List Nat :=
  s.collect.offers.map (fun o => o.doc) ++
    (match s.collect.transfer with
      | some tr => if tr.ending = some .aborted then [] else [tr.doc]
      | none => [])

/-- The journal once the RECEIPT entries of some documents have been offered to it (R33, R34). -/
def receiptsOf (s : State) (ds : List Document) : Journal :=
  ds.foldl (fun j d => j.offered (receiptFor d .partialRestart) s.clock.cal s.clock.trusted) s.journal

/-- The last group of a landing page, which its end writes (R190): its addresses. -/
def lastGroup (l : Landing) (i : Nat) : Option Nat := if l.held = [] then none else pageAddress l.blocks (l.length - l.held.length + i)

/-- What holds before a Restart of a part that has run by the manual: each receiving call fits its LANDING document, the pages of different
calls share no block, the documents on offer or in transfer are OPEN and in no ready queue, the job list has room, the pressure state is
the one an evaluation gives, and no document that a verification reads has a deadline that has passed. -/
structure RestartFits (s : State) : Prop where
  calls : ∀ n ∈ receivingLines s, ∃ c d, rxOf (lineAt s n) = some c ∧ RxFits s n c d ∧ d.life = .landing ∧ d.line = n ∧
    d.verifying = false ∧ (∀ e : Dept, d.number ∉ readyQueue s e) ∧ ∀ l, d.landing = some l → l.held.length = l.length % 8
  apart : ((callDocuments s).flatMap (fun d => d.landing.elim [] Landing.blocks)).Nodup
  numbers : (s.dir.docs.map (fun d => d.number)).Nodup
  returned : (returnedDocs s).Nodup ∧ ∀ m ∈ returnedDocs s, ∃ d, findDoc s m = some d ∧ d.life = .opened ∧
    ∀ e : Dept, m ∉ readyQueue s e
  room : s.fwd.jobs.length + ((callDocuments s).map (fun d => d.plan.dests.length)).sum ≤ 256
  pressure : s.store.pressure = pressureAfter s.store.pressure s
  memory : MemoryCanonical s
  deadlines : ∀ v ∈ s.dir.verifications, ∀ d, findDoc s v.doc = some d → ∀ x, d.deadline = some x → s.clock.run < x

/-- What a Restart leaves of the store, the directory, the journal, the jobs and the marks (R28, R51, R54, R98, R99, R142, R166), in the order
of log entry 29. -/
structure Restarted (s t : State) : Prop where
  journal : t.journal = receiptsOf s (callDocuments s)
  numbers : t.dir.docs.map (fun d => d.number) = (s.dir.docs.filter (fun d =>
    decide (¬ (d.pages = [] ∧ ∃ x ∈ callDocuments s, x.number = d.number)))).map (fun d => d.number)
  landed : ∀ (front : List Document) (d : Document) (back : List Document), callDocuments s = front ++ d :: back → d.pages ≠ [] →
    let shut := landedAs { s with journal := receiptsOf s front } d .partialRestart
    findDoc t d.number = some (if d.plan.hold then { shut with life := .held } else { shut with
      life := .opened, disposition := if d.plan.collect then .due else .none, forwards := planned d })
  others : ∀ m d, findDoc s m = some d → (∀ x ∈ callDocuments s, x.number ≠ m) → findDoc t m = some { d with
    disposition := if m ∈ returnedDocs s then .due else d.disposition
    verifying := d.verifying && decide (∀ v ∈ s.dir.verifications, v.doc ≠ m) }
  queues : ∀ (e : Dept) (urgent : Bool), (readyQueue t e).filter (fun m => isUrgent t m == urgent) =
    (readyQueue s e).filter (fun m => isUrgent s m == urgent) ++
      ((returnedDocs s ++ ((callDocuments s).filter (fun d => decide (d.pages ≠ []) && !d.plan.hold && d.plan.collect)).map
        (fun d => d.number)).filter (fun m => (findDoc s m).any (fun d => decide (d.dept = e)) && isUrgent s m == urgent))
  accounts : ∀ e : Dept, acct t e = { acct s e with
    used := (acct s e).used - (((callDocuments s).filter (fun d => decide (d.dept = e))).map
      (fun d => d.landing.elim 0 (fun l => l.blocks.length))).sum
    resv := (acct s e).resv - (((receivingLines s).filter (fun n => decide ((allotment s n).dept = some e))).map
      (fun n => (allotment s n).count)).sum }
  allotments : ∀ n : LineNo, allotment t n = if inReceiving (lineAt s n) then ⟨none, 0⟩ else allotment s n
  free : s.store.free <+: t.store.free ∧ t.store.free.length = s.store.free.length +
    ((callDocuments s).map (fun d => d.landing.elim 0 (fun l => l.blocks.length))).sum
  spares : t.store.spares <:+ s.store.spares ∧ s.store.retired <+: t.store.retired ∧
    t.store.spares.length + t.store.retired.length = s.store.spares.length + s.store.retired.length
  pressure : t.store.pressure = pressureAfter s.store.pressure t
  groups : ∀ d ∈ callDocuments s, ∀ l, d.landing = some l → ∀ i a, i < 8 → lastGroup l i = some a → readByte t.mem a = l.held.getD i 0
  bytes : ∀ a, (∀ d ∈ callDocuments s, ∀ l, d.landing = some l → ∀ i, i < 8 → lastGroup l i ≠ some a) →
    readByte t.mem a = readByte s.mem a
  dram : t.dram.draws = s.dram.draws ∧ ∀ f, f ∈ t.dram.faults ↔ f ∈ s.dram.faults ∧ (f.persists = true ∨
    ∀ d ∈ callDocuments s, ∀ l, d.landing = some l → l.held ≠ [] →
      ¬ (l.blocks[(l.length - l.held.length) / 8192]? = some f.block ∧ f.group.val = (l.length - l.held.length) % 8192 / 8))
  jobs : ∃ new : List Job, t.fwd.jobs = s.fwd.jobs.map (fun j => { j with
      inCall := false, nextDue := if j.inCall then s.clock.run else j.nextDue, line := if j.inCall then none else j.line
      interrupted := j.inCall || j.interrupted }) ++ new ∧
    new.map (fun j => (j.document, j.index, j.destination, j.urgent)) =
      ((callDocuments s).filter (fun d => decide (d.pages ≠ []) && !d.plan.hold)).flatMap (fun d =>
        d.plan.dests.zipIdx.map (fun x => (d.number, x.2, x.1, decide (d.priority = .urgent)))) ∧
    (∀ j ∈ new, j.inCall = false ∧ j.attempts = 0 ∧ j.nextDue = s.clock.run ∧ j.interrupted = false ∧ j.line = none) ∧
    t.fwd.runOwed = (s.fwd.runOwed || decide (new ≠ []))
  handed : t.callers.handed = s.callers.handed ++ allLines.flatMap (fun n =>
    if inReceiving (lineAt s n) then ((rxOf (lineAt s n)).bind RxCall.calling).toList.map (fun x => ⟨x, .neutral⟩)
    else if inSending (lineAt s n) then (txOf (lineAt s n)).toList.map (fun u => ⟨u.destination, .neutral⟩)
    else [])
  tally : t.part.tally.map RestartTally.documentsLanded = some ((callDocuments s).countP (fun d => decide (d.pages ≠ [])))
  marks : ∀ x, x ∈ t.link.notices ↔ s.link.classes.enables x = true ∧ (match x with
    | .line n => (lineAt s n).chan = .alerted ∨ inReceiving (lineAt s n) = true ∨ inSending (lineAt s n) = true
    | .department e => (∃ m ∈ returnedDocs s, ∃ d, findDoc s m = some d ∧ d.dept = e) ∨ ∃ d ∈ callDocuments s, d.pages ≠ [] ∧ d.dept = e
    | .store => t.store.pressure ≠ s.store.pressure ∨ t.integrity.exhausted ≠ s.integrity.exhausted
    | .journal => callDocuments s ≠ [] ∧ ((s.journal.unreleased < 8128 ∧ 8128 ≤ s.journal.unreleased + (callDocuments s).length) ∨
        8192 < s.journal.unreleased + (callDocuments s).length)
    | .integrity => t.store.retired ≠ s.store.retired
    | .forward => True)
  frame : t = { s with
    part := t.part, store := t.store, lines := t.lines, mem := t.mem, dram := t.dram, journal := t.journal
    integrity := { s.integrity with exhausted := t.integrity.exhausted }, callers := { s.callers with handed := t.callers.handed }
    dir := { s.dir with docs := t.dir.docs, ready := t.dir.ready, verifications := [] }
    fwd := { s.fwd with jobs := t.fwd.jobs, nextJob := t.fwd.nextJob, suspended := true, handed := [], runOwed := t.fwd.runOwed }
    collect := { s.collect with queue := [], offers := [], transfer := none }
    link := { s.link with intake := [], notices := t.link.notices, holdNotices := true, waiting := t.link.waiting } }

/-- A line takes the events of its front-end (R73, R74, R75), in phase RESTARTING as in phase READY (R99). -/
def Hears (s : State) (n : LineNo) : Prop :=
  (s.part.phase = some .ready ∨ s.part.phase = some .restarting) ∧ (lineAt s n).service ≠ .fault ∧ (lineAt s n).reset = .none

/-- The arbiter has been told how line n stands, with a cause for a run (R122, R123). -/
def ToldRun (s t : State) (n : LineNo) : Prop :=
  t.fwd.view[n] = ⟨(lineAt t n).service == .inService && (lineAt t n).chan == .idle, (lineAt t n).outbound⟩ ∧ OtherViews s t n ∧
    t.fwd.runOwed = true

/-! ## Requests -/

/-- The envelope and kind of a request of R211. -/
def requestOf : Instr → Option (Envelope × ReqKind)
  | .setDepartment r _ _ _ _ _ => some (r, .setDepartment)
  | .removeDepartment r _ => some (r, .removeDepartment)
  | .setRoute r _ _ _ _ _ _ => some (r, .setRoute)
  | .removeRoute r _ => some (r, .removeRoute)
  | .setLine r _ _ _ _ _ => some (r, .setLine)
  | .resetLine r _ => some (r, .resetLine)
  | .readLineStatistics r _ _ => some (r, .readLineStatistics)
  | .setPolicy r _ => some (r, .setPolicy)
  | .readStatus r => some (r, .readStatus)
  | .restart r => some (r, .restart)
  | .setTime r _ _ => some (r, .setTime)
  | .readJournal r _ => some (r, .readJournal)
  | .releaseJournal r _ => some (r, .releaseJournal)
  | .setNotices r _ _ _ _ _ _ => some (r, .setNotices)
  | .readLinkStatistics r _ => some (r, .readLinkStatistics)
  | .releaseHold r _ => some (r, .releaseHold)
  | .discardDocument r _ => some (r, .discardDocument)
  | .verifyDocument r _ => some (r, .verifyDocument)
  | .readDocument r _ _ => some (r, .readDocument)
  | .listDocuments r _ _ _ => some (r, .listDocuments)
  | .collect r _ _ => some (r, .collect)
  | .acceptOffer r _ => some (r, .acceptOffer)
  | .declineOffer r _ => some (r, .declineOffer)
  | .abortTransfer r _ => some (r, .abortTransfer)
  | .confirmCollected r _ => some (r, .confirmCollected)
  | .addForward r _ _ => some (r, .addForward)
  | .cancelForward r _ _ => some (r, .cancelForward)
  | .resumeForwarding r => some (r, .resumeForwarding)
  | .readJobs r _ _ => some (r, .readJobs)
  | .readCallerMemory r _ => some (r, .readCallerMemory)
  | .forgetCaller r _ => some (r, .forgetCaller)
  | .readErrorRecords r _ => some (r, .readErrorRecords)
  | _ => none

/-- A request that reads and clears nothing. -/
def isReading : Instr → Bool
  | .readLineStatistics _ _ clear => !clear
  | .readLinkStatistics _ clear => !clear
  | .readStatus _ => true
  | .readJournal _ _ => true
  | .readDocument _ _ _ => true
  | .listDocuments _ _ _ _ => true
  | .readJobs _ _ _ => true
  | .readCallerMemory _ _ => true
  | .readErrorRecords _ _ => true
  | _ => false

/-- A request that carries arguments and is handed to its owner (R210): its frame is at the head of the intake queue, the link takes it
in phase READY, and its length fits. -/
def Takes (s : State) (r : Envelope) : Prop :=
  s.part.phase = some .ready ∧ s.link.responses.length < intakePlaces ∧ r.fits = true ∧ atHead r.tag s = true ∧ emptyBody s = false

/-- The same of a request that carries no argument, whose body is empty. -/
def TakesBare (s : State) (r : Envelope) : Prop :=
  s.part.phase = some .ready ∧ s.link.responses.length < intakePlaces ∧ atHead r.tag s = true ∧ emptyBody s = true

/-- A request has been taken from the intake queue and answered, with nothing else done. -/
def answered (s : State) (r : Envelope) (k : ReqKind) (st : Status) (c : Content) : State :=
  respond r.tag k st c (takeFrame r.tag s)

/-! ## Starts -/

/-- What every block holds at power-on and after the RESET pin (R7, R14, R21, R29, R54, R55, R68, R69, R71, R96, R104, R116, R122, R144,
R146, R155, R162, R171, R181, R183, R186, R192, R200, R201, R209, R215, R218, R220, R230). The block lists, which store initialization
builds, and what travels between blocks are empty: the model's choice (log entries 1 and 10). -/
structure Emptied (t : State) : Prop where
  clocks : t.clock.run = 0 ∧ t.clock.cal = ⟨0, 0⟩ ∧ t.clock.trusted = false
  policy : t.policy = ⟨16, 4, 60, 3600, 6, 5, 2, 5⟩
  general : acct t 0 = ⟨true, ['G', 'e', 'n', 'e', 'r', 'a', 'l'], 0, 32704, 24, 0, 0, none⟩
  departments : ∀ d : Dept, d ≠ 0 → acct t d = ⟨false, [], 0, 0, 0, 0, 0, none⟩
  allotments : ∀ n : LineNo, allotment t n = ⟨none, 0⟩
  pressure : t.store.pressure = false
  blocks : t.store.free = [] ∧ t.store.spares = [] ∧ t.store.retired = []
  documents : t.dir.docs = [] ∧ t.dir.nextNumber = 1 ∧ t.dir.reclaim = [] ∧ t.dir.verifications = []
  readyQueues : ∀ d : Dept, readyQueue t d = []
  routes : t.routes = []
  lines : ∀ n : LineNo, lineAt t n = ⟨.busyOut, none, none, none, false, 5, none, .idle, none, .none, [], ⟨0, 0, 0, 0, 0, 0, 0, 0, 0⟩⟩
  callers : t.callers = ⟨[], []⟩
  jobs : t.fwd.jobs = [] ∧ t.fwd.suspended = false ∧ t.fwd.nextJob = 1 ∧ t.fwd.lastEnd = none ∧ t.fwd.handed = [] ∧
    t.fwd.runOwed = false
  view : ∀ n : LineNo, t.fwd.view[n] = ⟨false, false⟩
  collection : t.collect = ⟨[], [], none, []⟩
  journal : t.journal = ⟨[], 1, 0, 0, false⟩
  integrity : t.integrity = ⟨[], false, [], 1, 0, 0⟩
  link : t.link = ⟨t.link.rate, t.link.rts, [], 0, [], [], [], ⟨false, false, false, false, false, false⟩, ⟨0, 0, 0, 0⟩, 0, none, none, false⟩

end Sys2Proof.Machine
end

