-- ==== Sys2Proof/Certificates/Slice0/Obligations.lean ====
section
/-! DEFINITION. Certificates/Slice0/Obligations.lean: the statements for the provers. Each docstring names the rules of spec/ its statement
comes from. -/

open Sys2Proof Sys2Proof.Machine

/-! ## The step, and laws of the whole part -/

/-- With a command at the front of the queue, a step is that command's effect on the state with the queue's rest. -/
def Obligations.StepRunsTheFrontCommand : Prop :=
  ∀ (c : Instr) (rest : List Instr) (s : State), s.pending = c :: rest → step s = exec c { s with pending := rest }

/-- MODEL'S CHOICE (log entry 4). With no command waiting and nothing owed, a part that is not held in reset lets one millisecond of run
time pass and does nothing else but what time does: run time rises by one, and at the last of its 64 bits stands (log entry 27); the
calendar clock advances with it until its last value (R183), the DRAM's faults become what they then are, a free value (log entry 3), and a job that
becomes due owes the arbiter a run (R123). With an event owed, the first owed is raised and no time passes. -/
def Obligations.IdleLetsAMillisecondPass : Prop :=
  (∀ (s : State) (e : Instr) (rest : List Instr), s.pending = [] → s.part.phase ≠ none → owed s = e :: rest →
    step s = .next { s with pending := [e] }) ∧
  ∀ s : State, s.pending = [] → s.part.phase ≠ none → owed s = [] →
    ∃ t, step s = .next t ∧ t.clock.trusted = s.clock.trusted ∧
      (s.clock.run < 18446744073709551615 → t.clock.run = s.clock.run + 1) ∧
      (18446744073709551615 ≤ s.clock.run → t.clock.run = s.clock.run) ∧
      (s.clock.cal.sec * 1000 + s.clock.cal.ms + 1 < 4294967295999 →
        t.clock.cal.sec * 1000 + t.clock.cal.ms = s.clock.cal.sec * 1000 + s.clock.cal.ms + 1 ∧ t.clock.cal.ms < 1000) ∧
      (4294967295999 ≤ s.clock.cal.sec * 1000 + s.clock.cal.ms + 1 → t.clock.cal = ⟨4294967295, 999⟩) ∧
      (t.fwd.runOwed = true ↔ s.fwd.runOwed = true ∨ ∃ j ∈ s.fwd.jobs, j.inCall = false ∧ s.clock.run < j.nextDue ∧ j.nextDue ≤ t.clock.run) ∧
      t.dram = ⟨Config.dramUpset s.dram.draws t.clock.run s.dram.faults, s.dram.draws + 1⟩ ∧
      t = { s with clock := t.clock, dram := t.dram, fwd.runOwed := t.fwd.runOwed }

/-- MODEL'S CHOICE (log entry 9, DEDUCED from R75 and R212): every command answers a next state in every state, none stops the part, and
no command's own effect touches the queue of commands that wait. -/
def Obligations.EveryCommandAnswers : Prop := ∀ (c : Instr) (s : State), ∃ t, exec c s = .next t ∧ t.pending = s.pending

/-- Every step keeps the canonical form of the store memory. -/
def Obligations.StepKeepsMemoryCanonical : Prop :=
  ∀ s t : State, MemoryCanonical s → step s = .next t → MemoryCanonical t

/-- R197, R4: every step keeps the spare set and the retired list at 64 blocks together. R1, R7, R8, R9, R14, R43: every step keeps the
store's books: each block in exactly one place, used counts those of the documents, reserved counts those of the allotments, no account
above its cap nor all above the shared pool, and the reclaim list the SETTLED documents. -/
def Obligations.StepKeepsSparesConserved : Prop :=
  (∀ s t : State, SparesConserved s → step s = .next t → SparesConserved t) ∧
  ∀ s t : State, LinesOk s → StoreOk s → step s = .next t → StoreOk t

/-- R146: after every step, each department's ready queue is empty or no request for it waits. -/
def Obligations.StepKeepsCollectMet : Prop :=
  ∀ s t : State, CollectMet s → step s = .next t → CollectMet t

/-- R104, R112: every step keeps the law of the Caller Memory's entries. -/
def Obligations.StepKeepsCallersOk : Prop :=
  ∀ s t : State, CallersOk s → step s = .next t → CallersOk t

/-- R68, R71, R73, R100: every step keeps every line consistent; a line in FAULT is IDLE with no call record. -/
def Obligations.StepKeepsLinesOk : Prop :=
  ∀ s t : State, LinesOk s → step s = .next t → LinesOk t

/-- R29, R49, R55, R116, R146, R173, R200, R209: every step keeps the tables and queues within their places. -/
def Obligations.StepKeepsTablesFit : Prop :=
  ∀ s t : State, TablesFit s → step s = .next t → TablesFit t

/-- R116, R117: every step keeps the job list's law: distinct job numbers in their range, and at most one job IN-CALL for a number. -/
def Obligations.StepKeepsJobsOk : Prop :=
  ∀ s t : State, JobsOk s → step s = .next t → JobsOk t

/-- R171, R172, R173: every step keeps the journal's ring: unreleased entries keep their places, and held numbers are consecutive. -/
def Obligations.StepKeepsJournalOk : Prop :=
  ∀ s t : State, JournalOk s → step s = .next t → JournalOk t

/-- The state right after reset meets the laws that every step keeps. -/
def Obligations.ResetMeetsTheLaws : Prop :=
  MemoryCanonical State.reset ∧ SparesConserved State.reset ∧ CollectMet State.reset ∧ CallersOk State.reset ∧
    LinesOk State.reset ∧ TablesFit State.reset ∧ JobsOk State.reset ∧ JournalOk State.reset ∧ StoreOk State.reset

/-- R55, R183, R186, R190, R217, R228, R232: starts apart, the policy settings change only by Set Policy, the routes only by Set Route and
Remove Route, the notice classes only by Set Notices, the trusted flag only by Set Time (which sets it), the restart count only at a
Restart's end, the store memory only by the events that write landing pages or may end them, and run time only by commands that say
how far it has come, which never turn it back. -/
def Obligations.OnlyTheirCommandsChangeThem : Prop :=
  ∀ (c : Instr) (s t : State), exec c s = .next t → isStart c = false →
    (t.policy ≠ s.policy → ∃ r p, c = .setPolicy r p) ∧
    (t.routes ≠ s.routes → (∃ r key dept hold coll prio dests, c = .setRoute r key dept hold coll prio dests) ∨
      ∃ r key, c = .removeRoute r key) ∧
    (t.link.classes ≠ s.link.classes → ∃ r a b d e f g, c = .setNotices r a b d e f g) ∧
    (t.clock.trusted ≠ s.clock.trusted → (∃ r sec ms, c = .setTime r sec ms) ∧ t.clock.trusted = true) ∧
    (t.part.restarts ≠ s.part.restarts → c = .restartEnd) ∧
    (t.mem ≠ s.mem → endsLandingPages c = true) ∧
    (t.clock.run ≠ s.clock.run → tellsTime c = true ∧ s.clock.run < t.clock.run)

/-! ## Start-up (chapter 11) -/

/-- R222, and the rules of each block for power-on and the RESET pin: leaving reset by POWER_ON or RESET_PIN_RELEASE, from any state,
records the cause, samples the strap, and leaves every block as its chapter says, in phase STARTING. RESET_PIN_ASSERT and POWER_FAILURE,
in any state, POWER_ON under an asserted pin and RESET_PIN_RELEASE without power hold the part in reset: what it held is discarded,
clear-to-send is inactive, and nothing waits to be sent. None of them writes the store memory. MODEL'S CHOICE: that the block lists and
what travels between blocks are empty then (log entries 1 and 10), that the DRAM's bytes stay until initialization writes them (log
entry 2), that the queue of commands stays, and what a power event does under the other's hold (log entry 12). -/
def Obligations.LeavingResetEmptiesThePart : Prop :=
  (∀ (s : State) (high : Bool),
    (s.part.pinAsserted = false →
      ∃ t, exec (.powerOn high) s = .next t ∧ Emptied t ∧ t.part = ⟨true, false, some .starting, .powerOn, 0, none⟩ ∧
        t.link.rate = (if high then .fast else .slow) ∧ t.link.rts = s.link.rts ∧ t.pending = s.pending ∧
        t.mem = s.mem ∧ t.dram = s.dram) ∧
    (s.part.powerGood = true →
      ∃ t, exec (.resetPinRelease high) s = .next t ∧ Emptied t ∧ t.part = ⟨true, false, some .starting, .resetPin, 0, none⟩ ∧
        t.link.rate = (if high then .fast else .slow) ∧ t.link.rts = s.link.rts ∧ t.pending = s.pending ∧
        t.mem = s.mem ∧ t.dram = s.dram)) ∧
  ∀ s : State,
    let held (c : Instr) (power pin : Bool) := ∃ t, exec c s = .next t ∧ Emptied t ∧
      t.part = ⟨power, pin, none, s.part.cause, 0, none⟩ ∧ clearToSend t = false ∧ t.link.rate = s.link.rate ∧
      t.link.rts = s.link.rts ∧ t.pending = s.pending ∧ t.mem = s.mem ∧ t.dram = s.dram
    held .resetPinAssert s.part.powerGood true ∧ held .powerFailure false s.part.pinAsserted ∧
    (∀ high, s.part.pinAsserted = true → held (.powerOn high) true true) ∧
    ∀ high, s.part.powerGood = false → held (.resetPinRelease high) false false

/-- R2, R100, R192, R205, R224: STORE_INITIALIZATION_COMPLETE in phase STARTING builds the free list from blocks 0 to 32,703 and the spare
set from 32,704 to 32,767, makes every block HEALTHY and every byte 0 (log entry 2), leaves of the DRAM's faults those that persist (R205;
log entry 3), makes the phase READY, and each channel sends PRESENT-BUSY; nothing else changes. MODEL'S CHOICE (log entry 10): in any
other phase it does nothing. -/
def Obligations.InitializationOpensTheStore : Prop :=
  ∀ s : State,
    (s.part.phase = some .starting →
      ∃ t, exec .storeInitializationComplete s = .next t ∧ t.part = { s.part with phase := some .ready } ∧
        t.store.free.map Fin.val = List.range 32704 ∧ t.store.spares.map Fin.val = List.range' 32704 64 ∧ t.store.retired = [] ∧
        t.integrity = { s.integrity with health := [] } ∧ t.mem = [] ∧
        t.dram = ⟨s.dram.faults.filter (fun f => f.persists), s.dram.draws⟩ ∧
        (∀ n : LineNo, lineAt t n =
          { lineAt s n with acks := (lineAt s n).acks ++ [⟨.presentBusy, s.clock.run + 500⟩] }) ∧
        t = { s with part := t.part, store := { s.store with free := t.store.free, spares := t.store.spares, retired := [] }
                     integrity := t.integrity, mem := [], dram := t.dram, lines := t.lines }) ∧
    (s.part.phase ≠ some .starting → exec .storeInitializationComplete s = .next s)

/-! ## Taking requests (chapter 10) -/

/-- R143, R210, R212, R225, R233: a frame whose kind names no request is answered UNKNOWN-KIND with the kind received; for every request
of R211, a length that does not fit is answered BAD-LENGTH, and in phase STARTING every request but Read Status is answered NOT-READY.
Such an answer is the request's whole effect. The three requests with no argument (R143, R225, R233) fit with an empty body, and no other
does. MODEL'S CHOICE (log entry 8): the envelope says whether the body of any other fits, and a command stands for the taking of the frame
with its tag at the head of the intake queue; while there is none (or, for UNKNOWN_KIND_REQUEST, none with its kind), or while the link
takes no requests (held in reset, in phase RESTARTING, or with 8 responses waiting), it leaves the state as it is. -/
def Obligations.LinkTestsComeFirst : Prop :=
  (∀ (s : State) (tag : Byte), takesRequests tag s = true ↔
    (s.part.phase = some .starting ∨ s.part.phase = some .ready) ∧ s.link.responses.length < 8 ∧
      ∃ f rest, s.link.intake = f :: rest ∧ f.tag = tag) ∧
  (∀ (s : State) (tag kind : Byte),
    (∀ f rest, takesRequests tag s = true → s.link.intake = f :: rest → f.kind = kind → exec (.unknownKindRequest tag kind) s =
      .next { s with link := { s.link with
        intake := rest, responses := s.link.responses ++ [⟨tag, .unknown kind, .unknownKind, .empty⟩] } }) ∧
    (takesRequests tag s = false ∨ (∀ f rest, s.link.intake = f :: rest → f.kind ≠ kind) →
      exec (.unknownKindRequest tag kind) s = .next s)) ∧
  ∀ (c : Instr) (r : Envelope) (k : ReqKind) (s : State), requestOf c = some (r, k) →
    (takesRequests r.tag s = false → exec c s = .next s) ∧
    (∀ f rest, s.link.intake = f :: rest → (lengthFits r k s = true ↔
      if k = .readStatus ∨ k = .restart ∨ k = .resumeForwarding then f.body = [] else r.fits = true ∧ f.body ≠ [])) ∧
    (takesRequests r.tag s = true → lengthFits r k s = false → exec c s = .next (answered s r k .badLength .empty)) ∧
    (takesRequests r.tag s = true → lengthFits r k s = true → s.part.phase = some .starting → k ≠ .readStatus →
      exec c s = .next (answered s r k .notReady .empty))

/-- R26, R97, R178, R202, R52, R53, R113, R145, R218, R234: a request that reads, and clears nothing, is answered and changes nothing but
the intake queue. -/
def Obligations.ReadsChangeNothing : Prop :=
  ∀ (c : Instr) (r : Envelope) (k : ReqKind) (s : State), isReading c = true → requestOf c = some (r, k) →
    takesRequests r.tag s = true → ∃ st content, exec c s = .next (answered s r k st content)

/-! ## Requests that read -/

/-- R233, R26: Read Status in STARTING and READY, with every figure taken from the one state; in STARTING the store figures read zero. -/
def Obligations.ReadStatusReportsTheFigures : Prop :=
  ∀ (s : State) (r : Envelope) (ph : Phase), s.part.phase = some ph → ph ≠ .restarting → s.link.responses.length < 8 →
    atHead r.tag s = true → emptyBody s = true → ∃ f : StatusReport, exec (.readStatus r) s = .next (answered s r .readStatus .done (.status f)) ∧
      f.phase = ph ∧ f.cause = s.part.cause ∧ f.restarts = s.part.restarts ∧ f.run = s.clock.run ∧ f.cal = s.clock.cal ∧
      f.trusted = s.clock.trusted ∧ f.forwardingSuspended = s.fwd.suspended ∧
      f.answeringSuspended = decide (8128 ≤ s.journal.unreleased) ∧
      f.recordsInUse = s.dir.docs.length ∧ f.unreleased = s.journal.unreleased ∧ f.overrun = s.journal.overrun ∧
      f.lines = (List.finRange 16).map (fun n => ⟨(lineAt s n).service, (lineAt s n).pendingService, (lineAt s n).chan⟩) ∧
      (ph = .starting → f.store = ⟨0, 0, 0, 0, 0, 0, false, 0, 0, 0, false⟩) ∧
      (ph = .ready →
        f.store.freeBlocks = s.store.free.length ∧
        f.store.used = ((List.finRange 32).map (fun d => (acct s d).used)).sum ∧
        f.store.reserved = ((List.finRange 32).map (fun d => (acct s d).resv)).sum ∧
        f.store.sharedPool = 32704 - ((List.finRange 32).map (fun d => if (acct s d).configured then (acct s d).guarantee else 0)).sum ∧
        f.store.sharedCommitted = ((List.finRange 32).map (fun d => (acct s d).used + (acct s d).resv - (acct s d).guarantee)).sum ∧
        f.store.pEnter = f.store.sharedPool * 7 / 8 ∧ f.store.pLeave = f.store.sharedPool * 3 / 4 ∧
        f.store.pressure = s.store.pressure ∧ f.store.sparesLeft = s.store.spares.length ∧
        f.store.retiredCount = s.store.retired.length ∧ f.store.sparesExhausted = s.integrity.exhausted)

/-- R97: Read Line Statistics answers the nine counters as they stand and, with the clear flag, zeroes them in the same event; a line
number above 15 is refused. Nothing else changes. -/
def Obligations.ReadLineStatisticsAnswers : Prop :=
  ∀ (s : State) (r : Envelope) (line : Nat) (clear : Bool), Takes s r →
    (15 < line → exec (.readLineStatistics r line clear) s = .next (answered s r .readLineStatistics .badArgument .empty)) ∧
    ∀ n : LineNo, n.val = line → ∃ t, exec (.readLineStatistics r line clear) s = .next t ∧
      t = { answered s r .readLineStatistics .done (.lineStats (lineAt s n).stats) with lines := t.lines } ∧
      OtherLines s t n ∧
      lineAt t n = { lineAt s n with stats := if clear then ⟨0, 0, 0, 0, 0, 0, 0, 0, 0⟩ else (lineAt s n).stats }

/-- R52, R53: Read Document and List Documents. The pages returned are the records from the first page on, up to 8; the numbers returned
are, ascending, up to 64 of the department's documents that pass the filter from the starting number on, with the flag for more. R213: the
first page is brought into its range, and the response echoes it. -/
def Obligations.DirectoryReadsAnswer : Prop :=
  (∀ (s : State) (r : Envelope) (doc firstPage : Nat), Takes s r →
    (findDoc s doc = none → exec (.readDocument r doc firstPage) s = .next (answered s r .readDocument .noSuch .empty)) ∧
    ∀ d, findDoc s doc = some d → ∃ pages : List Page,
      exec (.readDocument r doc firstPage) s =
        .next (answered s r .readDocument .done (.document d.toDocFields d.pages.length (max 1 (min firstPage 500)) pages)) ∧
      ∀ i, pages[i]? = if i < 8 then d.pages[max 1 (min firstPage 500) - 1 + i]? else none) ∧
  ∀ (s : State) (r : Envelope) (dept : Nat) (filter : Option LifeFilter) (start : Nat), Takes s r →
    (31 < dept ∨ filter = none →
      exec (.listDocuments r dept filter start) s = .next (answered s r .listDocuments .badArgument .empty)) ∧
    ∀ (d : Dept) (f : LifeFilter), d.val = dept → filter = some f →
      ((acct s d).configured = false →
        exec (.listDocuments r dept filter start) s = .next (answered s r .listDocuments .noSuch .empty)) ∧
      ((acct s d).configured = true → ∃ all : List Nat,
        exec (.listDocuments r dept filter start) s =
          .next (answered s r .listDocuments .done (.documents (all.take 64) (decide (64 < all.length)))) ∧
        all.Pairwise (· ≤ ·) ∧
        all.Perm ((s.dir.docs.filter (fun x => decide (x.dept = d) && decide (start ≤ x.number) && passes f x.life)).map
          (fun x => x.number)))

/-- R145, R113, R202: Read Jobs, Read Caller Memory and Read Error Records, with the integrity counts in full. R213: the starting job number
and the starting index are brought into their ranges, and the responses echo them. MODEL'S CHOICE (log entry 36): with no record held the
serial of the oldest is absent. -/
def Obligations.TableReadsAnswer : Prop :=
  (∀ (s : State) (r : Envelope) (doc start : Nat), Takes s r →
    (doc ≠ 0 → findDoc s doc = none → exec (.readJobs r doc start) s = .next (answered s r .readJobs .noSuch .empty)) ∧
    (doc = 0 ∨ findDoc s doc ≠ none → ∃ all : List Job,
      exec (.readJobs r doc start) s = .next (answered s r .readJobs .done
        (.jobs s.fwd.jobs.length s.fwd.suspended (max 1 (min start 65535)) (all.take 16) (decide (16 < all.length)))) ∧
      all.Pairwise (fun a b => a.number ≤ b.number) ∧
      all.Perm (s.fwd.jobs.filter (fun j => decide (max 1 (min start 65535) ≤ j.number) &&
        (decide (doc = 0) || decide (j.document = doc)))))) ∧
  (∀ (s : State) (r : Envelope) (index : Nat), Takes s r → ∃ entries : List CallerEntry,
    exec (.readCallerMemory r index) s = .next (answered s r .readCallerMemory .done
      (.callers s.callers.table.length s.policy.failLimit (min index 512) entries)) ∧
    ∀ i, entries[i]? = if i < 32 then s.callers.table[min index 512 + i]? else none) ∧
  ∀ (s : State) (r : Envelope) (n : Nat), Takes s r →
    ∃ (records : List ErrorRecord) (overwritten : Bool) (figures : IntegrityFigures), FiguresShow s figures ∧
    exec (.readErrorRecords r n) s = .next (answered s r .readErrorRecords .done
      (.errors s.integrity.records.length (s.integrity.records.head?.map ErrorRecord.serial) s.integrity.nextSerial
        figures records overwritten)) ∧
    (n = 0 → records = s.integrity.records ∧ overwritten = false) ∧
    (∀ pre x post, n ≠ 0 → s.integrity.records = pre ++ x :: post → x.serial = n → (∀ y ∈ pre, y.serial ≠ n) →
      records = x :: post ∧ overwritten = false) ∧
    ((∀ y ∈ s.integrity.records, y.serial ≠ n) → n ≠ 0 →
      (n = s.integrity.nextSerial → records = [] ∧ overwritten = false) ∧
      (n ≠ s.integrity.nextSerial → records = s.integrity.records ∧ overwritten = true))

/-- R178: Read Journal. With d the steps forward from the oldest held entry to n: an entry held is returned with those after it, up to 12;
a number not yet written is answered with no entries; any other has been overwritten. The figures stand in every answer. MODEL'S CHOICE
(log entry 31): but for the refusal of n = 0, and with no entry returned they say that none follows; with no entry held the oldest is
absent (log entry 36). -/
def Obligations.ReadJournalAnswers : Prop :=
  ∀ (s : State) (r : Envelope) (seq : BitVec 32), Takes s r →
    let figures (more : Bool) : JournalFigures :=
      ⟨s.journal.ring.getLast?.map Entry.seq, s.journal.ring.head?.map Entry.seq, s.journal.releasePoint, s.journal.unreleased,
        s.journal.overrun, more⟩
    (seq = 0 → exec (.readJournal r seq) s = .next (answered s r .readJournal .badArgument .empty)) ∧
    (seq ≠ 0 → s.journal.ring = [] →
      exec (.readJournal r seq) s = .next (answered s r .readJournal .done (.journal [] (figures false)))) ∧
    ∀ oldest newest, seq ≠ 0 → s.journal.ring.head? = some oldest → s.journal.ring.getLast? = some newest →
      1 ≤ oldest.seq → 1 ≤ newest.seq →
      let d := if oldest.seq ≤ seq.toNat then seq.toNat - oldest.seq else seq.toNat + 4294967295 - oldest.seq
      let beyond := if newest.seq ≤ seq.toNat then seq.toNat - newest.seq else seq.toNat + 4294967295 - newest.seq
      (d < s.journal.ring.length → ∃ (entries : List Entry),
        exec (.readJournal r seq) s = .next (answered s r .readJournal .done
          (.journal entries (figures (decide (d + 12 < s.journal.ring.length))))) ∧
        ∀ i, entries[i]? = if i < 12 then s.journal.ring[d + i]? else none) ∧
      (s.journal.ring.length ≤ d → beyond ≤ 2147483648 →
        exec (.readJournal r seq) s = .next (answered s r .readJournal .done (.journal [] (figures false)))) ∧
      (s.journal.ring.length ≤ d → 2147483648 < beyond →
        exec (.readJournal r seq) s = .next (answered s r .readJournal .noSuch (.journal [] (figures false))))

/-! ## Departments and routes -/

/-- R23, R24, R213: Set Department: the tests in their order on the clamped values, and what an accepted one leaves. S is 32,704 less the
guarantees of the configured departments. -/
def Obligations.SetDepartmentFollowsItsTests : Prop :=
  ∀ (s : State) (r : Envelope) (dept : Nat) (name : Text) (guarantee cap retention : Nat), Takes s r →
    let c := Instr.setDepartment r dept name guarantee cap retention
    (31 < dept ∨ isName name = false → exec c s = .next (answered s r .setDepartment .badArgument .empty)) ∧
    ∀ d : Dept, d.val = dept → isName name = true →
      let a := acct s d
      let G := min guarantee 31680
      let C := max G (min cap 32704)
      let others := ((List.finRange 32).map (fun e => if e ≠ d ∧ (acct s e).configured = true then (acct s e).guarantee else 0)).sum
      let S : Int := 32704 - guarantees s
      let delta : Int := G - a.guarantee
      let borrow : Int := max 0 ((a.used : Int) + a.resv - a.guarantee)
      let raisedTooFar := a.guarantee < G ∧ S - delta < (sharedCommitted s : Int) - min delta borrow
      (31680 < others + G → exec c s = .next (answered s r .setDepartment .limit .empty)) ∧
      (others + G ≤ 31680 → C < a.used + a.resv → exec c s = .next (answered s r .setDepartment .inUse .empty)) ∧
      (others + G ≤ 31680 → a.used + a.resv ≤ C → raisedTooFar → exec c s = .next (answered s r .setDepartment .limit .empty)) ∧
      (others + G ≤ 31680 → a.used + a.resv ≤ C → ¬ raisedTooFar → ∃ t, exec c s = .next t ∧
        acct t d = ⟨true, name, G, C, min retention 168, if a.configured then a.used else 0, if a.configured then a.resv else 0,
          if a.configured then a.lastFailure else none⟩ ∧
        (∀ e : Dept, e ≠ d → acct t e = acct s e) ∧
        t.store.pressure = pressureAfter s.store.pressure t ∧
        Responded s t r .setDepartment .done (.department G C (min retention 168) (sharedPool t)) ∧
        Marked s t (fun x => x = .department d ∨
          x = .store ∧ (sharedPool t ≠ sharedPool s ∨ t.store.pressure ≠ s.store.pressure)) ∧
        t = { s with
          store.accounts := t.store.accounts, store.pressure := t.store.pressure
          link.intake := t.link.intake, link.responses := t.link.responses, link.notices := t.link.notices })

/-- R25: Remove Department: the tests in their order, and what an accepted one leaves. -/
def Obligations.RemoveDepartmentFollowsItsTests : Prop :=
  ∀ (s : State) (r : Envelope) (dept : Nat), Takes s r →
    (31 < dept ∨ dept = 0 → exec (.removeDepartment r dept) s = .next (answered s r .removeDepartment .badArgument .empty)) ∧
    ∀ d : Dept, d.val = dept → d ≠ 0 →
      let used := 0 < (acct s d).used + (acct s d).resv ∨ (∃ e ∈ s.routes, e.dept = d) ∨ (∃ x ∈ s.dir.docs, x.dept = d) ∨
        ∃ w ∈ s.collect.queue, w.dept = d
      ((acct s d).configured = false →
        exec (.removeDepartment r dept) s = .next (answered s r .removeDepartment .noSuch .empty)) ∧
      ((acct s d).configured = true → used →
        exec (.removeDepartment r dept) s = .next (answered s r .removeDepartment .inUse .empty)) ∧
      ((acct s d).configured = true → ¬ used → ∃ t, exec (.removeDepartment r dept) s = .next t ∧
        acct t d = ⟨false, [], 0, 0, 0, 0, 0, none⟩ ∧
        (∀ e : Dept, e ≠ d → acct t e = acct s e) ∧
        t.store.pressure = pressureAfter s.store.pressure t ∧
        Responded s t r .removeDepartment .done .empty ∧
        Marked s t (fun x => x = .department d ∨
          x = .store ∧ (sharedPool t ≠ sharedPool s ∨ t.store.pressure ≠ s.store.pressure)) ∧
        t = { s with
          store.accounts := t.store.accounts, store.pressure := t.store.pressure
          link.intake := t.link.intake, link.responses := t.link.responses, link.notices := t.link.notices })

/-- R56, R57, R58, R59: Set Route and Remove Route: the tests in their order; an accepted Set Route makes its entry the one of its key, and
an accepted Remove Route leaves its key with none; the entries of all other keys stand. -/
def Obligations.RoutesFollowTheirRequests : Prop :=
  (∀ (s : State) (r : Envelope) (key : Text) (dept : Nat) (hold coll : Option Bool) (prio : Option Priority) (dests : List Text),
    Takes s r →
    let c := Instr.setRoute r key dept hold coll prio dests
    let formed := (2 ≤ key.length ∧ key.length ≤ 6 ∧ allDigits key = true) ∧ dept < 32 ∧ dests.length ≤ 4 ∧
      (∀ x ∈ dests, 1 ≤ x.length ∧ x.length ≤ 24 ∧ allDigits x = true) ∧ dests.Nodup
    (¬ formed ∨ hold = none ∨ coll = none ∨ prio = none ∨ (coll = some false ∧ dests = []) →
      exec c s = .next (answered s r .setRoute .badArgument .empty)) ∧
    ∀ (d : Dept) (h k : Bool) (p : Priority), d.val = dept → formed → hold = some h → coll = some k → prio = some p →
      (k = true ∨ dests ≠ []) →
      ((acct s d).configured = false → exec c s = .next (answered s r .setRoute .noSuch .empty)) ∧
      ((acct s d).configured = true → findRoute s.routes key = none → 256 ≤ s.routes.length →
        exec c s = .next (answered s r .setRoute .tableFull .empty)) ∧
      ((acct s d).configured = true → findRoute s.routes key ≠ none ∨ s.routes.length < 256 → ∃ t, exec c s = .next t ∧
        findRoute t.routes key = some ⟨key, d, ⟨h, k, dests⟩, p⟩ ∧
        (∀ other, other ≠ key → findRoute t.routes other = findRoute s.routes other) ∧
        t.routes.length = (if findRoute s.routes key = none then s.routes.length + 1 else s.routes.length) ∧
        Responded s t r .setRoute .done
          (.route ⟨key, d, ⟨h, k, dests⟩, p⟩ (decide (findRoute s.routes key ≠ none)) t.routes.length) ∧
        t = { s with routes := t.routes, link.intake := t.link.intake, link.responses := t.link.responses })) ∧
  ∀ (s : State) (r : Envelope) (key : Text), Takes s r →
    (isKey key = false → exec (.removeRoute r key) s = .next (answered s r .removeRoute .badArgument .empty)) ∧
    (isKey key = true → findRoute s.routes key = none →
      exec (.removeRoute r key) s = .next (answered s r .removeRoute .noSuch .empty)) ∧
    ∀ e, isKey key = true → findRoute s.routes key = some e → ∃ t, exec (.removeRoute r key) s = .next t ∧
      findRoute t.routes key = none ∧ (∀ other, other ≠ key → findRoute t.routes other = findRoute s.routes other) ∧
      Responded s t r .removeRoute .done (.routeRemoved e.dept t.routes.length) ∧
      t = { s with routes := t.routes, link.intake := t.link.intake, link.responses := t.link.responses }

/-- R62, R63: the lookup takes the entry of the longest key that the called string ends in, and the default route when no key matches. -/
def Obligations.LookupTakesTheLongestKey : Prop :=
  ∀ (table : List RouteEntry) (called : Text), (table.map RouteEntry.key).Nodup →
    let fits (e : RouteEntry) := ∃ front, called = front ++ e.key
    ((∀ e ∈ table, ¬ fits e) → lookupRoute table called = ⟨0, none, ⟨false, true, []⟩, .normal⟩) ∧
    ∀ e ∈ table, fits e → (∀ f ∈ table, fits f → f.key.length ≤ e.key.length) →
      lookupRoute table called = ⟨e.dept, some e.key, e.plan, e.priority⟩

/-! ## Lines, policy and the clock -/

/-- R67, R69, R70: Set Line: the refusals; an accepted one applies the settings at once, and its service request at once on an IDLE channel or
as the pending state on any other. A change of permission or service state is told to the arbiter (R122, R123), and of service state
marks LINE n (R68). -/
def Obligations.SetLineFollowsItsRequest : Prop :=
  ∀ (s : State) (r : Envelope) (line : Nat) (service : Option ServiceRequest) (outbound : Option Bool) (maxStep : Nat)
    (key : Option Text), Takes s r →
    let c := Instr.setLine r line service outbound maxStep key
    (15 < line ∨ service = none ∨ outbound = none ∨ (∃ k, key = some k ∧ isKey k = false) →
      exec c s = .next (answered s r .setLine .badArgument .empty)) ∧
    ∀ (n : LineNo) (sv : ServiceRequest) (out : Bool), n.val = line → service = some sv → outbound = some out →
      (∀ k, key = some k → isKey k = true) →
      let l := lineAt s n
      let base : Line := { l with outbound := out, maxStep := min maxStep 5, defaultKey := key }
      (l.service = .fault → sv ≠ .keep → exec c s = .next (answered s r .setLine .wrongState .empty)) ∧
      (l.service ≠ .fault ∨ sv = .keep → ∃ t, exec c s = .next t ∧ OtherLines s t n ∧ OtherViews s t n ∧
        (sv = .keep → lineAt t n = base) ∧
        (∀ want present, (sv = .busyOut ∧ want = Service.busyOut ∧ present = PortCommand.presentBusy) ∨
            (sv = .inService ∧ want = .inService ∧ present = .presentIdle) →
          (l.chan = .idle → want = l.service → lineAt t n = base) ∧
          (l.chan = .idle → want ≠ l.service →
            lineAt t n = ({ base with service := want, pendingService := none }).sends s.clock.run present) ∧
          (l.chan ≠ .idle → lineAt t n = { base with pendingService := if want = l.service then none else some want })) ∧
        ((lineAt t n).outbound ≠ l.outbound ∨ (lineAt t n).service ≠ l.service →
          t.fwd.view[n] = ⟨(lineAt t n).service == .inService && l.chan == .idle, out⟩ ∧ t.fwd.runOwed = true) ∧
        ((lineAt t n).outbound = l.outbound → (lineAt t n).service = l.service → t.fwd = s.fwd) ∧
        Marked s t (fun x => x = .line n ∧ (lineAt t n).service ≠ l.service) ∧
        Responded s t r .setLine .done
          (.line out (min maxStep 5) key (lineAt t n).service (lineAt t n).pendingService) ∧
        t = { s with
          lines := t.lines, fwd.view := t.fwd.view, fwd.runOwed := t.fwd.runOwed
          link.intake := t.link.intake, link.responses := t.link.responses, link.notices := t.link.notices })

/-- R230, R231, R112, R79: Set Policy: a mark that is neither yes nor no refuses the whole; each marked setting takes its value brought into
its range and the others stay; a lowered fail limit clamps every count below it; a marked inbound reserve owes the arbiter a run; and
marked answer rings admit each ALERTED call that has closed digits and as many rings, by the admission of InboundCallsAreAdmitted.
MODEL'S CHOICE: the lines in ascending number (log entry 30), and a marked setting counts as changed (log entry 33). -/
def Obligations.SetPolicyAppliesMarkedSettings : Prop :=
  ∀ (s : State) (r : Envelope) (p : PolicyRequest), Takes s r →
    let fields := [p.landingAllotment, p.inboundReserve, p.retryBase, p.retryCeiling, p.attemptLimit, p.failLimit, p.answerRings,
      p.offerWindow]
    let set (f : PolicyField) (lo hi old : Nat) : Nat := if f.change = some true then max lo (min f.value hi) else old
    let new : Policy := ⟨set p.landingAllotment 8 64 s.policy.landingAllotment, set p.inboundReserve 0 15 s.policy.inboundReserve,
      set p.retryBase 30 600 s.policy.retryBase, set p.retryCeiling 300 7200 s.policy.retryCeiling,
      set p.attemptLimit 1 15 s.policy.attemptLimit, set p.failLimit 2 9 s.policy.failLimit,
      set p.answerRings 1 9 s.policy.answerRings, set p.offerWindow 2 30 s.policy.offerWindow⟩
    let due (n : LineNo) := ∃ x, (lineAt s n).chan = .alerted ∧ rxOf (lineAt s n) = some x ∧ x.closed = true ∧ new.answerRings ≤ x.rings
    ((∃ f ∈ fields, f.change = none) → exec (.setPolicy r p) s = .next (answered s r .setPolicy .badArgument .empty)) ∧
    ((∀ f ∈ fields, f.change ≠ none) → ∃ marks : PolicyMarks,
      [marks.landingAllotment, marks.inboundReserve, marks.retryBase, marks.retryCeiling, marks.attemptLimit, marks.failLimit,
        marks.answerRings, marks.offerWindow] = fields.map (fun f => decide (f.change = some true)) ∧
      let table := if new.failLimit < s.policy.failLimit
        then s.callers.table.map (fun e => { e with fails := min e.fails (new.failLimit - 1) }) else s.callers.table
      let u := { s with
        policy := new, callers := { s.callers with table := table }
        fwd := { s.fwd with runOwed := s.fwd.runOwed || decide (p.inboundReserve.change = some true) }
        link := { s.link with intake := afterTaking r.tag s.link.intake } }
      let answer (t : State) := { t with link := { t.link with
        responses := t.link.responses ++ [⟨r.tag, .setPolicy, .done, .policy new marks⟩] } }
      ((p.answerRings.change = some false ∨ ∀ n, ¬ due n) → exec (.setPolicy r p) s = .next (answer u)) ∧
      ∀ lines : List LineNo, p.answerRings.change = some true → lines.Pairwise (· < ·) → (∀ n, n ∈ lines ↔ due n) →
        exec (.setPolicy r p) s = .next (answer (lines.foldl (fun t n => admission n t) u)))

/-- R183, R184, R174: Set Time: refused at high water with nothing changed; else the clock takes the time and is trusted, and a CLOCK entry
with the old time is written, stamped with the new one. R183 has the calendar clock stop at its last value. MODEL'S CHOICE: the command
CALENDAR_CLOCK_LIMIT says that it has come there, so the command itself brings the calendar clock and run time forward, by as many
milliseconds as the calendar clock lacked (log entry 5, DESIGN CHOICE), run time up to the last of its own 64 bits (log entry 27). On
the way the faults that stand in the DRAM may change, freely (log entry 3), and a job may become due, which owes the arbiter a run. -/
def Obligations.SetTimeAndTheClocksLimit : Prop :=
  (∀ (s : State) (r : Envelope) (sec : BitVec 32) (ms : Nat), Takes s r →
    (8128 ≤ s.journal.unreleased → exec (.setTime r sec ms) s = .next (answered s r .setTime .journalFull .empty)) ∧
    (s.journal.unreleased < 8128 → ∃ t, exec (.setTime r sec ms) s = .next t ∧
      let new : CalTime := ⟨sec.toNat, min ms 999⟩
      t.clock = ⟨s.clock.run, new, true⟩ ∧
      t.journal = s.journal.written (.clock s.clock.cal s.clock.trusted new) new true ∧
      Responded s t r .setTime .done (.timeSet new s.clock.cal s.clock.trusted (some s.journal.nextSeq)) ∧
      Marked s t (fun x => x = .journal) ∧
      t = { s with
        clock := t.clock, journal := t.journal
        link.intake := t.link.intake, link.responses := t.link.responses, link.notices := t.link.notices })) ∧
  ∀ s : State, s.part.phase ≠ none → ∃ t, exec .calendarClockLimit s = .next t ∧
    t.clock.cal = ⟨4294967295, 999⟩ ∧ t.clock.trusted = s.clock.trusted ∧
    t.clock.run = max s.clock.run (min (s.clock.run + (4294967295999 - (s.clock.cal.sec * 1000 + s.clock.cal.ms))) 18446744073709551615) ∧
    t = { s with clock := t.clock, dram := t.dram, fwd.runOwed := t.fwd.runOwed }

/-! ## The journal -/

/-- R176, R177, R180, R181: Release Journal, with d the steps forward from the release point to n. -/
def Obligations.ReleaseJournalMovesThePoint : Prop :=
  ∀ (s : State) (r : Envelope) (seq : BitVec 32), Takes s r → s.journal.releasePoint ≤ 4294967295 →
    ∃ t, exec (.releaseJournal r seq) s = .next t ∧
    let n := seq.toNat
    let d := forward s.journal.releasePoint n
    let u := s.journal.unreleased
    let released := u - t.journal.unreleased
    let left := 8128 ≤ u ∧ t.journal.unreleased < 8128
    let cleared := s.journal.overrun = true ∧ t.journal.overrun = false
    (n = 0 ∨ 2147483647 < d ∨ u = 0 ∨ d = 0 → t.journal = s.journal) ∧
    (n ≠ 0 → 0 < d → d ≤ u → d ≤ 2147483647 →
      t.journal = { s.journal with releasePoint := n, unreleased := u - d, overrun := false }) ∧
    (∀ newest, n ≠ 0 → u < d → d ≤ 2147483647 → 0 < u → s.journal.ring.getLast? = some newest →
      t.journal = { s.journal with releasePoint := newest.seq, unreleased := 0, overrun := false }) ∧
    (t.fwd.runOwed = true ↔ s.fwd.runOwed = true ∨ left) ∧
    Marked s t (fun x => x = .journal ∧ (left ∨ cleared)) ∧
    (∃ l c : Bool, (l = true ↔ left) ∧ (c = true ↔ cleared) ∧
      Responded s t r .releaseJournal .done
        (.journalReleased t.journal.releasePoint released t.journal.unreleased l c)) ∧
    t = { s with
      journal := t.journal, fwd.runOwed := t.fwd.runOwed
      link.intake := t.link.intake, link.responses := t.link.responses, link.notices := t.link.notices }

/-- R168, R172, R173, R179, R181: a spontaneous append is written in its place, over the oldest held entry when the ring is full, or is
dropped with the overrun indicator set when every place holds an unreleased entry. Reaching high water, and every drop, marks JOURNAL.
MODEL'S CHOICE: it is so in phase STARTING too, where no block asks for an entry (log entry 32). -/
def Obligations.AppendsTakeTheirPlace : Prop :=
  ∀ (s : State) (content : JournalContent), s.part.phase ≠ none → isSpontaneous content = true →
    ∃ t, exec (.spontaneousAppend content) s = .next t ∧
      (s.journal.unreleased < 8192 → t.journal = s.journal.written content s.clock.cal s.clock.trusted ∧
        Marked s t (fun x => x = .journal ∧ s.journal.unreleased = 8127)) ∧
      (8192 ≤ s.journal.unreleased → t.journal = { s.journal with overrun := true } ∧ Marked s t (fun x => x = .journal)) ∧
      t = { s with journal := t.journal, link.notices := t.link.notices }

/-! ## The message link -/

/-- R217, R218: Set Notices and Read Link Statistics. A value that is not one of the three refuses the whole; an accepted Set Notices
enables and disables the classes asked for and drops the listed subjects of each class it disables. The statistics are read, and with
the clear flag zeroed, in one event. -/
def Obligations.SetNoticesAndLinkStatistics : Prop :=
  (∀ (s : State) (r : Envelope) (line dept store journal integrity forward : Option Enable), Takes s r →
    let c := Instr.setNotices r line dept store journal integrity forward
    (line = none ∨ dept = none ∨ store = none ∨ journal = none ∨ integrity = none ∨ forward = none →
      exec c s = .next (answered s r .setNotices .badArgument .empty)) ∧
    ∀ l d st j i f : Enable, line = some l → dept = some d → store = some st → journal = some j → integrity = some i →
      forward = some f → ∃ t, exec c s = .next t ∧
        let on (e : Enable) (was : Bool) : Bool := e == .enable || (e == .keep && was)
        let old := s.link.classes
        let drops (x : Subject) : Bool := match x with
          | .line _ => l == .disable
          | .department _ => d == .disable
          | .store => st == .disable
          | .journal => j == .disable
          | .integrity => i == .disable
          | .forward => f == .disable
        t.link.classes = ⟨on l old.line, on d old.department, on st old.store, on j old.journal, on i old.integrity,
          on f old.forward⟩ ∧
        t.link.notices = s.link.notices.filter (fun x => !drops x) ∧
        Responded s t r .setNotices .done (.notices t.link.classes (s.link.notices.length - t.link.notices.length)) ∧
        t = { s with link := { s.link with
          classes := t.link.classes, notices := t.link.notices, intake := t.link.intake, responses := t.link.responses } }) ∧
  ∀ (s : State) (r : Envelope) (clear : Bool), Takes s r →
    exec (.readLinkStatistics r clear) s = .next
      { answered s r .readLinkStatistics .done (.linkStats s.link.stats s.link.rate s.link.sendCount) with
        link.stats := if clear then ⟨0, 0, 0, 0⟩ else s.link.stats }

/-- R207, R208, R209, R218, R219: what the receiver makes of the bytes it has, in every phase. A whole frame is counted and joins the
intake queue, or is lost as an overrun when 8 wait or the phase is RESTARTING; the first part of a frame waits; a length above 1,100 and a
check that fails are counted and the hunt goes on; a gap of more than 20 ms or a byte without a stop bit abandons a frame after its mark,
and counts a check error. MODEL'S CHOICE (log entries 5 and 15): BYTE_GAP_TIMEOUT brings run time past the gap, or to its last value (log
entry 27); with fewer than two bytes held, which are no mark, a gap keeps a lone 0xC3 and a byte without a stop bit drops it. -/
def Obligations.FramesJoinTheIntakeQueue : Prop :=
  ∀ s : State,
    let abandoned (u : State) := { u with link := { u.link with
      rx := [], stats := { u.link.stats with checkErrors := min 65535 (u.link.stats.checkErrors + 1) } } }
    let gap := 2 ≤ s.link.rx.length ∧ s.link.rxTime + 20 < s.clock.run
    (∀ bytes, s.part.phase = none ∨ bytes = [] → exec (.frameReceived bytes) s = .next s) ∧
    (∀ bytes, s.part.phase ≠ none → bytes ≠ [] → gap → exec (.frameReceived bytes) s = exec (.frameReceived bytes) (abandoned s)) ∧
    (s.part.phase ≠ none → ¬ gap →
    (∀ (bytes : List Byte) (f : Frame), bytes ≠ [] → f.body.length ≤ 1100 → s.link.rx ++ bytes = frameBytes f → ∃ t,
      exec (.frameReceived bytes) s = .next t ∧ t.link.rx = [] ∧ t.link.stats.frames = min 65535 (s.link.stats.frames + 1) ∧
      (s.part.phase ≠ some .restarting → s.link.intake.length < 8 →
        t.link.intake = s.link.intake ++ [f] ∧ t.link.stats.overruns = s.link.stats.overruns) ∧
      (s.part.phase = some .restarting ∨ 8 ≤ s.link.intake.length →
        t.link.intake = s.link.intake ∧ t.link.stats.overruns = min 65535 (s.link.stats.overruns + 1)) ∧
      t.part.tally = (if s.part.phase = some .restarting
        then s.part.tally.map (fun x => { x with framesDiscarded := x.framesDiscarded + 1 }) else s.part.tally) ∧
      t = { s with
        part := { s.part with tally := t.part.tally }
        link := { s.link with
          rx := [], rxTime := s.clock.run, intake := t.link.intake
          stats := { s.link.stats with frames := t.link.stats.frames, overruns := t.link.stats.overruns } } }) ∧
    (∀ (bytes : List Byte) (f : Frame), bytes ≠ [] → f.body.length ≤ 1100 → s.link.rx ++ bytes <+: frameBytes f →
      s.link.rx ++ bytes ≠ frameBytes f →
      exec (.frameReceived bytes) s = .next { s with link := { s.link with rx := s.link.rx ++ bytes, rxTime := s.clock.run } }) ∧
    (∀ (bytes : List Byte) (lo hi : Byte), bytes ≠ [] → s.link.rx ++ bytes = [0xC3, 0x3C, lo, hi] → lo ≠ 0xC3 → hi ≠ 0xC3 →
      1100 < lo.toNat + 256 * hi.toNat →
      exec (.frameReceived bytes) s = .next { s with link := { s.link with
        rx := [], rxTime := s.clock.run, stats := { s.link.stats with lengthErrors := min 65535 (s.link.stats.lengthErrors + 1) } } }) ∧
    (∀ (bytes : List Byte) (f : Frame), bytes ≠ [] → f.body.length ≤ 1100 → (s.link.rx ++ bytes).length = (frameBytes f).length →
      (s.link.rx ++ bytes).take (6 + f.body.length) = (frameBytes f).take (6 + f.body.length) → s.link.rx ++ bytes ≠ frameBytes f →
      0xC3 ∉ (s.link.rx ++ bytes).tail →
      exec (.frameReceived bytes) s = .next { s with link := { s.link with
        rx := [], rxTime := s.clock.run
        stats := { s.link.stats with checkErrors := min 65535 (s.link.stats.checkErrors + 1) } } })) ∧
    (2 ≤ s.link.rx.length → exec .byteWithoutStopBit s = .next (abandoned s) ∧
      ∃ t, exec .byteGapTimeout s = .next t ∧ t.clock.run = max s.clock.run (min (s.link.rxTime + 21) 18446744073709551615) ∧
        t.link = (abandoned s).link ∧
        t = { s with clock := t.clock, dram := t.dram, fwd := { s.fwd with runOwed := t.fwd.runOwed }, link := t.link }) ∧
    (s.link.rx.length < 2 → exec .byteGapTimeout s = .next s ∧
      exec .byteWithoutStopBit s = .next { s with link := { s.link with rx := [] } })

/-- R207, R214, R219: with request-to-send active the scheduler begins a waiting response, else a notice, else the transfer's frame; with
it inactive, nothing. No notice begins in phase RESTARTING, nor before the Restart response has begun. A notice takes the send count,
which then rises by one. A Transfer End closes the transfer, and unless it was aborted the document becomes SENT with its sent record
(R155, R159, R162). The snapshot a notice carries shows its subject as it stands then (R26, R27, R98, R144, R182, R203, R216). MODEL'S CHOICE:
with no entry held the journal's oldest is absent (log entry 36). -/
def Obligations.SchedulerTakesResponsesFirst : Prop :=
  ∀ s : State,
    SnapshotsShow s ∧
    (∀ active, exec (.requestToSendChange active) s = .next { s with link := { s.link with rts := active } }) ∧
    (s.link.rts = false → exec .beginFrameSend s = .next s) ∧
    (s.part.phase ≠ none → s.link.rts = true →
      (∀ x rest, s.link.responses = x :: rest → exec .beginFrameSend s = .next { s with link := { s.link with
        responses := rest, onLine := some (.response x)
        holdNotices := s.link.holdNotices && !(decide (x.kind = .restart ∧ x.status = .done)) } }) ∧
      (∀ x rest, s.link.responses = [] → s.link.notices = x :: rest → s.part.phase ≠ some .restarting → s.link.holdNotices = false →
        exec .beginFrameSend s = .next { s with link := { s.link with
          notices := rest, onLine := some (.notice s.link.sendCount x (snapshot s x)), sendCount := s.link.sendCount + 1 } }) ∧
      (s.link.responses = [] → s.link.notices = [] ∨ s.part.phase = some .restarting ∨ s.link.holdNotices = true →
        (s.link.waiting = none → exec .beginFrameSend s = .next s) ∧
        (∀ tr doc ending sent stored crc whole omitted, s.collect.transfer = some tr →
          s.link.waiting = some (.transferEnd doc ending sent stored crc whole omitted) → ∃ t, exec .beginFrameSend s = .next t ∧
            t.link = { s.link with
              waiting := none, sendCount := s.link.sendCount + 1
              onLine := some (.transfer s.link.sendCount (.transferEnd doc ending sent stored crc whole omitted)) } ∧
            t.collect.transfer = none ∧
            (ending = .aborted → t.collect.sent = s.collect.sent ∧ t.dir = s.dir) ∧
            (ending ≠ .aborted → t.collect.sent = s.collect.sent ++ [⟨tr.doc, tr.pagesWhole, tr.omitted.length⟩] ∧
              OtherDocs s t tr.doc ∧
              ∀ d, findDoc s tr.doc = some d → findDoc t tr.doc = some { d with disposition := .sent }) ∧
            t = { s with
              dir.docs := t.dir.docs, collect := { s.collect with transfer := none, sent := t.collect.sent }, link := t.link })))

/-- R155, R156, R157, R158, R159: when a Page Data frame of the open transfer begins to send, the next frame is prepared: the pages in order,
in chunks of up to 1,024 bytes read from the store, pages marked damaged left out and listed, and at the end a Transfer End with the
counts, the stored digest and the digest of what was sent. A read that is uncorrectable leaves the rest of its page out, and a corrected
one is sent (ReadsAndFreedBlocksAreChecked says what a read does). -/
def Obligations.TransferSendsPagesInOrder : Prop :=
  (∀ (s : State) (tr : Transfer) (d : Document) (doc page offset : Nat) (chunk : List Byte),
    s.part.phase ≠ none → s.link.rts = true → s.link.responses = [] → s.link.notices = [] →
    s.link.waiting = some (.pageData doc page offset chunk) → s.collect.transfer = some tr → findDoc s tr.doc = some d →
    s.dram.faults = [] → 1 ≤ tr.page → tr.offset % 1024 = 0 → (∀ p ∈ d.pages, p.length ≤ p.blocks.length * 8192) →
    ∃ t, exec .beginFrameSend s = .next t ∧ NextFrame s t d tr ∧
      t.link.onLine = some (.transfer s.link.sendCount (.pageData doc page offset chunk)) ∧
      t.link.sendCount = s.link.sendCount + 1 ∧
      t = { s with
        collect := { s.collect with transfer := t.collect.transfer }
        link := { s.link with waiting := t.link.waiting, onLine := t.link.onLine, sendCount := t.link.sendCount } }) ∧
  (∀ (s : State) (doc page offset : Nat) (chunk : List Byte), s.part.phase ≠ none → s.link.rts = true → s.link.responses = [] →
    s.link.notices = [] ∨ s.part.phase = some .restarting ∨ s.link.holdNotices = true →
    s.link.waiting = some (.pageData doc page offset chunk) →
    exec .beginFrameSend s = .next (prepareNext { s with link := { s.link with
      waiting := none, onLine := some (.transfer s.link.sendCount (.pageData doc page offset chunk))
      sendCount := s.link.sendCount + 1 } })) ∧
  ∀ (u : State) (tr : Transfer) (d : Document), u.collect.transfer = some tr → findDoc u tr.doc = some d → 1 ≤ tr.page →
    (d.pages[tr.page - 1]? = none → let status : Ending := if tr.omitted = [] then .complete else .omissions
      prepareNext u = { u with
        collect := { u.collect with transfer := some { tr with ending := some status } }
        link := { u.link with
          waiting := some (.transferEnd tr.doc status tr.bytesSent d.digest (tr.crc ^^^ 0xFFFFFFFF) tr.pagesWhole tr.omitted) } }) ∧
    ∀ p, d.pages[tr.page - 1]? = some p →
      let skips : Transfer := { tr with page := tr.page + 1, offset := 0, omitted := tr.omitted ++ [p.number] }
      (tr.offset = 0 → p.damaged = true →
        prepareNext u = prepareNext { u with collect := { u.collect with transfer := some skips } }) ∧
      (∀ v, tr.offset ≠ 0 ∨ p.damaged = false → readSpan .transfer tr.doc p tr.offset 1024 u = (v, none) →
        prepareNext u = prepareNext { v with collect := { v.collect with transfer := some skips } }) ∧
      ∀ v data, tr.offset ≠ 0 ∨ p.damaged = false → readSpan .transfer tr.doc p tr.offset 1024 u = (v, some data) →
        prepareNext u = { v with
          collect := { v.collect with transfer := some (if p.length ≤ tr.offset + 1024
            then { tr with
              page := tr.page + 1, offset := 0, crc := crc32Run tr.crc data, bytesSent := tr.bytesSent + data.length
              pagesWhole := tr.pagesWhole + 1 }
            else { tr with
              offset := tr.offset + 1024, crc := crc32Run tr.crc data, bytesSent := tr.bytesSent + data.length }) }
          link := { v.link with waiting := some (.pageData tr.doc p.number tr.offset data) } }

/-! ## The store's integrity and its accounts -/

/-- R190, R191, R192, R193, R194, R200, R201, R203: a read of a span inside one block of a page. With no error in the groups it touches it
gives the bytes and does nothing else. With one wrong bit at most in each group it gives the bytes corrected; with a group of two or more
it gives none, the block becomes BAD, the page and its document are marked damaged, and a DAMAGE entry is written unless both were so
already. Either error writes one error record, over the oldest of 16, is counted, and marks INTEGRITY. R6, R197, R198, R199: a block given
back passes the retirement check: a HEALTHY one joins the free list; a WEAK or BAD one is retired, a spare taking its place, or joins the
free list when no spare is left, which marks the spares exhausted. MODEL'S CHOICE (log entry 3): the faults of a group add up, and three
wrong bits or more, of which R190 says nothing, read as two. -/
def Obligations.ReadsAndFreedBlocksAreChecked : Prop :=
  (∀ (s : State) (reader : Reader) (doc : Nat) (pg : Page) (off size : Nat) (b : Block),
    pg.blocks[off / 8192]? = some b → 0 < min size (pg.length - off) → off % 8192 + min size (pg.length - off) ≤ 8192 →
    let n := min size (pg.length - off)
    let touched (f : DramFault) : Bool :=
      decide (f.block = b ∧ off % 8192 / 8 ≤ f.group.val ∧ f.group.val ≤ (off % 8192 + n - 1) / 8)
    let errors := s.dram.faults.filter touched
    let wrong (g : Fin 1024) : Nat := ((errors.filter (fun f => decide (f.group = g))).map (fun f => if f.double then 2 else 1)).sum
    let h := healthOf s.integrity.health b
    let bytes (data : List Byte) := data.length = n ∧ ∀ i, i < n → data[i]? = some (readByte s.mem (b.val * 8192 + off % 8192 + i))
    let recorded (t : State) (kind : ErrorKind) (after : HealthEntry) (seq : Option Nat) :=
      ∃ first ∈ errors, (∀ f ∈ errors, first.group.val ≤ f.group.val) ∧
        t.integrity.records = (if s.integrity.records.length < 16 then s.integrity.records else s.integrity.records.tail) ++
          [⟨s.integrity.nextSerial, kind, s.clock.run, reader, doc, pg.number, b, off - off % 8192 + 8 * first.group.val,
            (errors.map (fun f => f.group)).dedup.length, after, seq⟩] ∧
        t.integrity.nextSerial = (if s.integrity.nextSerial < 4294967295 then s.integrity.nextSerial + 1 else 1) ∧
        healthOf t.integrity.health b = after ∧
        ∀ other, other ≠ b → healthOf t.integrity.health other = healthOf s.integrity.health other
    (errors = [] → ∃ data, readSpan reader doc pg off size s = (s, some data) ∧ bytes data) ∧
    (errors ≠ [] → (∀ f ∈ errors, wrong f.group = 1) → ∃ t data, readSpan reader doc pg off size s = (t, some data) ∧ bytes data ∧
      recorded t .ce (match h.health with
        | .healthy => if h.ce < 3 then ⟨.healthy, h.ce + 1⟩ else ⟨.weak, 4⟩
        | .weak => ⟨.weak, 4⟩
        | .bad => ⟨.bad, min 4 (h.ce + 1)⟩) none ∧
      t.integrity.corrected = min 65535 (s.integrity.corrected + 1) ∧ t.integrity.uncorrectable = s.integrity.uncorrectable ∧
      Marked s t (fun x => x = .integrity) ∧
      t = { s with
        integrity := { t.integrity with exhausted := s.integrity.exhausted }, link := { s.link with notices := t.link.notices } }) ∧
    ((∃ f ∈ errors, 2 ≤ wrong f.group) → ∃ t, readSpan reader doc pg off size s = (t, none) ∧
      let written := h.health ≠ .bad ∨ pg.damaged = false
      recorded t .ue ⟨.bad, h.ce⟩ (if written ∧ s.journal.unreleased < 8192 then some s.journal.nextSeq else none) ∧
      t.integrity.uncorrectable = min 65535 (s.integrity.uncorrectable + 1) ∧ t.integrity.corrected = s.integrity.corrected ∧
      (written → t.journal = s.journal.offered (.damage doc pg.number b) s.clock.cal s.clock.trusted) ∧
      (¬ written → t.journal = s.journal) ∧
      OtherDocs s t doc ∧
      (∀ d, findDoc s doc = some d → findDoc t doc = some { d with
        damaged := true, pages := d.pages.map (fun q => if q.number = pg.number then { q with damaged := true } else q) }) ∧
      (s.link.classes.integrity = true → Subject.integrity ∈ t.link.notices) ∧
      t = { s with
        dir := { s.dir with docs := t.dir.docs }, journal := t.journal
        integrity := { t.integrity with exhausted := s.integrity.exhausted }, link := { s.link with notices := t.link.notices } })) ∧
  ∀ (s : State) (d : Dept) (b : Block),
    let t := freeBlock d s b
    let healthy := (healthOf s.integrity.health b).health = .healthy
    acct t d = { acct s d with used := (acct s d).used - 1 } ∧ (∀ e : Dept, e ≠ d → acct t e = acct s e) ∧
    (healthy → t.store.free = s.store.free ++ [b] ∧ t.store.spares = s.store.spares ∧ t.store.retired = s.store.retired ∧
      t.integrity = s.integrity ∧ t.link = s.link) ∧
    (∀ spare rest, ¬ healthy → s.store.spares = spare :: rest →
      t.store.free = s.store.free ++ [spare] ∧ t.store.spares = rest ∧ t.store.retired = s.store.retired ++ [b] ∧
      t.integrity = s.integrity ∧ Marked s t (fun x => x = .integrity)) ∧
    (¬ healthy → s.store.spares = [] →
      t.store.free = s.store.free ++ [b] ∧ t.store.spares = [] ∧ t.store.retired = s.store.retired ∧
      t.integrity = { s.integrity with exhausted := true } ∧ Marked s t (fun x => x = .store ∧ s.integrity.exhausted = false)) ∧
    t = { s with
      store := { s.store with
        free := t.store.free, spares := t.store.spares, retired := t.store.retired, accounts := t.store.accounts }
      integrity := t.integrity, link := { s.link with notices := t.link.notices } }

/-- R8, R9, R10, R11, R12, R15, R17, R21: a reservation of k blocks for a department on a line, which adds to those the line holds (a top-up).
When the cap test and the shared test hold at once, the blocks are reserved and nothing is purged. While one fails, the oldest document
of the department is purged, and when it has none and the cap test holds, the oldest of one that borrows, and the tests are made again.
When nothing is left to purge, nothing is reserved and the last failure record is written, with cause CAP exactly when the cap test
fails. When the answer is yes, both tests held when it was given, after purges of documents of the reclaim list alone. -/
def Obligations.ReservationsFollowTheTest : Prop :=
  ∀ (s : State) (n : LineNo) (d : Dept) (k : Nat),
    let a := acct s d
    (CapPasses s d k → SharedPasses s d k → ∃ t, reserve n d k s = (t, true) ∧
      acct t d = { a with resv := a.resv + k } ∧ (∀ e : Dept, e ≠ d → acct t e = acct s e) ∧
      allotment t n = ⟨some d, (allotment s n).count + k⟩ ∧ (∀ m : LineNo, m ≠ n → allotment t m = allotment s m) ∧
      t.store.pressure = pressureAfter s.store.pressure t ∧
      Marked s t (fun x => x = .store ∧ t.store.pressure ≠ s.store.pressure) ∧
      t = { s with
        store := { s.store with
          accounts := t.store.accounts, allotments := t.store.allotments, pressure := t.store.pressure }
        link := { s.link with notices := t.link.notices } }) ∧
    (∀ m, Reclaims s d k m → reserve n d k s = reserve n d k (purgeDoc m s) ∧
      ∀ y, findDoc s m = some y → Purged s (evalPressure (purgeDoc m s)) y) ∧
    (∀ cause, TestFails s d k cause → ∃ t, reserve n d k s = (t, false) ∧
      acct t d = { a with lastFailure := some ⟨cause, k, s.clock.run⟩ } ∧ (∀ e : Dept, e ≠ d → acct t e = acct s e) ∧
      t.store.pressure = pressureAfter s.store.pressure t ∧
      Marked s t (fun x => x = .department d ∨ (x = .store ∧ t.store.pressure ≠ s.store.pressure)) ∧
      t = { s with
        store := { s.store with accounts := t.store.accounts, pressure := t.store.pressure }
        link := { s.link with notices := t.link.notices } }) ∧
    (∀ t, reserve n d k s = (t, true) →
      (acct t d).used + (acct t d).resv ≤ (acct t d).cap ∧ sharedCommitted t ≤ sharedPool t ∧
      allotment t n = ⟨some d, (allotment s n).count + k⟩ ∧ (acct t d).resv = a.resv + k) ∧
    (∀ t yes, reserve n d k s = (t, yes) → t.dir.docs.Sublist s.dir.docs ∧
      (∀ x ∈ s.dir.docs, x.number ∉ s.dir.reclaim → x ∈ t.dir.docs) ∧
      (∀ x ∈ s.dir.docs, findDoc s x.number = some x → x.verifying = true → x ∈ t.dir.docs)) ∧
    ∀ t, reserve n d k s = (t, false) → allotment t n = allotment s n ∧ (acct t d).resv = a.resv ∧
      (∃ cause, (acct t d).lastFailure = some ⟨cause, k, s.clock.run⟩ ∧
        (cause = .cap ↔ (acct t d).cap < (acct t d).used + (acct t d).resv + k)) ∧
      ∀ m ∈ t.dir.reclaim, ∀ x, findDoc t m = some x → x.verifying = true ∨ x.dept ≠ d

/-! ## Restart (chapter 11) -/

/-- R28, R44, R51, R54, R99, R142, R166, R219, R225, R226: RESTART in phase READY. Every call that rings is rejected and every other call
in progress released, the collect queue, the open offers, the transfer and the verifications are gone, every job waits again with
forwarding suspended, the frames and notices that waited are dropped, and the tally for the response counts what ended. A document of a
call lands as PARTIAL-RESTART or is gone when it has no page, documents on offer or in transfer are DUE in their queues again, and the
blocks and allotments of calls are given back. A verified document that is SETTLED and whose deadline has passed is purged as its
verification ends. What the manual keeps is kept. MODEL'S CHOICE: that purge comes in the same event (R44; log entry 20, DEDUCED), attempt
outcomes handed and not yet taken are dropped and classifications kept (log entry 6, DEDUCED), a job whose outcome is so dropped waits and
is interrupted and is not counted in attempts released, which are the attempts that Restart itself releases (log entry 38), a page that
ends has its last group written at Restart too (log entry 28), and the order: offers from the oldest, then the transfer, then lines 0 to
15 (log entry 29). -/
def Obligations.RestartBringsAllToAnEnd : Prop :=
  ∀ (s : State) (r : Envelope), TakesBare s r → ∃ t, exec (.restart r) s = .next t ∧
    t.part.phase = some .restarting ∧ t.part.restarts = s.part.restarts ∧ t.part.cause = s.part.cause ∧
    (∃ landed : Nat, t.part.tally = some ⟨r.tag,
      (allLines.filter (fun n => (lineAt s n).chan != .alerted && inReceiving (lineAt s n))).length, landed,
      (allLines.filter (fun n => (lineAt s n).chan == .alerted)).length,
      (allLines.filter (fun n => (lineAt s n).chan != .alerted && !inReceiving (lineAt s n) && inSending (lineAt s n))).length,
      s.collect.queue.length, s.collect.offers.length, s.collect.transfer.map Transfer.doc, s.dir.verifications.length, 0⟩) ∧
    t.link.intake = [] ∧ t.link.rx = s.link.rx ∧ t.link.responses = s.link.responses ∧ t.link.holdNotices = true ∧
    t.link.classes = s.link.classes ∧ t.link.stats = s.link.stats ∧ t.link.sendCount = s.link.sendCount ∧
    (s.collect.transfer = none → t.link.waiting = s.link.waiting) ∧ (s.collect.transfer ≠ none → t.link.waiting = none) ∧
    t.collect.queue = [] ∧ t.collect.offers = [] ∧ t.collect.transfer = none ∧ t.collect.sent = s.collect.sent ∧
    t.dir.verifications = [] ∧
    (∀ n : LineNo, (lineAt s n).chan = .alerted → lineAt t n = (lineAt s n).releases s.clock.run .reject) ∧
    (∀ n : LineNo, (lineAt s n).chan ≠ .alerted → inReceiving (lineAt s n) = true ∨ inSending (lineAt s n) = true →
      lineAt t n = (lineAt s n).releases s.clock.run .release) ∧
    (∀ n : LineNo, (lineAt s n).chan ≠ .alerted → inReceiving (lineAt s n) = false → inSending (lineAt s n) = false →
      lineAt t n = lineAt s n) ∧
    (RestartFits s → Restarted s t) ∧
    (∀ v ∈ s.dir.verifications, ∀ d x, findDoc s v.doc = some d → d.life = .settled → d.deadline = some x → x ≤ s.clock.run →
      (∀ y ∈ callDocuments s, y.number ≠ v.doc) → findDoc t v.doc = none ∧ v.doc ∉ t.dir.reclaim) ∧
    t.fwd.suspended = true ∧ t.fwd.handed = [] ∧ (∀ j ∈ t.fwd.jobs, j.inCall = false) ∧
    (∀ j ∈ s.fwd.jobs, { j with
      inCall := false, nextDue := if j.inCall then s.clock.run else j.nextDue, line := if j.inCall then none else j.line
      interrupted := j.inCall || j.interrupted } ∈ t.fwd.jobs) ∧
    (s.link.classes.forward = true → Subject.forward ∈ t.link.notices) ∧
    t.clock = s.clock ∧ t.policy = s.policy ∧ t.routes = s.routes ∧ t.callers.table = s.callers.table ∧
    ∀ d : Dept, (acct t d).configured = (acct s d).configured ∧ (acct t d).guarantee = (acct s d).guarantee ∧
      (acct t d).cap = (acct s d).cap ∧ (acct t d).retention = (acct s d).retention

/-- R228: a Restart's end: the restart count rises, the RESTART entry is appended, the cause is RESTART, the phase is READY, and the response
carries the tally. R44: a SETTLED document whose deadline passed in the phase is purged then. MODEL'S CHOICE: the purges come at this
moment and no sooner (log entry 20), in the order of the reclaim list (log entry 29), and in any other phase RESTART_END does nothing (log
entry 10). -/
def Obligations.RestartEndAnswers : Prop :=
  ∀ s : State,
    (s.part.phase ≠ some .restarting → exec .restartEnd s = .next s) ∧
    (s.part.phase = some .restarting →
      ∀ y, s.part.tally = some y → ∃ t, exec .restartEnd s = .next t ∧
        let count := if s.part.restarts < 4294967295 then s.part.restarts + 1 else 4294967295
        let seq := if s.journal.unreleased < 8192 then some s.journal.nextSeq else none
        let passed (m : Nat) := ∃ d x, findDoc s m = some d ∧ d.life = .settled ∧ d.verifying = false ∧ d.deadline = some x ∧
          x ≤ s.clock.run
        t.part = { s.part with phase := some .ready, cause := .restartRequest, restarts := count, tally := none } ∧
        t.journal = s.journal.offered (.restart count) s.clock.cal s.clock.trusted ∧
        t.link.responses = s.link.responses ++ [⟨y.tag, .restart, .done, .restart ⟨count, seq, s.clock.run, y.callsEnded,
          y.documentsLanded, y.callsRejected, y.attemptsReleased, y.collectDropped, y.offersWithdrawn, y.transferStopped,
          y.verificationsEnded, y.framesDiscarded, s.fwd.suspended⟩⟩] ∧
        ((∀ m ∈ s.dir.reclaim, ¬ passed m) →
          Marked s t (fun x => x = .journal ∧ (s.journal.unreleased = 8127 ∨ 8192 ≤ s.journal.unreleased)) ∧
          t = { s with
            part := t.part, journal := t.journal
            link := { s.link with responses := t.link.responses, notices := t.link.notices } }) ∧
        ∀ gone : List Document, s.dir.reclaim.Nodup →
          gone.map (fun d => some d) = ((s.dir.reclaim.map (findDoc s)).filter (fun o => o.any (fun d => decide (d.life = .settled) &&
            !d.verifying && d.deadline.any (fun x => decide (x ≤ s.clock.run))))) →
          let blocks := gone.flatMap docBlocks
          t.dir.docs = s.dir.docs.filter (fun x => decide (∀ d ∈ gone, d.number ≠ x.number)) ∧
          t.dir.reclaim = s.dir.reclaim.filter (fun m => decide (∀ d ∈ gone, d.number ≠ m)) ∧
          s.store.free <+: t.store.free ∧ t.store.free.length = s.store.free.length + blocks.length ∧
          ((∀ b ∈ blocks, (healthOf s.integrity.health b).health = .healthy) → t.store.free = s.store.free ++ blocks) ∧
          (∀ e : Dept, acct t e = { acct s e with
            used := (acct s e).used - ((gone.filter (fun d => decide (d.dept = e))).flatMap docBlocks).length }) ∧
          (∀ e : Dept, readyQueue t e = (readyQueue s e).filter (fun m => decide (∀ d ∈ gone, d.dept = e → d.number ≠ m))) ∧
          t.store.spares <:+ s.store.spares ∧ s.store.retired <+: t.store.retired ∧
          t.store.spares.length + t.store.retired.length = s.store.spares.length + s.store.retired.length ∧
          t.store.allotments = s.store.allotments ∧
          (s.store.pressure = pressureAfter s.store.pressure s → t.store.pressure = pressureAfter s.store.pressure t) ∧
          s.link.notices <+: t.link.notices ∧
          (∀ d ∈ gone, s.link.classes.department = true → Subject.department d.dept ∈ t.link.notices) ∧
          t = { s with
            part := t.part, journal := t.journal, store := t.store, dir := { s.dir with
              docs := t.dir.docs, reclaim := t.dir.reclaim, ready := t.dir.ready }
            integrity := { s.integrity with exhausted := t.integrity.exhausted }
            link := { s.link with responses := t.link.responses, notices := t.link.notices } })

/-! ## Documents (chapter 2) -/

/-- R35, R36, R37, R38, R39, R117, R118: Release Hold: refused for a document that is absent or not HELD; else the document enters OPEN. Its plan's
collection makes it DUE, and each destination of its plan becomes a PENDING entry with a WAITING job due at once. The premises are what
holds of every HELD document (no entry yet, nothing due, not in its ready queue, a plan that is not empty, R57) and room in the job
list. MODEL'S CHOICE (log entry 26): the response to a Collect that the document meets stands before Release Hold's own. -/
def Obligations.ReleaseHoldOpensTheDocument : Prop :=
  ∀ (s : State) (r : Envelope) (doc : Nat), Takes s r →
    (findDoc s doc = none → exec (.releaseHold r doc) s = .next (answered s r .releaseHold .noSuch .empty)) ∧
    ∀ d, findDoc s doc = some d →
      (d.life ≠ .held → exec (.releaseHold r doc) s = .next (answered s r .releaseHold .wrongState .empty)) ∧
      (d.life = .held → d.forwards = [] → d.disposition = .none → doc ∉ readyQueue s d.dept →
        (d.plan.collect = true ∨ d.plan.dests ≠ []) → s.fwd.jobs.length + d.plan.dests.length ≤ 256 →
        ∃ (t : State) (answers : List Response) (left : Disposition) (new : List Job), exec (.releaseHold r doc) s = .next t ∧
          let opened : Document := { d with life := .opened }
          let entries := d.plan.dests.map (fun x => (⟨x, .pending, 0, none, 0⟩ : ForwardEntry))
          findDoc t doc = some { opened with disposition := left, forwards := entries } ∧ OtherDocs s t doc ∧
          (d.plan.collect = true → Joined s t opened s.collect.offers answers left) ∧
          (d.plan.collect = false → left = .none ∧ answers = [] ∧ t.collect = s.collect ∧ t.dir.ready = s.dir.ready) ∧
          t.fwd.jobs = s.fwd.jobs ++ new ∧ new.length = d.plan.dests.length ∧
          (∀ (i : Nat) (j : Job), new[i]? = some j → some j.destination = d.plan.dests[i]? ∧
            j = { j with
              document := doc, index := i, inCall := false, attempts := 0, nextDue := s.clock.run, urgent := decide (d.priority = .urgent)
              interrupted := false, line := none }) ∧
          (JobsOk s → (t.fwd.jobs.map Job.number).Nodup) ∧
          t.fwd.runOwed = (s.fwd.runOwed || decide (d.plan.dests ≠ [])) ∧
          t.link.intake = afterTaking r.tag s.link.intake ∧
          t.link.responses = s.link.responses ++ answers ++ [⟨r.tag, .releaseHold, .done, .empty⟩] ∧
          Marked s t (fun x => x = .department d.dept ∧ d.plan.collect = true ∧ left = .due) ∧
          t = { s with
            dir := { s.dir with docs := t.dir.docs, ready := t.dir.ready }
            fwd := { s.fwd with jobs := t.fwd.jobs, nextJob := t.fwd.nextJob, runOwed := t.fwd.runOwed }
            collect := { s.collect with queue := t.collect.queue, offers := t.collect.offers }
            link := { s.link with intake := t.link.intake, responses := t.link.responses, notices := t.link.notices } })

/-- R6, R38, R40, R44, R45, R46, R162, R174: Discard Document and a retention deadline. Discard is refused in its order; an accepted one
cancels the PENDING entries, writes their FORWARD entries and the DISCARD entry, drops the document's jobs and sent record, and purges it.
MODEL'S CHOICE (log entry 13): a cancelled entry is final, so that a document with an entry FAILED falls back and may be offered to a
waiting Collect, whose offer record goes with the purge and whose response stands before Discard's own (log entry 26); FORWARD is not
marked. Run time that reaches the deadline of a SETTLED document that nothing verifies purges it in phase READY, and in phase RESTARTING
leaves it for the phase's end (log entry 20); a deadline brings run time up to it (log entry 5), and above run time's last value is not
reached (log entry 27). -/
def Obligations.DiscardAndRetentionPurge : Prop :=
  (∀ (s : State) (r : Envelope) (doc : Nat), Takes s r →
    (findDoc s doc = none → exec (.discardDocument r doc) s = .next (answered s r .discardDocument .noSuch .empty)) ∧
    ∀ d, findDoc s doc = some d →
      let busy := d.life = .landing ∨ d.disposition = .offered ∨ d.disposition = .transferring ∨ d.verifying = true ∨
        ∃ j ∈ s.fwd.jobs, j.document = doc ∧ j.inCall = true
      (busy → exec (.discardDocument r doc) s = .next (answered s r .discardDocument .inUse .empty)) ∧
      (¬ busy → 8128 ≤ s.journal.unreleased →
        exec (.discardDocument r doc) s = .next (answered s r .discardDocument .journalFull .empty)) ∧
      (¬ busy → s.journal.unreleased < 8128 → d.forwards.length ≤ 4 → ∃ t, exec (.discardDocument r doc) s = .next t ∧
        let cancelled (p : ForwardEntry × Nat) : Option JournalContent :=
          if p.1.state = .pending then some (.forward doc p.2 p.1.destination .cancelled p.1.attempts p.1.pages) else none
        let entries := d.forwards.zipIdx.filterMap cancelled ++ [.discard doc]
        let falls := d.life = .opened ∧ d.disposition = .none ∧ (∃ e ∈ d.forwards, e.state = .pending) ∧ ∃ e ∈ d.forwards, e.state = .failed
        let own : Response := ⟨r.tag, .discardDocument, .done, .discarded d.pages.length (docBlocks d).length⟩
        Purged s t d ∧
        t.journal = entries.foldl (fun j e => j.written e s.clock.cal s.clock.trusted) s.journal ∧
        t.fwd = { s.fwd with jobs := s.fwd.jobs.filter (fun j => decide (j.document ≠ doc)) } ∧
        t.collect = { s.collect with
          queue := t.collect.queue, sent := s.collect.sent.filter (fun x => decide (x.doc ≠ doc))
          offers := s.collect.offers.filter (fun o => decide (o.doc ≠ doc)) } ∧
        t.link.intake = afterTaking r.tag s.link.intake ∧
        (¬ falls ∨ (∀ w ∈ s.collect.queue, w.dept ≠ d.dept) →
          t.collect.queue = s.collect.queue ∧ t.link.responses = s.link.responses ++ [own]) ∧
        (∀ front w rest, falls → s.collect.queue = front ++ w :: rest → w.dept = d.dept → (∀ v ∈ front, v.dept ≠ d.dept) →
          t.collect.queue = front ++ rest ∧ t.link.responses = s.link.responses ++
            [⟨w.tag, .collect, .done, .offer (offerSummary d w.timeout s.policy.offerWindow)⟩, own]) ∧
        Marked s t (fun x => x = .department d.dept ∨ (x = .integrity ∧ t.store.retired ≠ s.store.retired) ∨
          (x = .store ∧ (t.store.pressure ≠ s.store.pressure ∨ t.integrity.exhausted ≠ s.integrity.exhausted)) ∨
          (x = .journal ∧ 8128 ≤ t.journal.unreleased)) ∧
        t = { s with
          store := t.store, dir := { t.dir with nextNumber := s.dir.nextNumber, verifications := s.dir.verifications }
          integrity := { s.integrity with exhausted := t.integrity.exhausted }, journal := t.journal, fwd := t.fwd, collect := t.collect
          link := { s.link with intake := t.link.intake, responses := t.link.responses, notices := t.link.notices } })) ∧
  ∀ (s : State) (doc : Nat) (d : Document) (x : Nat), findDoc s doc = some d → d.life = .settled → d.deadline = some x →
    (s.part.phase = some .ready → ∃ t, exec (.retentionExpiry doc) s = .next t ∧
      t.clock.run = max s.clock.run (min x 18446744073709551615) ∧
      (x ≤ 18446744073709551615 → d.verifying = false → Purged s t d) ∧ (d.verifying = true → t.dir = s.dir ∧ t.store = s.store) ∧
      t.journal = s.journal ∧ t.collect = s.collect ∧ t.lines = s.lines ∧ t.fwd.jobs = s.fwd.jobs ∧ t.mem = s.mem) ∧
    (s.part.phase ≠ some .ready → ∃ t, exec (.retentionExpiry doc) s = .next t ∧
      t.clock.run = max s.clock.run (min x 18446744073709551615) ∧
      t = { s with clock := t.clock, dram := t.dram, fwd := { s.fwd with runOwed := t.fwd.runOwed } })

/-- R49, R50, R44, R45: Verify Document and its steps. The request is refused in its order, or the document is marked and its verification starts
at page 1 with the CRC's first value. A step carries the CRC over the next 1,024 bytes or the rest of the page, or, when its read is
uncorrectable, goes past the rest of the page; u is what the read left (ReadsAndFreedBlocksAreChecked), and with no bit error standing in
the DRAM it leaves all as it was. Past the last page the verification ends with its response, DAMAGED, MATCH or MISMATCH, and its mark
is gone; a SETTLED document whose deadline run time has reached is then purged (R44, R45), and any other stays. -/
def Obligations.VerificationCarriesTheCrc : Prop :=
  (∀ (s : State) (r : Envelope) (doc : Nat), Takes s r →
    let c := Instr.verifyDocument r doc
    (findDoc s doc = none → exec c s = .next (answered s r .verifyDocument .noSuch .empty)) ∧
    ∀ d, findDoc s doc = some d →
      (d.life = .landing → exec c s = .next (answered s r .verifyDocument .wrongState .empty)) ∧
      (d.life ≠ .landing → d.verifying = true → exec c s = .next (answered s r .verifyDocument .inUse .empty)) ∧
      (d.life ≠ .landing → d.verifying = false → 4 ≤ s.dir.verifications.length →
        exec c s = .next (answered s r .verifyDocument .busy .empty)) ∧
      (d.life ≠ .landing → d.verifying = false → s.dir.verifications.length < 4 → ∃ t, exec c s = .next t ∧
        t.dir.verifications = s.dir.verifications ++ [⟨doc, r.tag, 1, 0, 0xFFFFFFFF⟩] ∧
        findDoc t doc = some { d with verifying := true } ∧ OtherDocs s t doc ∧
        t = { s with
          dir := { s.dir with docs := t.dir.docs, verifications := t.dir.verifications }
          link := { s.link with intake := afterTaking r.tag s.link.intake } })) ∧
  ∀ (s : State) (doc : Nat) (v : Verification) (d : Document) (p : Page),
    s.dir.verifications.find? (fun x => decide (x.doc = doc)) = some v → findDoc s doc = some d →
    1 ≤ v.page → d.pages[v.page - 1]? = some p →
    let late := d.life = .settled ∧ ∃ x, d.deadline = some x ∧ x ≤ s.clock.run
    let others (t : State) := t.dir.verifications.filter (fun x => decide (x.doc ≠ doc))
    let moves (u t : State) (next : Verification) :=
      t.dir.verifications.find? (fun x => decide (x.doc = doc)) = some next ∧ others t = others s ∧
      t = { u with dir := { u.dir with verifications := t.dir.verifications } }
    let ends (u t : State) (crc : BitVec 32) := ∃ e result again,
      findDoc u doc = some e ∧ t.dir.verifications = others s ∧
      t.link.responses = u.link.responses ++ [⟨v.tag, .verifyDocument, .done, .verified result d.digest again
        ((e.pages.filter (fun q => q.damaged)).map (fun q => q.number))⟩] ∧
      ((∃ q ∈ e.pages, q.damaged = true) → result = .damaged ∧ again = none) ∧
      ((∀ q ∈ e.pages, q.damaged = false) → again = some (crc ^^^ 0xFFFFFFFF) ∧
        (d.digest = again → result = .isMatch) ∧ (d.digest ≠ again → result = .mismatch)) ∧
      (¬ late → findDoc t doc = some { e with verifying := false } ∧ OtherDocs u t doc ∧ t = { u with
        dir := { u.dir with docs := t.dir.docs, verifications := t.dir.verifications }
        link := { u.link with responses := t.link.responses } }) ∧
      (late → findDoc t doc = none ∧ Purged u t e ∧
        Marked u t (fun x => x = .department d.dept ∨ (x = .integrity ∧ t.store.retired ≠ u.store.retired) ∨
          (x = .store ∧ (t.store.pressure ≠ u.store.pressure ∨ t.integrity.exhausted ≠ u.integrity.exhausted))) ∧
        t = { u with
          store := { t.store with allotments := u.store.allotments }
          dir := { u.dir with
            docs := t.dir.docs, ready := t.dir.ready, reclaim := t.dir.reclaim, verifications := t.dir.verifications }
          integrity := { u.integrity with exhausted := t.integrity.exhausted }
          link := { u.link with responses := t.link.responses, notices := t.link.notices } })
    (s.dram.faults = [] → v.offset % 1024 = 0 → p.length ≤ p.blocks.length * 8192 →
      ∃ data, readSpan .verify doc p v.offset 1024 s = (s, some data) ∧ data.length = min 1024 (p.length - v.offset) ∧
        ∀ i, i < data.length → ∃ b, p.blocks[(v.offset + i) / 8192]? = some b ∧
          data[i]? = some (readByte s.mem (b.val * 8192 + (v.offset + i) % 8192))) ∧
    (∀ u data, readSpan .verify doc p v.offset 1024 s = (u, some data) → ∃ t, exec (.verifyStep doc) s = .next t ∧
      let crc := crc32Run v.crc data
      let whole := p.length ≤ v.offset + 1024
      (¬ whole → moves u t { v with offset := v.offset + 1024, crc := crc }) ∧
      (whole → v.page < d.pages.length → moves u t { v with page := v.page + 1, offset := 0, crc := crc }) ∧
      (whole → v.page = d.pages.length → ends u t crc)) ∧
    ∀ u, readSpan .verify doc p v.offset 1024 s = (u, none) → ∃ t, exec (.verifyStep doc) s = .next t ∧
      (∃ e q, findDoc u doc = some e ∧ q ∈ e.pages ∧ q.number = p.number ∧ q.damaged = true) ∧
      (v.page < d.pages.length → moves u t { v with page := v.page + 1, offset := 0 }) ∧
      (v.page = d.pages.length → ends u t v.crc)

/-! ## Collection by the host (chapter 7) -/

/-- R146, R147, R149, R150: Collect is refused in its order; with a document ready it is answered with an offer of the first of the ready
queue, and the offer's window runs; with none ready it waits until its time-out, or is refused when 32 wait. At its expiry a waiting
request is answered TIMED-OUT and leaves the queue; with none of the tag waiting the expiry does nothing. MODEL'S CHOICE (log entry 25):
of several requests with one tag, the expiry names the first that falls due; run time is brought up to it (log entry 5), or to its last
value (log entry 27). -/
def Obligations.CollectOffersOrWaits : Prop :=
  (∀ (s : State) (r : Envelope) (dept timeout : Nat), Takes s r →
    let c := Instr.collect r dept timeout
    let limit := max 1 (min timeout 3600)
    (31 < dept → exec c s = .next (answered s r .collect .badArgument .empty)) ∧
    ∀ d : Dept, d.val = dept →
      ((acct s d).configured = false → exec c s = .next (answered s r .collect .noSuch .empty)) ∧
      ((acct s d).configured = true → readyQueue s d = [] → 32 ≤ s.collect.queue.length →
        exec c s = .next (answered s r .collect .tableFull .empty)) ∧
      ((acct s d).configured = true → readyQueue s d = [] → s.collect.queue.length < 32 → exec c s = .next { s with
        collect := { s.collect with queue := s.collect.queue ++ [⟨r.tag, d, limit, s.clock.run + limit * 1000⟩] }
        link := { s.link with intake := afterTaking r.tag s.link.intake } }) ∧
      ∀ m rest x, (acct s d).configured = true → readyQueue s d = m :: rest → m ∉ rest → findDoc s m = some x → x.dept = d →
        ∃ t, exec c s = .next t ∧
          readyQueue t d = rest ∧ (∀ e : Dept, e ≠ d → readyQueue t e = readyQueue s e) ∧
          findDoc t m = some { x with disposition := .offered } ∧ OtherDocs s t m ∧
          t.collect = { s.collect with offers := s.collect.offers ++ [⟨m, d, s.clock.run + s.policy.offerWindow * 1000⟩] } ∧
          Responded s t r .collect .done (.offer ⟨m, d, x.routeKey, x.priority, x.life, x.pages.length,
            (x.pages.map (fun p => p.length)).sum,
            ((x.pages.filter (fun p => !p.damaged)).map (fun p => (p.length + 1023) / 1024)).sum, x.digest, x.partialFlag, x.damaged,
            x.outcome, (x.pages.filter (fun p => p.damaged)).map (fun p => p.number), x.called, x.calling, x.remoteId, x.answerTime,
            x.completionTime, x.continuationOf, x.continuedBy, x.declines, limit, s.policy.offerWindow * 1000⟩) ∧
          t = { s with
            dir := { s.dir with docs := t.dir.docs, ready := t.dir.ready }, collect := t.collect
            link := { s.link with intake := t.link.intake, responses := t.link.responses } }) ∧
  ∀ (s : State) (front : List WaitingCollect) (w : WaitingCollect) (rest : List WaitingCollect),
    s.collect.queue = front ++ w :: rest → (∀ v ∈ front, v.tag ≠ w.tag) → (∀ v ∈ rest, v.tag = w.tag → w.expiry ≤ v.expiry) →
    (∀ tag, (∀ v ∈ s.collect.queue, v.tag ≠ tag) → exec (.collectExpiry tag) s = .next s) ∧ ∃ t, exec (.collectExpiry w.tag) s = .next t ∧
      t.clock.run = max s.clock.run (min w.expiry 18446744073709551615) ∧
      t.collect = { s.collect with queue := front ++ rest } ∧
      t.link = { s.link with responses := s.link.responses ++ [⟨w.tag, .collect, .timedOut, .timedOut w.dept w.timeout⟩] } ∧
      t = { s with clock := t.clock, dram := t.dram, fwd := { s.fwd with runOwed := t.fwd.runOwed }, collect := t.collect, link := t.link }

/-- R39, R148, R152, R153: a DUE document that joins its ready queue, and an offer that ends by Decline Offer or by its window's expiry. A
decline of an absent document or of one with no open offer is refused; an accepted one and an expiry count the decline and make the
document DUE again, which then meets a waiting request or takes its place in the queue. MODEL'S CHOICE (log entry 26): the response to a
Collect that the document meets stands before Decline Offer's own; an expiry brings run time up to it (log entry 5), or to its last value
(log entry 27). -/
def Obligations.DeclinedOffersReturnToTheQueue : Prop :=
  (∀ (s : State) (r : Envelope) (doc : Nat), Takes s r → findDoc s doc = none →
    exec (.declineOffer r doc) s = .next (answered s r .declineOffer .noSuch .empty)) ∧
  (∀ (s : State) (doc : Nat), (∀ o ∈ s.collect.offers, o.doc ≠ doc) → exec (.offerWindowExpiry doc) s = .next s) ∧
  ∀ (s : State) (doc : Nat) (d : Document), findDoc s doc = some d → doc ∉ readyQueue s d.dept →
    let more : Document := { d with declines := if d.declines < 255 then d.declines + 1 else 255 }
    let left := s.collect.offers.filter (fun o => decide (o.doc ≠ doc))
    let frame (t : State) := t = { s with
      clock := t.clock, dram := t.dram, fwd := { s.fwd with runOwed := t.fwd.runOwed }
      dir := { s.dir with docs := t.dir.docs, ready := t.dir.ready }
      collect := { s.collect with queue := t.collect.queue, offers := t.collect.offers }
      link := { s.link with intake := t.link.intake, responses := t.link.responses, notices := t.link.notices } }
    (d.life = .opened → d.disposition = .due → ∃ t answers now, exec (.documentJoinsReadyQueue doc) s = .next t ∧
      Joined s t d s.collect.offers answers now ∧ findDoc t doc = some { d with disposition := now } ∧ OtherDocs s t doc ∧
      t.link.responses = s.link.responses ++ answers ∧ t.link.intake = s.link.intake ∧ t.clock = s.clock ∧ t.dram = s.dram ∧ t.fwd = s.fwd ∧
      Marked s t (fun x => x = .department d.dept ∧ now = .due) ∧ frame t) ∧
    (∀ r : Envelope, Takes s r → (∀ o ∈ s.collect.offers, o.doc ≠ doc) →
      exec (.declineOffer r doc) s = .next (answered s r .declineOffer .tooLate .empty)) ∧
    (∀ (r : Envelope) (o : Offer), Takes s r → o ∈ s.collect.offers → o.doc = doc →
      ∃ t answers now, exec (.declineOffer r doc) s = .next t ∧
        Joined s t more left answers now ∧ findDoc t doc = some { more with disposition := now } ∧ OtherDocs s t doc ∧
        t.link.responses = s.link.responses ++ answers ++ [⟨r.tag, .declineOffer, .done, .declined doc more.declines⟩] ∧
        t.link.intake = afterTaking r.tag s.link.intake ∧ t.clock = s.clock ∧ t.dram = s.dram ∧ t.fwd = s.fwd ∧
        Marked s t (fun x => x = .department d.dept ∧ now = .due) ∧ frame t) ∧
    ∀ o, s.collect.offers.find? (fun y => decide (y.doc = doc)) = some o →
      ∃ t answers now, exec (.offerWindowExpiry doc) s = .next t ∧ t.clock.run = max s.clock.run (min o.expiry 18446744073709551615) ∧
        Joined s t more left answers now ∧ findDoc t doc = some { more with disposition := now } ∧ OtherDocs s t doc ∧
        t.link.responses = s.link.responses ++ answers ∧ t.link.intake = s.link.intake ∧
        Marked s t (fun x => x = .department d.dept ∧ now = .due) ∧ frame t

/-- R151, R155, R156, R157: Accept Offer. It is refused for a document that is absent, without an open offer, or while a transfer is open;
else the offer goes, the document is TRANSFERRING, the transfer opens at page 1 with its counts zero and the CRC's first value, and its
first frame is prepared (TransferSendsPagesInOrder says how), here in full with no bit error standing in the DRAM. MODEL'S CHOICE (log
entry 37): the response's figures are those before that frame's read. -/
def Obligations.AcceptOpensTheTransfer : Prop :=
  ∀ (s : State) (r : Envelope) (doc : Nat), Takes s r →
    let c := Instr.acceptOffer r doc
    (findDoc s doc = none → exec c s = .next (answered s r .acceptOffer .noSuch .empty)) ∧
    ∀ d, findDoc s doc = some d →
      ((∀ o ∈ s.collect.offers, o.doc ≠ doc) → exec c s = .next (answered s r .acceptOffer .tooLate .empty)) ∧
      (∀ o ∈ s.collect.offers, o.doc = doc → s.collect.transfer ≠ none →
        exec c s = .next (answered s r .acceptOffer .busy .empty)) ∧
      (∀ o ∈ s.collect.offers, o.doc = doc → s.collect.transfer = none → ∃ u,
        exec c s = .next (respond r.tag .acceptOffer .done (.accepted doc d.pages.length ((d.pages.map (fun p => p.length)).sum)
          ((d.pages.filter (fun p => !p.damaged)).map (fun p => (p.length + 1023) / 1024)).sum) (prepareNext u)) ∧
        findDoc u doc = some { d with disposition := .transferring } ∧ OtherDocs s u doc ∧
        u = { s with
          dir := { s.dir with docs := u.dir.docs }
          collect := { s.collect with
            offers := s.collect.offers.filter (fun x => decide (x.doc ≠ doc))
            transfer := some ⟨doc, 1, 0, 0, 0xFFFFFFFF, [], 0, none⟩ }
          link := { s.link with intake := afterTaking r.tag s.link.intake } }) ∧
      ∀ o ∈ s.collect.offers, o.doc = doc → s.collect.transfer = none → s.dram.faults = [] →
        (∀ p ∈ d.pages, p.length ≤ p.blocks.length * 8192) → ∃ t, exec c s = .next t ∧
          NextFrame s t d ⟨doc, 1, 0, 0, 0xFFFFFFFF, [], 0, none⟩ ∧
          t.collect = { s.collect with
            offers := s.collect.offers.filter (fun x => decide (x.doc ≠ doc)), transfer := t.collect.transfer } ∧
          findDoc t doc = some { d with disposition := .transferring } ∧ OtherDocs s t doc ∧
          Responded s t r .acceptOffer .done (.accepted doc d.pages.length ((d.pages.map (fun p => p.length)).sum)
            ((d.pages.filter (fun p => !p.damaged)).map (fun p => (p.length + 1023) / 1024)).sum) ∧
          t = { s with
            dir := { s.dir with docs := t.dir.docs }, collect := t.collect
            link := { s.link with intake := t.link.intake, responses := t.link.responses, waiting := t.link.waiting } }

/-- R160, R161, R163, R174: Abort Transfer and Confirm Collected. An abort puts a Transfer End with status ABORTED in place of the frame that
waits and makes the document DUE again. A confirmation of a SENT document writes its COLLECT entry, drops the sent record and makes the
document DONE, after which it settles when no forward entry is PENDING (R41). MODEL'S CHOICE (log entry 26): the response to a Collect that the
document meets stands before Abort Transfer's own. -/
def Obligations.AbortAndConfirmEndTheTransfer : Prop :=
  ∀ (s : State) (r : Envelope) (doc : Nat), Takes s r →
    (findDoc s doc = none → exec (.abortTransfer r doc) s = .next (answered s r .abortTransfer .noSuch .empty) ∧
      exec (.confirmCollected r doc) s = .next (answered s r .confirmCollected .noSuch .empty)) ∧
    ∀ d, findDoc s doc = some d →
      ((∀ tr, s.collect.transfer = some tr → tr.doc = doc → tr.ending = some .aborted) →
        exec (.abortTransfer r doc) s = .next (answered s r .abortTransfer .wrongState .empty)) ∧
      (∀ tr, s.collect.transfer = some tr → tr.doc = doc → tr.ending ≠ some .aborted → doc ∉ readyQueue s d.dept →
        ∃ t answers now, exec (.abortTransfer r doc) s = .next t ∧
          t.link.waiting = some (.transferEnd doc .aborted tr.bytesSent d.digest (tr.crc ^^^ 0xFFFFFFFF) tr.pagesWhole tr.omitted) ∧
          t.collect.transfer = some { tr with ending := some .aborted } ∧
          Joined s t d s.collect.offers answers now ∧ findDoc t doc = some { d with disposition := now } ∧ OtherDocs s t doc ∧
          t.link.intake = afterTaking r.tag s.link.intake ∧
          t.link.responses = s.link.responses ++ answers ++ [⟨r.tag, .abortTransfer, .done, .empty⟩] ∧
          Marked s t (fun x => x = .department d.dept ∧ now = .due) ∧
          t = { s with
            dir := { s.dir with docs := t.dir.docs, ready := t.dir.ready }
            collect := { s.collect with queue := t.collect.queue, offers := t.collect.offers, transfer := t.collect.transfer }
            link := { s.link with
              intake := t.link.intake, responses := t.link.responses, notices := t.link.notices, waiting := t.link.waiting } }) ∧
      (d.disposition ≠ .sent → exec (.confirmCollected r doc) s = .next (answered s r .confirmCollected .wrongState .empty)) ∧
      (d.disposition = .sent → 8128 ≤ s.journal.unreleased →
        exec (.confirmCollected r doc) s = .next (answered s r .confirmCollected .journalFull .empty)) ∧
      ∀ x, d.disposition = .sent → s.journal.unreleased < 8128 →
        s.collect.sent.find? (fun y => decide (y.doc = doc)) = some x → ∃ t, exec (.confirmCollected r doc) s = .next t ∧
          let settles := d.life = .opened ∧ ∀ e ∈ d.forwards, e.state ≠ .pending
          t.journal = s.journal.written (.collect doc x.pagesWhole x.omitted) s.clock.cal s.clock.trusted ∧
          t.collect = { s.collect with sent := s.collect.sent.filter (fun y => decide (y.doc ≠ doc)) } ∧
          (∃ b : Bool, (b = true ↔ settles) ∧
            Responded s t r .confirmCollected .done (.confirmed (some s.journal.nextSeq) b)) ∧
          (¬ settles → findDoc t doc = some { d with disposition := .done } ∧ OtherDocs s t doc ∧ t.dir.reclaim = s.dir.reclaim ∧
            t.store = s.store) ∧
          (settles → 0 < (acct s d.dept).retention → OtherDocs s t doc ∧ t.store = s.store ∧
            t.dir.reclaim = s.dir.reclaim ++ [doc] ∧ findDoc t doc = some { d with
              disposition := .done, life := .settled, settleTime := some s.clock.cal
              deadline := some (s.clock.run + (acct s d.dept).retention * 3600000) }) ∧
          (settles → (acct s d.dept).retention = 0 → d.verifying = false → Freed s t d.dept (docBlocks d).length ∧
            findDoc t doc = none ∧ ∀ m, m ≠ doc → findDoc t m = findDoc s m) ∧
          t = { s with
            store := t.store, dir := t.dir, integrity := { s.integrity with exhausted := t.integrity.exhausted }
            journal := t.journal, collect := t.collect
            link := { s.link with intake := t.link.intake, responses := t.link.responses, notices := t.link.notices } }

/-! ## Forwarding (chapter 6) and the Caller Memory (chapter 5) -/

/-- R42, R117, R118, R119: Add Forward: the refusals in their order; an accepted one appends a PENDING entry and a WAITING job due at once,
owes the arbiter a run, and returns a SETTLED document to OPEN. A job asked for while the list is full leaves its entry FAILED with
TABLE-FULL. -/
def Obligations.AddForwardMakesAJob : Prop :=
  (∀ (s : State) (r : Envelope) (doc : Nat) (digits : Text), Takes s r →
    let c := Instr.addForward r doc digits
    let formed := 1 ≤ digits.length ∧ digits.length ≤ 24 ∧ allDigits digits = true
    (¬ formed → exec c s = .next (answered s r .addForward .badArgument .empty)) ∧
    (formed → findDoc s doc = none → exec c s = .next (answered s r .addForward .noSuch .empty)) ∧
    ∀ d, formed → findDoc s doc = some d →
      let early := d.life = .landing ∨ d.life = .held
      let twice := ∃ e ∈ d.forwards, e.state = .pending ∧ e.destination = digits
      (early → exec c s = .next (answered s r .addForward .wrongState .empty)) ∧
      (¬ early → 4 ≤ d.forwards.length → exec c s = .next (answered s r .addForward .limit .empty)) ∧
      (¬ early → d.forwards.length < 4 → twice → exec c s = .next (answered s r .addForward .inUse .empty)) ∧
      (¬ early → d.forwards.length < 4 → ¬ twice → 256 ≤ s.fwd.jobs.length →
        exec c s = .next (answered s r .addForward .tableFull .empty)) ∧
      (¬ early → d.forwards.length < 4 → ¬ twice → s.fwd.jobs.length < 256 → ∃ t j, exec c s = .next t ∧
        let entries := d.forwards ++ [⟨digits, .pending, 0, none, 0⟩]
        t.fwd = { s.fwd with
          jobs := s.fwd.jobs ++
            [⟨j, doc, d.forwards.length, digits, false, 0, s.clock.run, decide (d.priority = .urgent), false, none⟩]
          nextJob := if j < 65535 then j + 1 else 1, runOwed := true } ∧
        (JobsOk s → 1 ≤ j ∧ j ≤ 65535 ∧ ∀ k ∈ s.fwd.jobs, k.number ≠ j) ∧
        (d.life = .opened → findDoc t doc = some { d with forwards := entries } ∧ t.dir.reclaim = s.dir.reclaim) ∧
        (d.life = .settled →
          findDoc t doc = some { d with forwards := entries, life := .opened, settleTime := none, deadline := none } ∧
          t.dir.reclaim = s.dir.reclaim.filter (fun m => decide (m ≠ doc))) ∧
        OtherDocs s t doc ∧ Responded s t r .addForward .done (.forwardAdded d.forwards.length j) ∧
        t = { s with
          dir := { s.dir with docs := t.dir.docs, reclaim := t.dir.reclaim }, fwd := t.fwd
          link := { s.link with intake := t.link.intake, responses := t.link.responses } })) ∧
  ∀ (s : State) (d : Document) (i : Nat) (e : ForwardEntry) (dest : Text) (urgent : Bool), findDoc s d.number = some d →
    d.forwards[i]? = some e → d.life = .opened → 256 ≤ s.fwd.jobs.length → ∃ answers,
      let t := createJob d.number i dest urgent s
      EntryEnded s t d i { e with state := .failed, last := some .tableFull } (.failed .tableFull) answers ∧
      t.link.responses = s.link.responses ++ answers ∧
      t.fwd = { s.fwd with lastEnd := some ⟨d.number, i, .tableFull, true⟩ }

/-- R120, R121, R139, R174: Cancel Forward: the refusals in their order; an accepted one takes the entry's job from the list and ends the entry
as CANCELLED. A job IN-CALL has its call released on the line that carries it, with a NEUTRAL classification, and owes the arbiter a run.
MODEL'S CHOICE: the response to a Collect that the document meets stands before Cancel Forward's own (log entry 26), and a document whose
last PENDING entry is cancelled beside a FAILED one falls back (log entry 35). -/
def Obligations.CancelForwardEndsTheEntry : Prop :=
  ∀ (s : State) (r : Envelope) (doc index : Nat), Takes s r →
    let c := Instr.cancelForward r doc index
    (3 < index → exec c s = .next (answered s r .cancelForward .badArgument .empty)) ∧
    (index ≤ 3 → (∀ d e, findDoc s doc = some d → d.forwards[index]? = some e → e.state ≠ .pending) →
      exec c s = .next (answered s r .cancelForward .noSuch .empty)) ∧
    ∀ d e, index ≤ 3 → findDoc s doc = some d → d.forwards[index]? = some e → e.state = .pending →
      (8128 ≤ s.journal.unreleased → exec c s = .next (answered s r .cancelForward .journalFull .empty)) ∧
      ∀ j, s.journal.unreleased < 8128 → d.life = .opened →
        s.fwd.jobs.find? (fun k => decide (k.document = doc) && decide (k.index = index)) = some j →
        ∃ t answers, exec c s = .next t ∧
          EntryEnded s t d index { e with state := .cancelled } .cancelled answers ∧
          t.link.intake = afterTaking r.tag s.link.intake ∧
          t.link.responses = s.link.responses ++ answers ++ [⟨r.tag, .cancelForward, .done, .forwardCancelled j.inCall⟩] ∧
          t.fwd = { s.fwd with
            jobs := s.fwd.jobs.filter (fun k => decide (k.number ≠ j.number)), runOwed := s.fwd.runOwed || j.inCall } ∧
          (j.inCall = false → t.lines = s.lines ∧ t.callers = s.callers) ∧
          (∀ n w u, j.inCall = true → j.line = some n → (lineAt s n).call = some ⟨w, .sender u⟩ → u.job = j.number →
            sendingChan (lineAt s n).chan = true → OtherLines s t n ∧
            lineAt t n = (lineAt s n).releases s.clock.run .release ∧
            t.callers = { s.callers with handed := s.callers.handed ++ [⟨u.destination, .neutral⟩] }) ∧
          (∀ n, j.inCall = true → j.line = some n → (lineAt s n).chan = .releasing → t.lines = s.lines ∧ t.callers = s.callers) ∧
          t = { s with
            lines := t.lines, callers := t.callers, store := t.store, dir := t.dir, integrity := t.integrity, journal := t.journal
            fwd := t.fwd, collect := t.collect, link := t.link }

/-- R135, R136, R137, R140, R144: an attempt's outcome. For a job IN-CALL on that line the attempt is counted and shown in its entry: DELIVERED
ends the entry, and counts on the line; INCOMPATIBLE and DAMAGED, and any other outcome at the attempt limit, end it as FAILED; and
otherwise the job waits for the retry delay, doubling from the base up to the ceiling. Any other outcome is dropped. -/
def Obligations.OutcomesDecideTheJob : Prop :=
  ∀ (s : State) (a : AttemptEnd),
    ((∀ j, findJob s a.job = some j → j.inCall = false ∨ j.line ≠ some a.line) →
      exec (.attemptOutcome a) s = .next { s with fwd := { s.fwd with handed := s.fwd.handed.erase a } }) ∧
    ∀ j d e, findJob s a.job = some j → j.inCall = true → j.line = some a.line → findDoc s j.document = some d →
      d.forwards[j.index]? = some e → d.life = .opened → ∃ t answers, exec (.attemptOutcome a) s = .next t ∧
        let made := j.attempts + 1
        let counted : ForwardEntry := { e with attempts := made, last := some (.attempt a.outcome), pages := a.pages }
        let final := a.outcome = .delivered ∨ a.outcome = .incompatible ∨ a.outcome = .damaged ∨ s.policy.attemptLimit ≤ made
        t.fwd.handed = s.fwd.handed.erase a ∧ t.fwd.runOwed = true ∧ t.link.responses = s.link.responses ++ answers ∧
        OtherLines s t a.line ∧
        (∃ ended : Bool, (ended = true ↔ final) ∧ t.fwd.lastEnd = some ⟨j.document, j.index, .attempt a.outcome, ended⟩) ∧
        (a.outcome = .delivered → EntryEnded s t d j.index { counted with state := .delivered } .delivered answers ∧
          lineAt t a.line = { lineAt s a.line with stats := { (lineAt s a.line).stats with
            delivered := min 65535 ((lineAt s a.line).stats.delivered + 1) } }) ∧
        (a.outcome ≠ .delivered → t.lines = s.lines) ∧
        (final → t.fwd.jobs = s.fwd.jobs.filter (fun k => decide (k.number ≠ a.job))) ∧
        (final → a.outcome ≠ .delivered →
          EntryEnded s t d j.index { counted with state := .failed } (.failed (.attempt a.outcome)) answers) ∧
        (¬ final → answers = [] ∧ findDoc t j.document = some { d with forwards := d.forwards.set j.index counted } ∧
          OtherDocs s t j.document ∧ t.journal = s.journal ∧
          t.fwd.jobs = s.fwd.jobs.map (fun k => if k.number = a.job then { k with
            attempts := made, line := none, inCall := false
            nextDue := s.clock.run + min (s.policy.retryBase * 2 ^ j.attempts) s.policy.retryCeiling * 1000 } else k) ∧
          Marked s t (fun x => x = .forward) ∧ t.dir.reclaim = s.dir.reclaim ∧ t.collect = s.collect ∧ t.store = s.store) ∧
        t = { s with
          lines := t.lines, store := t.store, dir := t.dir, integrity := t.integrity, journal := t.journal, fwd := t.fwd
          collect := t.collect, link := t.link }

/-- R94, R122, R123, R124, R125, R126, R127, R128: a run of the arbiter. It grants nothing outside phase READY, while forwarding is
suspended, at high water, or while no more lines than the inbound reserve are shown IDLE, and it never takes them below that reserve; the
job first in the order goes to the lowest line shown IDLE and permitted, which enters SEIZED and dials. R116, R143: Resume Forwarding ends
the suspension, marks FORWARD and owes the arbiter a run when there was one; JOB_DUE brings run time to a WAITING job's next due and owes
the arbiter a run. MODEL'S CHOICE: until the remote's offer the new call record has step 0, resolution STANDARD and page 1 (log entry 18),
JOB_DUE brings run time up to that due (log entry 5), and run time, should it come there, stands at the last of its 64 bits (log entry
27). -/
def Obligations.ArbiterKeepsTheReserve : Prop :=
  (∀ s : State, ∃ t, exec .arbiterRun s = .next t ∧ t.fwd.runOwed = false ∧
    let open' := s.part.phase = some .ready ∧ s.fwd.suspended = false ∧ s.journal.unreleased < 8128
    (¬ open' ∨ shown s ≤ s.policy.inboundReserve → t = { s with fwd := { s.fwd with runOwed := false } }) ∧
    min (shown s) s.policy.inboundReserve ≤ shown t ∧
    (∀ n : LineNo, s.fwd.view[n].available = false ∨ s.fwd.view[n].permitted = false →
      lineAt t n = lineAt s n ∧ t.fwd.view[n] = s.fwd.view[n]) ∧
    (∀ (j : Job) (n : LineNo), open' → s.policy.inboundReserve < shown s → JobsOk s → mayDial s j →
      (∀ k, mayDial s k → k ≠ j → j.before k) → s.fwd.view[n] = ⟨true, true⟩ →
      (∀ m : LineNo, m < n → s.fwd.view[m] ≠ ⟨true, true⟩) →
      (lineAt s n).service = .inService → (lineAt s n).pendingService = none → (lineAt s n).outbound = true →
      (lineAt s n).chan = .idle →
      { j with inCall := true, line := some n, interrupted := false } ∈ t.fwd.jobs ∧
      t.fwd.view[n] = ⟨false, true⟩ ∧
      lineAt t n = { (lineAt s n).sends s.clock.run (.dial j.destination) with
        chan := .seized
        call := some ⟨none, .sender ⟨j.number, j.document, j.destination, 0, .standard, 1, 0, 0, 0, 0, false, false, false, false⟩⟩
        stats := { (lineAt s n).stats with placed :=
          if (lineAt s n).stats.placed < 65535 then (lineAt s n).stats.placed + 1 else 65535 } }) ∧
    t.fwd.jobs.map (fun j => j.number) = s.fwd.jobs.map (fun j => j.number) ∧
    t = { s with lines := t.lines, fwd := { s.fwd with jobs := t.fwd.jobs, view := t.fwd.view, runOwed := false } }) ∧
  (∀ (s : State) (r : Envelope), TakesBare s r → ∃ t, exec (.resumeForwarding r) s = .next t ∧
    t.fwd = { s.fwd with suspended := false, runOwed := s.fwd.runOwed || s.fwd.suspended } ∧
    Responded s t r .resumeForwarding .done (.resumed s.fwd.jobs.length s.fwd.suspended) ∧
    Marked s t (fun x => x = .forward ∧ s.fwd.suspended = true) ∧
    t = { s with
      fwd := t.fwd, link := { s.link with intake := t.link.intake, responses := t.link.responses, notices := t.link.notices } }) ∧
  ∀ (s : State) (job : Nat) (j : Job), findJob s job = some j →
    (j.inCall = true → exec (.jobDue job) s = .next s) ∧
    (j.inCall = false → ∃ t, exec (.jobDue job) s = .next t ∧ t.clock.run = max s.clock.run (min j.nextDue 18446744073709551615) ∧
      t.fwd = { s.fwd with runOwed := true } ∧ t = { s with clock := t.clock, dram := t.dram, fwd := t.fwd })

/-- R107, R108, R109, R110, R114, R115: the Caller Memory takes a classification, and Forget Caller. FAILED makes an entry, over the least
recently used one when 512 are held, or raises the count, and at the fail limit lowers the ceiling or, at ceiling 0, removes the entry;
CLEAN raises the ceiling, and at ceiling 4 removes the entry; NEUTRAL does nothing. Every other entry stands. Before the store is
initialized there is no call to classify, and the table stays empty (R104). MODEL'S CHOICE (log entry 6, DEDUCED): in phase RESTARTING,
where R115 says that none arrives, one is taken as in READY. -/
def Obligations.ClassificationsTeachTheCallerMemory : Prop :=
  (∀ (s : State) (number : Text) (cls : CallClass), s.part.phase = none ∨ s.part.phase = some .starting →
    exec (.callerClassification number cls) s = .next s) ∧
  (∀ (s : State) (number : Text) (cls : CallClass), s.part.phase = some .ready ∨ s.part.phase = some .restarting → CallersOk s →
    ∃ t, exec (.callerClassification number cls) s = .next t ∧
      let others (gone : Option Text) := ∀ m, m ≠ number → some m ≠ gone → findCaller t.callers.table m = findCaller s.callers.table m
      let F := s.policy.failLimit
      (cls = .neutral → t.callers.table = s.callers.table) ∧
      (cls = .clean → findCaller s.callers.table number = none → t.callers.table = s.callers.table) ∧
      (cls = .failed → findCaller s.callers.table number = none →
        findCaller t.callers.table number = some ⟨number, 5, 1, s.clock.run⟩ ∧
        (s.callers.table.length < 512 → others none) ∧
        (s.callers.table.length = 512 → ∃ v ∈ s.callers.table, others (some v.number) ∧ findCaller t.callers.table v.number = none ∧
          ∀ e ∈ s.callers.table, v.lastUsed < e.lastUsed ∨
            (v.lastUsed = e.lastUsed ∧ (v = e ∨ numberBefore v.number e.number = true)))) ∧
      (∀ e, cls = .failed → findCaller s.callers.table number = some e → others none ∧
        (e.fails + 1 < F → findCaller t.callers.table number = some ⟨number, e.ceiling, e.fails + 1, s.clock.run⟩) ∧
        (F ≤ e.fails + 1 → 0 < e.ceiling → findCaller t.callers.table number = some ⟨number, e.ceiling - 1, 0, s.clock.run⟩) ∧
        (F ≤ e.fails + 1 → e.ceiling = 0 → findCaller t.callers.table number = none)) ∧
      (∀ e, cls = .clean → findCaller s.callers.table number = some e → others none ∧
        (e.ceiling < 4 → findCaller t.callers.table number = some ⟨number, e.ceiling + 1, 0, s.clock.run⟩) ∧
        (4 ≤ e.ceiling → findCaller t.callers.table number = none)) ∧
      t = { s with callers := ⟨t.callers.table, s.callers.handed.erase ⟨number, cls⟩⟩ }) ∧
  ∀ (s : State) (r : Envelope) (number : Text), Takes s r →
    (isNumber number = false → exec (.forgetCaller r number) s = .next (answered s r .forgetCaller .badArgument .empty)) ∧
    (isNumber number = true → findCaller s.callers.table number = none →
      exec (.forgetCaller r number) s = .next (answered s r .forgetCaller .noSuch .empty)) ∧
    ∀ e, isNumber number = true → findCaller s.callers.table number = some e → ∃ t, exec (.forgetCaller r number) s = .next t ∧
      findCaller t.callers.table number = none ∧
      (∀ m, m ≠ number → findCaller t.callers.table m = findCaller s.callers.table m) ∧
      Responded s t r .forgetCaller .done (.forgotten e.ceiling e.fails) ∧
      t = { s with
        callers := { s.callers with table := t.callers.table }
        link := { s.link with intake := t.link.intake, responses := t.link.responses } }

/-! ## Lines: inbound calls (chapter 4) -/

/-- R75, R76, R77, R78, R95, R99: the events of a ringing line that do not bring its call to admission (InboundCallsAreAdmitted speaks of
those that do). A RING on an IDLE line that is IN-SERVICE begins a call; on an ALERTED one it counts; on a line that dials it is counted
once; RING-END ends a ringing call and applies a pending service state; digits join the string up to 16, a calling number is noted, and
the digit window's expiry closes the digits. Outside phase READY a RING is ignored. MODEL'S CHOICE: the end of a ringing call marks its
line (log entry 14, DEDUCED), and the window's expiry leaves closed digits as they are (log entry 24, DEDUCED); it brings run time up to
the expiry (log entry 5), or to the last of its 64 bits (log entry 27). -/
def Obligations.RingingGathersTheNumbers : Prop :=
  ∀ (s : State) (n : LineNo), Hears s n →
    let l := lineAt s n
    let only (t : State) := t = { s with lines := t.lines } ∧ OtherLines s t n
    (s.part.phase = some .restarting → exec (.ring n) s = .next s) ∧
    (s.part.phase = some .ready → l.chan = .idle → l.service = .inService → ∃ t, exec (.ring n) s = .next t ∧
      lineAt t n = { l with
        chan := .alerted
        call := some ⟨some ⟨.digitWindow, s.clock.run + 4000⟩, .receiver ⟨1, [], false, none, none, none, none, none, none, none, 0, 0, 0,
          none, none, none, false, false, false, false, false⟩⟩
        stats := { l.stats with offered := min 65535 (l.stats.offered + 1) } } ∧
      t.fwd.view[n] = ⟨false, l.outbound⟩ ∧ OtherViews s t n ∧ OtherLines s t n ∧
      t = { s with lines := t.lines, fwd := { s.fwd with view := t.fwd.view } }) ∧
    (l.chan = .idle → l.service = .busyOut → exec (.ring n) s = .next s) ∧
    (receivingChan l.chan = true → txOf l = none → exec (.ring n) s = .next s) ∧
    (l.chan = .releasing → exec (.ring n) s = .next s) ∧
    (∀ w u, s.part.phase = some .ready → l.call = some ⟨w, .sender u⟩ → sendingChan l.chan = true →
      (u.glare = true → exec (.ring n) s = .next s) ∧
      (u.glare = false → ∃ t, exec (.ring n) s = .next t ∧ only t ∧
        lineAt t n = { l with
          call := some ⟨w, .sender { u with glare := true }⟩
          stats := { l.stats with offeredSeized := min 65535 (l.stats.offeredSeized + 1) } })) ∧
    (l.chan = .alerted → ∀ c, c = Instr.ringEnd n ∨ c = .released n → ∃ t, exec c s = .next t ∧
      lineAt t n = l.idles s.clock.run ∧ OtherLines s t n ∧ ToldRun s t n ∧ Marked s t (fun x => x = .line n) ∧
      t = { s with
        lines := t.lines, fwd := { s.fwd with view := t.fwd.view, runOwed := true }, link := { s.link with notices := t.link.notices } }) ∧
    (l.chan ≠ .alerted → exec (.ringEnd n) s = .next s ∧ (∀ x, exec (.callingNumber n x) s = .next s) ∧
      ∀ x b, exec (.digits n x b) s = .next s) ∧
    ∀ w c, l.chan = .alerted → l.call = some ⟨w, .receiver c⟩ →
      let becomes (t : State) (w' : Option Wait) (c' : RxCall) := lineAt t n = { l with call := some ⟨w', .receiver c'⟩ }
      (s.part.phase = some .ready → c.closed = false ∨ c.rings + 1 < s.policy.answerRings → ∃ t, exec (.ring n) s = .next t ∧ only t ∧
        becomes t w { c with rings := min 255 (c.rings + 1) }) ∧
      (∀ x, (isNumber x = true → ∃ t, exec (.callingNumber n x) s = .next t ∧ only t ∧ becomes t w { c with calling := some x }) ∧
        (isNumber x = false → exec (.callingNumber n x) s = .next s)) ∧
      (∀ x b, (c.closed = true ∨ allDigits x = false → exec (.digits n x b) s = .next s) ∧
        (c.closed = false → allDigits x = true →
          c.rings < s.policy.answerRings ∨ (b = false ∧ (c.digits ++ x).length < 16) → ∃ t, exec (.digits n x b) s = .next t ∧ only t ∧
            becomes t w { c with
              digits := (c.digits ++ x).take 16, closed := b || decide (16 ≤ (c.digits ++ x).length) })) ∧
      ∀ e, w = some ⟨.digitWindow, e⟩ → c.closed = true ∨ c.rings < s.policy.answerRings → ∃ t,
        exec (.digitWindowExpiry n) s = .next t ∧ becomes t none { c with closed := true } ∧ OtherLines s t n ∧
        t.clock.run = max s.clock.run (min e 18446744073709551615) ∧
        t = { s with clock := t.clock, dram := t.dram, fwd := { s.fwd with runOwed := t.fwd.runOwed }, lines := t.lines }

/-- R11, R12, R15, R22, R29, R30, R79, R80, R81, R82, R102, R105: a ring, the closing digits, or the digit window's expiry (at its time)
that brings an ALERTED call to admission in phase READY, its record then c' with wait w'. The call is looked up; at high water it is
refused; with no record to be had it is refused with reason DIRECTORY, and with a reservation that fails, with reason QUOTA; else it is
answered and offered. With every record in use, and while the reservation fails and reclaim finds a document, the oldest it may purge goes
first. MODEL'S CHOICE: with the document numbers run out nothing is purged for the call (log entry 21, DEDUCED). An admission that Set
Policy brings about (R79) is the same: admission n is what a ring does that finds the call one ring short. -/
def Obligations.InboundCallsAreAdmitted : Prop :=
  (∀ (s : State) (n : LineNo) (w : Option Wait) (c : RxCall), Hears s n → s.part.phase = some .ready → (lineAt s n).chan = .alerted →
    (lineAt s n).call = some ⟨w, .receiver c⟩ → c.closed = true → s.policy.answerRings ≤ c.rings → 1 ≤ c.rings → c.rings ≤ 255 →
    exec (.ring n) (modRx n (fun x => { x with rings := c.rings - 1 }) s) = .next (admission n s)) ∧
  ∀ (s : State) (n : LineNo) (w w' : Option Wait) (c c' : RxCall) (ev : Instr), Hears s n → s.part.phase = some .ready →
    (lineAt s n).chan = .alerted → (lineAt s n).call = some ⟨w, .receiver c⟩ → c'.closed = true → s.policy.answerRings ≤ c'.rings →
    (ev = .ring n ∧ w' = w ∧ c' = { c with rings := min 255 (c.rings + 1) }) ∨
      (∃ x b, ev = .digits n x b ∧ w' = w ∧ c.closed = false ∧ allDigits x = true ∧ c' = { c with
        digits := (c.digits ++ x).take 16, closed := b || decide (16 ≤ (c.digits ++ x).length) }) ∨
      (∃ e, ev = .digitWindowExpiry n ∧ w = some ⟨.digitWindow, e⟩ ∧ e ≤ s.clock.run ∧ s.clock.cal.ms ≤ 999 ∧
        s.clock.cal.sec ≤ 4294967295 ∧ w' = none ∧ c.closed = false ∧ c' = { c with closed := true }) →
    let l : Line := { lineAt s n with call := some ⟨w', .receiver { c' with route := none }⟩ }
    let route := lookupRoute s.routes (if c'.digits = [] then l.defaultKey.getD [] else c'.digits)
    let k := s.policy.landingAllotment
    let a := acct s route.dept
    let growth : Nat := (a.used + a.resv + k - a.guarantee) - (a.used + a.resv - a.guarantee)
    let refused (t : State) := OtherLines s t n ∧
      lineAt t n = { l.releases s.clock.run .reject with stats := { l.stats with refused := min 65535 (l.stats.refused + 1) } } ∧
      (s.link.classes.line = true → Subject.line n ∈ t.link.notices)
    (8128 ≤ s.journal.unreleased → ∃ t, exec ev s = .next t ∧ refused t ∧ Marked s t (fun x => x = .line n) ∧
      t = { s with lines := t.lines, link := { s.link with notices := t.link.notices } }) ∧
    (s.journal.unreleased < 8128 →
      (4294967295 < s.dir.nextNumber ∨ (4096 ≤ s.dir.docs.length ∧ NoneLeft s (fun _ => True))) → ∃ t, exec ev s = .next t ∧ refused t ∧
        t.journal = s.journal.written (.refused n c'.digits c'.calling .directory) s.clock.cal s.clock.trusted ∧
        t = { s with lines := t.lines, journal := t.journal, link := { s.link with notices := t.link.notices } }) ∧
    (∀ m, s.journal.unreleased < 8128 → s.dir.nextNumber ≤ 4294967295 → s.dir.docs.length = 4096 → Oldest s (fun _ => True) m →
      exec ev s = exec ev (evalPressure (purgeDoc m s))) ∧
    (∀ m, s.journal.unreleased < 8128 → s.dir.nextNumber ≤ 4294967295 → s.dir.docs.length < 4096 →
      s.dir.nextNumber ∉ s.dir.reclaim → Reclaims s route.dept k m → exec ev s = exec ev (purgeDoc m s)) ∧
    (∀ cause, s.journal.unreleased < 8128 → s.dir.nextNumber ≤ 4294967295 → s.dir.docs.length < 4096 →
      s.dir.nextNumber ∉ s.dir.reclaim → TestFails s route.dept k cause → ∃ t, exec ev s = .next t ∧ refused t ∧
        t.journal = s.journal.written (.refused n c'.digits c'.calling .quota) s.clock.cal s.clock.trusted ∧
        acct t route.dept = { a with lastFailure := some ⟨cause, k, s.clock.run⟩ } ∧
        (∀ d : Dept, d ≠ route.dept → acct t d = acct s d) ∧
        t.dir = { s.dir with
          docs := s.dir.docs.filter (fun x => decide (x.number ≠ s.dir.nextNumber)), nextNumber := s.dir.nextNumber + 1 } ∧
        (s.link.classes.department = true → Subject.department route.dept ∈ t.link.notices) ∧
        t = { s with
          lines := t.lines, journal := t.journal, dir := t.dir
          store := { s.store with accounts := t.store.accounts, pressure := t.store.pressure }
          link := { s.link with notices := t.link.notices } }) ∧
    (s.journal.unreleased < 8128 → s.dir.nextNumber ≤ 4294967295 → s.dir.docs.length < 4096 → allotment s n = ⟨none, 0⟩ →
      a.used + a.resv + k ≤ a.cap → sharedCommitted s + growth ≤ sharedPool s → ∃ (t : State) (d : Document) (most : Nat),
        exec ev s = .next t ∧
        t.dir = { s.dir with docs := s.dir.docs ++ [d], nextNumber := s.dir.nextNumber + 1 } ∧
        (d.number = s.dir.nextNumber ∧ d.dept = route.dept ∧ d.routeKey = route.key ∧ d.plan = route.plan ∧
          d.priority = route.priority ∧ d.line = n ∧ d.called = c'.digits ∧ d.calling = c'.calling ∧ d.answerTime = s.clock.cal ∧
          d.life = .landing ∧ d.pages = [] ∧ d.landing = none ∧ d.forwards = [] ∧ d.disposition = .none ∧ d.crc = 0xFFFFFFFF) ∧
        acct t route.dept = { a with resv := a.resv + k } ∧ allotment t n = ⟨some route.dept, k⟩ ∧
        t.store.pressure = pressureAfter s.store.pressure t ∧
        (c'.calling = none → most = min l.maxStep 5 ∧ t.callers = s.callers) ∧
        (∀ x, c'.calling = some x → findCaller s.callers.table x = none → most = min l.maxStep 5 ∧ t.callers = s.callers) ∧
        (∀ x e, c'.calling = some x → findCaller s.callers.table x = some e → most = min l.maxStep e.ceiling ∧
          findCaller t.callers.table x = some { e with lastUsed := s.clock.run }) ∧
        lineAt t n = { (l.sends s.clock.run .answer).sends s.clock.run (.offer most (!t.store.pressure)) with
          chan := .negotiating
          call := some ⟨some ⟨.receiverSignal, s.clock.run + 6000⟩, .receiver { c' with
            route := some route, document := some s.dir.nextNumber, offeredMax := some most
            fineAllowed := some (!t.store.pressure) }⟩
          stats := { l.stats with answered := min 65535 (l.stats.answered + 1) } } ∧
        OtherLines s t n ∧ t.journal = s.journal ∧
        t = { s with
          lines := t.lines, dir := t.dir, callers := { s.callers with table := t.callers.table }
          store := { s.store with
            accounts := t.store.accounts, allotments := t.store.allotments, pressure := t.store.pressure }
          link := { s.link with notices := t.link.notices } })

/-- R82, R83, R84: REMOTE_CHOICE and TRAINING_DONE in the receiver role, on a call whose document's landing page has had no data. A valid choice
is trained; a training that passes at the chosen step leads to RECEIVING; an invalid choice and any other training are failures, which
go back to where the choice was made, and at the third end the call. The remote identity is kept, up to 20 characters. In any other state
of the channel, and once the page now arriving has data, these events are ignored (R75). -/
def Obligations.ChoicesAreTrained : Prop :=
  (∀ (s : State) (n : LineNo),
    ((lineAt s n).chan ≠ .training → ∀ step pass, exec (.trainingDone n step pass) s = .next s) ∧
    ((lineAt s n).chan ≠ .negotiating → (lineAt s n).chan ≠ .receiving →
      ∀ step res identity, exec (.remoteChoice n step res identity) s = .next s) ∧
    ∀ w c d, (lineAt s n).chan = .receiving → (lineAt s n).call = some ⟨w, .receiver c⟩ → c.document = some d.number →
      findDoc s d.number = some d → d.landing ≠ none → ∀ step res identity, exec (.remoteChoice n step res identity) s = .next s) ∧
  ∀ (s : State) (n : LineNo) (w : Option Wait) (c : RxCall) (d : Document), Hears s n → RxFits s n c d →
    (lineAt s n).call = some ⟨w, .receiver c⟩ → d.landing = none →
    let l := lineAt s n
    let waiting : Option Wait := some ⟨.receiverSignal, s.clock.run + 6000⟩
    let failed (t : State) (back : Chan) (d' : Document) :=
      (c.trainFails < 2 → lineAt t n = { l.sends s.clock.run (.trainingReply false) with
        chan := back, call := some ⟨waiting, .receiver { c with trainFails := c.trainFails + 1 }⟩
        stats := { l.stats with trainFails := min 65535 (l.stats.trainFails + 1) } }) ∧
      (2 ≤ c.trainFails → RxEnded (modDoc d.number (fun _ => d') s) t n c d' .partialLineLost .failed ∧ t.fwd.view = s.fwd.view ∧
        lineAt t n = Line.releases { l.sends s.clock.run (.trainingReply false) with
          call := some ⟨w, .receiver { c with trainFails := c.trainFails + 1 }⟩
          stats := { l.stats with trainFails := min 65535 (l.stats.trainFails + 1) } } s.clock.run .release)
    (∀ step res identity, l.chan = .negotiating ∨ l.chan = .receiving →
      let named : Document := { d with remoteId := some (identity.take 20) }
      let valid := (∃ m, c.offeredMax = some m ∧ step ≤ m) ∧ (res = .standard ∨ c.fineAllowed = some true)
      ∃ t, exec (.remoteChoice n step res identity) s = .next t ∧ OtherLines s t n ∧
        (valid → findDoc t d.number = some named ∧ OtherDocs s t d.number ∧ t = { s with dir := { s.dir with docs := t.dir.docs }, lines := t.lines } ∧
          lineAt t n = { l.sends s.clock.run (.train step) with
            chan := .training
            call := some ⟨waiting, .receiver { c with
              step := some step, resolution := some res, fromReceiving := decide (l.chan = .receiving) }⟩ }) ∧
        (¬ valid → (c.trainFails < 2 → findDoc t d.number = some named ∧ OtherDocs s t d.number ∧
          t = { s with dir := { s.dir with docs := t.dir.docs }, lines := t.lines }) ∧ failed t l.chan named)) ∧
    (∀ step pass, l.chan = .training → ∃ t, exec (.trainingDone n step pass) s = .next t ∧ OtherLines s t n ∧
      (pass = true → c.step = some step → t = { s with lines := t.lines } ∧
        lineAt t n = { l.sends s.clock.run (.trainingReply true) with chan := .receiving, call := some ⟨waiting, .receiver c⟩ }) ∧
      (pass = false ∨ c.step ≠ some step →
        (c.trainFails < 2 → t = { s with lines := t.lines }) ∧
        failed t (if c.fromReceiving then .receiving else .negotiating) d))

/-- R5, R11, R12, R16, R31, R32, R85, R190: PAGE_DATA in RECEIVING, of at most 256 bytes. They join the page now arriving, which is begun by its
first data, and its CRC is carried over them; whole groups of 8 bytes reach the store, and no other byte of it changes. When they do not
fit the page's blocks a further block is drawn, from the line's allotment or with none left there directly, by the test; a page of 32
blocks takes what fits and is marked oversize, and one whose draw the test refuses is marked store full. While the test fails and reclaim
finds a document, that one goes first. A page so marked drops its data. Every PAGE_DATA renews the 12 s wait; in any other state of the
channel it is ignored (R75). -/
def Obligations.PageDataReachesTheStore : Prop :=
  (∀ (s : State) (n : LineNo) (bytes : List Byte), (lineAt s n).chan ≠ .receiving → exec (.pageData n bytes) s = .next s) ∧
  ∀ (s : State) (n : LineNo) (w : Option Wait) (c : RxCall) (d : Document) (bytes : List Byte), Hears s n →
    (lineAt s n).chan = .receiving → (lineAt s n).call = some ⟨w, .receiver c⟩ → c.document = some d.number →
    findDoc s d.number = some d → bytes.length ≤ 256 →
    let l := lineAt s n
    let waiting : Option Wait := some ⟨.page, s.clock.run + 12000⟩
    let before : Landing := d.landing.getD ⟨d.pages.length + 1, c.resolution.getD .standard, c.step.getD 0, [], 0, [], d.crc⟩
    (c.discard ≠ none → ∃ t, exec (.pageData n bytes) s = .next t ∧ OtherLines s t n ∧
      lineAt t n = { l with call := some ⟨waiting, .receiver c⟩ } ∧ t = { s with lines := t.lines }) ∧
    (c.discard = none → MemoryCanonical s → before.length ≤ before.blocks.length * 8192 → before.held.length = before.length % 8 →
      let room := before.blocks.length * 8192 - before.length
      let full := before.blocks.length * 8192 < before.length + bytes.length
      (∀ m, full → before.blocks.length < 32 → (allotment s n).count = 0 → m ≠ d.number → Reclaims s d.dept 1 m →
        exec (.pageData n bytes) s = exec (.pageData n bytes) (purgeDoc m s)) ∧
      ∀ (blocks : List Block) (taken : Nat) (cause : Option DiscardCause) (direct : Bool) (failed : Option AllocCause),
        (direct = false ∧ failed = none ∧ ¬ full ∧ blocks = before.blocks ∧ taken = bytes.length ∧ cause = none) ∨
          (failed = none ∧ full ∧ before.blocks.length < 32 ∧ taken = bytes.length ∧ cause = none ∧
            ((direct = false ∧ 0 < (allotment s n).count) ∨
              (direct = true ∧ (allotment s n).count = 0 ∧ CapPasses s d.dept 1 ∧ SharedPasses s d.dept 1)) ∧
            ∃ b rest, s.store.free = b :: rest ∧ blocks = before.blocks ++ [b]) ∨
          (direct = false ∧ failed = none ∧ full ∧ 32 ≤ before.blocks.length ∧ blocks = before.blocks ∧ taken = room ∧
            cause = some .oversize) ∨
          (direct = true ∧ (∃ why, failed = some why ∧ TestFails s d.dept 1 why) ∧ full ∧ before.blocks.length < 32 ∧
            (allotment s n).count = 0 ∧ blocks = before.blocks ∧ taken = room ∧ cause = some .storeFull) → blocks.Nodup →
        ∃ t, exec (.pageData n bytes) s = .next t ∧
          let data := before.held ++ bytes.take taken
          let start := before.length - before.held.length
          let whole := data.length / 8 * 8
          findDoc t d.number = some { d with landing := some { before with
            blocks := blocks, length := before.length + taken, held := data.drop whole, crc := crc32Run before.crc (bytes.take taken) } } ∧
          OtherDocs s t d.number ∧
          (∀ i, i < whole → ∃ a, pageAddress blocks (start + i) = some a ∧ some (readByte t.mem a) = data[i]?) ∧
          (∀ a, (∀ i, i < whole → pageAddress blocks (start + i) ≠ some a) → readByte t.mem a = readByte s.mem a) ∧
          OtherLines s t n ∧ lineAt t n = { l with call := some ⟨waiting, .receiver { c with discard := cause }⟩ } ∧
          (blocks = before.blocks → cause ≠ some .storeFull → t.store = s.store) ∧
          (∀ why, failed = some why → t.store.free = s.store.free ∧ t.store.allotments = s.store.allotments ∧
            acct t d.dept = { acct s d.dept with lastFailure := some ⟨why, 1, s.clock.run⟩ } ∧
            t.store.pressure = pressureAfter s.store.pressure t ∧
            (s.link.classes.department = true → Subject.department d.dept ∈ t.link.notices)) ∧
          (blocks ≠ before.blocks → t.store.free = s.store.free.tail ∧
            acct t d.dept = { acct s d.dept with
              used := (acct s d.dept).used + 1, resv := if direct then (acct s d.dept).resv else (acct s d.dept).resv - 1 } ∧
            allotment t n = { allotment s n with count := if direct then 0 else (allotment s n).count - 1 } ∧
            t.store.pressure = pressureAfter s.store.pressure t) ∧
          (∀ e : Dept, e ≠ d.dept → acct t e = acct s e) ∧ (∀ m : LineNo, m ≠ n → allotment t m = allotment s m) ∧
          t = { s with
            lines := t.lines, mem := t.mem, dram := t.dram, dir := { s.dir with docs := t.dir.docs }
            store := { s.store with
              free := t.store.free, accounts := t.store.accounts, allotments := t.store.allotments, pressure := t.store.pressure }
            link := { s.link with notices := t.link.notices } })

/-- R17, R18, R20, R31, R86, R87, R88, R190: PAGE_END in RECEIVING, with T and B its scan lines, at most 16,383 and at most T. A discard cause,
an empty page, T = 0 and more than one bad line in 16 reject the page; at most one in 64 accept it, and else it is accepted with a
retrain. An accepted page becomes a page record, after which the line's allotment is topped up when it has fallen below half; a rejected
one gives its blocks back. Either way the page's last group is written. SEND-VERDICT is sent and the channel waits for its acknowledgment.
In any other state of the channel PAGE_END is ignored (R75). -/
def Obligations.PagesAreJudged : Prop :=
  (∀ (s : State) (n : LineNo) (total bad : Nat) (last : Bool), (lineAt s n).chan ≠ .receiving →
    exec (.pageEnd n total bad last) s = .next s) ∧
  ∀ (s : State) (n : LineNo) (w : Option Wait) (c : RxCall) (d : Document) (total bad : Nat) (last : Bool), Hears s n →
    (lineAt s n).chan = .receiving → (lineAt s n).call = some ⟨w, .receiver c⟩ → c.document = some d.number →
    findDoc s d.number = some d →
    let l := lineAt s n
    let T := min total 16383
    let B := min bad T
    let L := s.policy.landingAllotment
    let k := L - (allotment s n).count
    let due := 2 * (allotment s n).count < L
    ∀ (v : Verdict) (cause : Option VerdictCause),
      (c.discard = some .oversize ∧ v = .reject ∧ cause = some .oversize) ∨
        (c.discard = some .storeFull ∧ v = .reject ∧ cause = some .storeFull) ∨
        (c.discard = none ∧ (∀ p, d.landing = some p → p.length = 0) ∧ v = .reject ∧ cause = some .empty) ∨
        (c.discard = none ∧ ∃ p, d.landing = some p ∧ 0 < p.length ∧
          ((T = 0 ∧ v = .reject ∧ cause = some .quality) ∨ (0 < T ∧ 64 * B ≤ T ∧ v = .accept ∧ cause = none) ∨
            (0 < T ∧ T < 64 * B ∧ 16 * B ≤ T ∧ v = .acceptRetrain ∧ cause = none) ∨
            (0 < T ∧ T < 16 * B ∧ v = .reject ∧ cause = some .quality))) →
      (∀ m, v ≠ .reject → due → m ≠ d.number → Reclaims s d.dept k m →
        exec (.pageEnd n total bad last) s = exec (.pageEnd n total bad last) (purgeDoc m s)) ∧
      (v = .reject ∨ ¬ due ∨ (CapPasses s d.dept k ∧ SharedPasses s d.dept k) ∨ (∃ why, TestFails s d.dept k why) →
      ∃ t, exec (.pageEnd n total bad last) s = .next t ∧ OtherLines s t n ∧ OtherDocs s t d.number ∧
        (v = .reject → findDoc t d.number = some { d with landing := none } ∧
          (d.landing = none → t.store = s.store) ∧
          (∀ p, d.landing = some p → Freed s t d.dept p.blocks.length ∧
            acct t d.dept = { acct s d.dept with used := (acct s d.dept).used - p.blocks.length } ∧
            t.store.allotments = s.store.allotments) ∧
          lineAt t n = { l.sends s.clock.run (.sendVerdict .reject) with
            chan := .verdict
            call := some ⟨none, .receiver { c with
              rejects := c.rejects + 1, firstVerdict := true, anyReject := true, lastVerdict := some .reject, lastCause := cause
              discard := none, lastPage := last }⟩
            stats := { l.stats with pagesRejected := min 65535 (l.stats.pagesRejected + 1) } }) ∧
        (v ≠ .reject → ∃ p, d.landing = some p ∧
          findDoc t d.number = some { d with
            pages := d.pages ++ [⟨p.number, p.resolution, p.step, p.length, p.blocks, T, B, v, false⟩], landing := none, crc := p.crc } ∧
          lineAt t n = { l.sends s.clock.run (.sendVerdict v) with
            chan := .verdict
            call := some ⟨none, .receiver { c with
              pages := c.pages + 1, rejects := 0, firstVerdict := true, anyRetrain := c.anyRetrain || decide (v = .acceptRetrain)
              lastVerdict := some v, lastCause := none, discard := none, lastPage := last }⟩
            stats := { l.stats with pagesAccepted := min 65535 (l.stats.pagesAccepted + 1) } }) ∧
        (v ≠ .reject → ¬ due → t.store = s.store) ∧
        (v ≠ .reject → due → t.store.pressure = pressureAfter s.store.pressure t ∧
          (CapPasses s d.dept k → SharedPasses s d.dept k →
            acct t d.dept = { acct s d.dept with resv := (acct s d.dept).resv + k } ∧ allotment t n = ⟨some d.dept, L⟩ ∧
            (∀ m : LineNo, m ≠ n → allotment t m = allotment s m)) ∧
          (∀ why, TestFails s d.dept k why → acct t d.dept = { acct s d.dept with lastFailure := some ⟨why, k, s.clock.run⟩ } ∧
            t.store.allotments = s.store.allotments ∧ (s.link.classes.department = true → Subject.department d.dept ∈ t.link.notices)) ∧
          t.store = { s.store with
            accounts := t.store.accounts, allotments := t.store.allotments, pressure := t.store.pressure }) ∧
        (∀ e : Dept, e ≠ d.dept → acct t e = acct s e) ∧
        (∀ p, d.landing = some p → GroupClosed s t p) ∧ (d.landing = none → t.mem = s.mem ∧ t.dram = s.dram) ∧
        t = { s with
          lines := t.lines, mem := t.mem, dram := t.dram, dir := { s.dir with docs := t.dir.docs }, store := t.store
          integrity := { s.integrity with exhausted := t.integrity.exhausted }, link := { s.link with notices := t.link.notices } })

/-! ## Lines: commands, faults and the ends of calls -/

/-- R47, R48, R72, R74, R87, R88, R89, R91, R93, R128, R131, R132: COMMAND_ACK. In a front-end reset the acknowledgment of RESET brings the
PRESENT command, and that command's returns the channel to IDLE; otherwise the oldest command is complete, and after DIAL, SEND-PAGE-DATA,
PAGE-END-MARK and SEND-VERDICT, with no later command of its kind outstanding (log entry 22, DEDUCED), the channel goes on; past page 500
the call goes on in a continuation, for which the oldest document is purged when every record is in use. A page whose read is
uncorrectable halts the send (ReadsAndFreedBlocksAreChecked says what a read does). On a line in FAULT every acknowledgment is
ignored, and in any state that of an abandoned command, which the event itself tells (log entry 34, DEDUCED). MODEL'S CHOICE: with the
document numbers run out nothing is purged for a continuation (log entry 21, DEDUCED). -/
def Obligations.AcknowledgmentsMoveTheChannelOn : Prop :=
  (∀ (s : State) (n : LineNo), exec (.commandAck n .abandoned) s = .next s ∧
    ((lineAt s n).service = .fault → ∀ a : Acked, exec (.commandAck n a) s = .next s)) ∧
  ∀ (s : State) (n : LineNo), s.part.phase = some .ready ∨ s.part.phase = some .restarting → (lineAt s n).service ≠ .fault →
    let l := lineAt s n
    let present : PortCommand := if l.service = .inService then .presentIdle else .presentBusy
    let only (t : State) := t = { s with lines := t.lines } ∧ OtherLines s t n
    (l.reset = .awaitReset → exec (.commandAck n .other) s = .next s ∧ ∃ t, exec (.commandAck n .reset) s = .next t ∧ only t ∧
      lineAt t n = { l with acks := [⟨present, s.clock.run + 500⟩], reset := .awaitPresent }) ∧
    (l.reset = .awaitPresent → exec (.commandAck n .reset) s = .next s ∧ ∃ t, exec (.commandAck n .other) s = .next t ∧
      lineAt t n = Line.idles { l with acks := [] } s.clock.run ∧ OtherLines s t n ∧ ToldRun s t n ∧
      Marked s t (fun x => x = .line n) ∧
      t = { s with
        lines := t.lines, fwd := { s.fwd with view := t.fwd.view, runOwed := true }
        link := { s.link with notices := t.link.notices } }) ∧
    (l.reset = .none → exec (.commandAck n .reset) s = .next s ∧ (l.acks = [] → exec (.commandAck n .other) s = .next s) ∧
      ∀ a rest, l.acks = a :: rest → (∀ x ∈ rest, sameKind x.command a.command = false) →
        ∃ t, exec (.commandAck n .other) s = .next t ∧ OtherLines s t n ∧
          let done : Line := { l with acks := rest }
          let waits (line : Line) (k : WaitKind) (ms : Nat) : Option Call :=
            line.call.map (fun x => { x with wait := some ⟨k, s.clock.run + ms⟩ })
          (∀ digits, a.command = .dial digits → l.chan = .seized → only t ∧
            lineAt t n = { done with chan := .dialling, call := waits l .dial 60000 }) ∧
          (∀ b, a.command = .pageEndMark b → l.chan = .sending → only t ∧
            lineAt t n = { done with chan := .awaitingVerdict, call := waits l .sender 6000 }) ∧
          (∀ x w u d p, a.command = .sendPageData x → l.chan = .sending → l.call = some ⟨w, .sender u⟩ →
            findDoc s u.document = some d → 1 ≤ u.page → d.pages[u.page - 1]? = some p → s.dram.faults = [] → u.offset % 256 = 0 →
            p.length ≤ p.blocks.length * 8192 → only t ∧
            (u.offset < p.length → ∃ data, lineAt t n = { done.sends s.clock.run (.sendPageData data) with
                call := some ⟨w, .sender { u with offset := u.offset + 256 }⟩ } ∧
              data.length = min 256 (p.length - u.offset) ∧
              ∀ i, i < data.length → ∃ b, p.blocks[(u.offset + i) / 8192]? = some b ∧
                data[i]? = some (readByte s.mem (b.val * 8192 + (u.offset + i) % 8192))) ∧
            (p.length ≤ u.offset →
              lineAt t n = done.sends s.clock.run (.pageEndMark (decide (u.page = d.pages.length))))) ∧
          (∀ x w u d p, a.command = .sendPageData x → l.chan = .sending → l.call = some ⟨w, .sender u⟩ →
            findDoc s u.document = some d → 1 ≤ u.page → d.pages[u.page - 1]? = some p → u.offset < p.length →
            (∀ y data, readSpan (.send n) u.document p u.offset 256 s = (y, some data) → t = { y with lines := t.lines } ∧
              lineAt t n = { done.sends s.clock.run (.sendPageData data) with
                call := some ⟨w, .sender { u with offset := u.offset + 256 }⟩ }) ∧
            ∀ y, readSpan (.send n) u.document p u.offset 256 s = (y, none) →
              TxEnded y t n u .damaged .neutral ∧ lineAt t n = done.releases s.clock.run .release ∧ t.fwd.view = s.fwd.view) ∧
          (∀ v w c d, a.command = .sendVerdict v → l.chan = .verdict → l.call = some ⟨w, .receiver c⟩ → RxFits s n c d →
            let next := only t ∧ lineAt t n = { done with
              chan := .receiving, call := some ⟨some ⟨.receiverSignal, s.clock.run + 6000⟩, .receiver c⟩ }
            let ends (o : ReceiptOutcome) (cls : CallClass) :=
              RxEnded s t n c d o cls ∧ lineAt t n = done.releases s.clock.run .release
            let clean := 3 ≤ c.pages ∧ c.anyReject = false ∧ c.anyRetrain = false ∧ c.trainFails = 0
            (c.lastVerdict = some .reject → c.lastCause = some .storeFull → ends .partialStoreFull .neutral) ∧
            (c.lastVerdict = some .reject → c.lastCause ≠ some .storeFull → 3 ≤ c.rejects → ends .partialLineLost .failed) ∧
            (c.lastVerdict = some .reject → c.lastCause ≠ some .storeFull → c.rejects < 3 → next) ∧
            (c.lastVerdict ≠ some .reject → c.lastPage = true → clean → ends .complete .clean) ∧
            (c.lastVerdict ≠ some .reject → c.lastPage = true → ¬ clean → ends .complete .neutral) ∧
            (c.lastVerdict ≠ some .reject → c.lastPage = false → d.pages.length < 500 → next) ∧
            (c.lastVerdict ≠ some .reject → c.lastPage = false → 500 ≤ d.pages.length → 8128 ≤ s.journal.unreleased →
              ends .partialPageLimit .neutral) ∧
            (c.lastVerdict ≠ some .reject → c.lastPage = false → 500 ≤ d.pages.length → s.journal.unreleased < 8128 →
              4294967295 < s.dir.nextNumber ∨ (4096 ≤ s.dir.docs.length ∧ NoneLeft s (fun _ => True)) →
              ends .partialDirectoryFull .neutral) ∧
            (∀ m, c.lastVerdict ≠ some .reject → c.lastPage = false → 500 ≤ d.pages.length → s.journal.unreleased < 8128 →
              s.dir.nextNumber ≤ 4294967295 → s.dir.docs.length = 4096 → m ≠ d.number → Oldest s (fun _ => True) m →
              exec (.commandAck n .other) s = exec (.commandAck n .other) (evalPressure (purgeDoc m s))) ∧
            (c.lastVerdict ≠ some .reject → c.lastPage = false → 500 ≤ d.pages.length → s.journal.unreleased < 8128 →
              s.dir.nextNumber ≤ 4294967295 → s.dir.docs.length < 4096 → findDoc s s.dir.nextNumber = none →
              t.dir.nextNumber = s.dir.nextNumber + 1 ∧
              lineAt t n = { done with
                chan := .receiving, call := some ⟨some ⟨.receiverSignal, s.clock.run + 6000⟩,
                  .receiver { c with document := some s.dir.nextNumber }⟩ } ∧
              (∃ x, findDoc t s.dir.nextNumber = some x ∧ x.continuationOf = some d.number ∧ x.dept = d.dept ∧ x.plan = d.plan ∧
                x.routeKey = d.routeKey ∧ x.priority = d.priority ∧ x.line = d.line ∧ x.called = d.called ∧ x.calling = d.calling ∧
                x.remoteId = d.remoteId ∧ x.answerTime = d.answerTime ∧ x.life = .landing ∧ x.pages = []) ∧
              ∃ y, findDoc t d.number = some y ∧ y.continuedBy = some s.dir.nextNumber ∧ y.outcome = some .continued ∧
                y.partialFlag = false ∧ y.pages = d.pages ∧ y.completionTime = some s.clock.cal)) ∧
          ((∀ v, a.command ≠ .sendVerdict v) → (∀ x, a.command ≠ .sendPageData x) → (∀ x, a.command ≠ .dial x) →
            (∀ b, a.command ≠ .pageEndMark b) → only t ∧ lineAt t n = done))

/-- R72, R73, R74, R91, R92, R135: what puts a line out of its course: the acknowledgment limit's expiry, FRONT_END_FAULT and the expiry
of the wait for RELEASED bring FAULT, and Reset Line brings a front-end reset. Each ends a call in progress with no command sent: a
receiving call as PARTIAL-LINE-LOST, an attempt as LINE-LOST, the class NEUTRAL. u is the state the event finds, run time having reached
the expiry (log entry 5) or the last of its 64 bits (log entry 27). Reset Line keeps the call record, its wait gone, until the channel
returns to IDLE (R71, R127), and makes none on a line that has no call (log entry 18). MODEL'S CHOICE: a ringing call that a reset or a
fault drops marks its line (log entry 14, DEDUCED), and the response to a Collect that the ended call's document meets stands before Reset
Line's own (log entry 26). -/
def Obligations.FaultsAndResetsStopTheLine : Prop :=
  (∀ (s : State) (r : Envelope) (line : Nat), Takes s r → 15 < line →
    exec (.resetLine r line) s = .next (answered s r .resetLine .badArgument .empty)) ∧
  ∀ (s : State) (n : LineNo), s.part.phase = some .ready ∨ s.part.phase = some .restarting →
    let ended (u t : State) (own : List Response) :=
      (∀ w c d, (lineAt u n).call = some ⟨w, .receiver c⟩ → receivingChan (lineAt u n).chan = true → RxFits u n c d →
        RxEnded u t n c d .partialLineLost .neutral own) ∧
      (∀ w x, (lineAt u n).call = some ⟨w, .sender x⟩ → sendingChan (lineAt u n).chan = true →
        TxEnded u t n x .lineLost .neutral own)
    let idle (u : State) := inReceiving (lineAt u n) = false ∧ inSending (lineAt u n) = false
    (∀ r : Envelope, Takes s r → (lineAt s n).reset ≠ .none →
      exec (.resetLine r n.val) s = .next (answered s r .resetLine .busy .empty)) ∧
    (∀ r : Envelope, Takes s r → (lineAt s n).reset = .none → ∃ t, exec (.resetLine r n.val) s = .next t ∧
      let l := lineAt s n
      let back : Service := if l.service = .fault then l.returnState.getD .busyOut else l.pendingService.getD l.service
      lineAt t n = { l with
        service := back, pendingService := none, returnState := none, faultCause := none, acks := [⟨.reset, s.clock.run + 500⟩]
        chan := .releasing, call := l.call.map (fun x => { x with wait := none }), reset := .awaitReset } ∧ OtherLines s t n ∧
      t.fwd.view[n] = ⟨false, l.outbound⟩ ∧ OtherViews s t n ∧ (back ≠ l.service → t.fwd.runOwed = true) ∧
      (s.link.classes.line = true → back ≠ l.service → Subject.line n ∈ t.link.notices) ∧
      t.link.intake = afterTaking r.tag s.link.intake ∧
      t.link.responses.getLast? = some ⟨r.tag, .resetLine, .done, .empty⟩ ∧
      ended s t [⟨r.tag, .resetLine, .done, .empty⟩] ∧
      (idle s → t.link.responses = s.link.responses ++ [⟨r.tag, .resetLine, .done, .empty⟩] ∧
        t.fwd.runOwed = (s.fwd.runOwed || decide (back ≠ l.service)) ∧
        Marked s t (fun x => x = .line n ∧ (back ≠ l.service ∨ l.chan = .alerted)) ∧ t = { s with
          lines := t.lines, fwd := { s.fwd with view := t.fwd.view, runOwed := t.fwd.runOwed }
          link := { s.link with intake := t.link.intake, responses := t.link.responses, notices := t.link.notices } })) ∧
    ∀ (ev : Instr) (u : State) (cause : FaultCause) (w : Option Wait),
      (ev = .frontEndFault n ∧ u = s ∧ cause = .frontEndFault ∧ (lineAt s n).service ≠ .fault ∧ (lineAt s n).reset = .none) ∨
        (∃ a rest, ev = .ackLimitExpiry n ∧ (lineAt s n).acks = a :: rest ∧ u = advanceTo a.expiry s ∧ cause = .ackTimeout) ∨
        (∃ e part, ev = .releaseWaitExpiry n ∧ (lineAt s n).call = some ⟨some ⟨.release, e⟩, part⟩ ∧
          u = setWait n none (advanceTo e s) ∧ cause = .releaseTimeout) →
      ∃ t, exec ev s = .next t ∧
        lineAt t n = { lineAt s n with
          service := .fault, pendingService := none, returnState := some ((lineAt s n).pendingService.getD (lineAt s n).service)
          faultCause := some cause, acks := [], reset := .none, chan := .idle, call := none } ∧ OtherLines s t n ∧
        ToldRun s t n ∧ (s.link.classes.line = true → Subject.line n ∈ t.link.notices) ∧ s.clock.run ≤ t.clock.run ∧ t.clock = u.clock ∧
        ended u t [] ∧
        (idle u → Marked s t (fun x => x = .line n) ∧ t = { u with
          lines := t.lines, fwd := { u.fwd with view := t.fwd.view, runOwed := true }
          link := { s.link with notices := t.link.notices } })

/-- R71, R90, R91, R92, R93, R95, R106, R135: the events that lose a call in progress: CARRIER_LOST, the expiry of a wait for the remote,
and RELEASED. A receiving call ends as PARTIAL-LINE-LOST, classified FAILED before its first verdict; an attempt ends as LINE-LOST,
classified FAILED after CONNECTED and before its first VERDICT. RELEASE is sent but after RELEASED, which returns the channel to IDLE, as
it does in RELEASING. An expiry whose wait does not run does nothing. MODEL'S CHOICE: any other brings run time up to it (log entry 5), or
to the last of its 64 bits (log entry 27). -/
def Obligations.LossesEndTheCall : Prop :=
  ∀ (s : State) (n : LineNo), Hears s n →
    (∀ (ev : Instr) (k : WaitKind),
      (ev = .receiverSignalWaitExpiry n ∧ k = .receiverSignal) ∨ (ev = .pageWaitExpiry n ∧ k = .page) ∨
        (ev = .releaseWaitExpiry n ∧ k = .release) ∨ (ev = .dialWaitExpiry n ∧ k = .dial) ∨
        (ev = .senderWaitExpiry n ∧ k = .sender) ∨ (ev = .digitWindowExpiry n ∧ k = .digitWindow) →
      (∀ x e, (lineAt s n).call = some x → x.wait = some e → e.kind ≠ k) → exec ev s = .next s) ∧
    ((lineAt s n).chan = .idle → exec (.released n) s = .next s) ∧
    ((lineAt s n).chan = .idle ∨ (lineAt s n).chan = .alerted ∨ (lineAt s n).chan = .releasing → exec (.carrierLost n) s = .next s) ∧
    ((lineAt s n).chan = .releasing → ∃ t, exec (.released n) s = .next t ∧
      lineAt t n = (lineAt s n).idles s.clock.run ∧ OtherLines s t n ∧ ToldRun s t n ∧
      Marked s t (fun x => x = .line n ∧ (lineAt s n).pendingService ≠ none) ∧
      t = { s with
        lines := t.lines, fwd := { s.fwd with view := t.fwd.view, runOwed := true }
        link := { s.link with notices := t.link.notices } }) ∧
    ∀ (ev : Instr) (u : State) (w : Option Wait) (part : CallPart), (lineAt s n).call = some ⟨w, part⟩ →
      (ev = .carrierLost n ∧ u = s) ∨ (ev = .released n ∧ u = s) ∨
        (∃ e k, w = some ⟨k, e⟩ ∧ u = advanceTo e s ∧
          ((ev = .receiverSignalWaitExpiry n ∧ k = .receiverSignal) ∨ (ev = .pageWaitExpiry n ∧ k = .page) ∨
            (ev = .dialWaitExpiry n ∧ k = .dial) ∨ (ev = .senderWaitExpiry n ∧ k = .sender))) →
      let leaves (t : State) := OtherLines s t n ∧
        (ev ≠ .released n → lineAt t n = (lineAt s n).releases u.clock.run .release ∧ t.fwd.view = s.fwd.view) ∧
        (ev = .released n → lineAt t n = (lineAt s n).idles u.clock.run ∧ ToldRun s t n)
      (∀ c d, part = .receiver c → receivingChan (lineAt s n).chan = true → RxFits s n c d → ∃ t, exec ev s = .next t ∧
        RxEnded u t n c d .partialLineLost (if c.firstVerdict then .neutral else .failed) ∧ leaves t) ∧
      ∀ x, part = .sender x → sendingChan (lineAt s n).chan = true → ∃ t, exec ev s = .next t ∧
        TxEnded u t n x .lineLost (if connectedChan (lineAt s n).chan && !x.verdictReceived then .failed else .neutral) ∧ leaves t

/-- R103, R106, R128, R129, R130, R131, R132, R133, R134, R135: the events of an outbound call. It waits for the remote's offer, trains at the
lowest of the steps offered, permitted and remembered, falls back one step at each failed training, sends the page due in pieces of 256
bytes, and goes on by the verdicts; it ends as BUSY, NO-ANSWER, LINE-LOST, INCOMPATIBLE, TRAINING-FAILED, PAGE-REJECTED, DAMAGED or
DELIVERED. A page marked damaged is not read, and one whose read is uncorrectable halts the send (ReadsAndFreedBlocksAreChecked says what a
read does). In any other state of the channel these events are ignored (R75). -/
def Obligations.AttemptsFollowTheRemote : Prop :=
  ∀ (s : State) (n : LineNo) (w : Option Wait) (u : TxCall) (d : Document), Hears s n →
    (lineAt s n).call = some ⟨w, .sender u⟩ → findDoc s u.document = some d →
    let l := lineAt s n
    let only (t : State) := t = { s with lines := t.lines } ∧ OtherLines s t n
    let waiting : Option Wait := some ⟨.sender, s.clock.run + 6000⟩
    let hasFine := ∃ p ∈ d.pages, p.resolution = .fine
    let trains (t : State) (x : TxCall) := lineAt t n =
      { (l.sends s.clock.run (.choose x.step x.resolution)).sends s.clock.run (.train x.step) with
        chan := .training, call := some ⟨waiting, .sender x⟩ }
    let endsFrom (y t : State) (x : TxCall) (o : AttemptOutcome) (cls : CallClass) := TxEnded y t n x o cls ∧ OtherLines s t n ∧
      t.fwd.view = s.fwd.view ∧ (lineAt t n).chan = .releasing ∧ (lineAt t n).acks = l.acks ++ [⟨.release, s.clock.run + 500⟩] ∧
      (lineAt t n).call = some ⟨some ⟨.release, s.clock.run + 6000⟩, .sender x⟩
    let ends := endsFrom s
    let sendsPage (t : State) (x : TxCall) :=
      (∀ p, d.pages[x.page - 1]? = some p → p.damaged = true → ends t x .damaged .neutral) ∧
      (∀ p y data, d.pages[x.page - 1]? = some p → p.damaged = false → 0 < p.length →
        readSpan (.send n) u.document p 0 256 s = (y, some data) → t = { y with lines := t.lines } ∧ OtherLines s t n ∧
        lineAt t n = { l.sends s.clock.run (.sendPageData data) with
          chan := .sending, call := some ⟨none, .sender { x with offset := 256 }⟩ }) ∧
      (∀ p y, d.pages[x.page - 1]? = some p → p.damaged = false → 0 < p.length →
        readSpan (.send n) u.document p 0 256 s = (y, none) → endsFrom y t x .damaged .neutral) ∧
      (∀ p, s.dram.faults = [] → d.pages[x.page - 1]? = some p → p.damaged = false → 0 < p.length → p.length ≤ p.blocks.length * 8192 → only t ∧
        ∃ data, lineAt t n = { l.sends s.clock.run (.sendPageData data) with
            chan := .sending, call := some ⟨none, .sender { x with offset := 256 }⟩ } ∧
          data.length = min 256 p.length ∧ ∀ i, i < data.length → ∃ b, p.blocks[i / 8192]? = some b ∧
            data[i]? = some (readByte s.mem (b.val * 8192 + i % 8192)))
    (l.chan = .dialling → (∃ t, exec (.connected n) s = .next t ∧ only t ∧
        lineAt t n = { l with chan := .offeringWait, call := some ⟨waiting, .sender u⟩ }) ∧
      ∀ reason, ∃ t, exec (.dialFailed n reason) s = .next t ∧ ends t u (match reason with
        | .busy => .busy
        | .noAnswer => .noAnswer
        | .noTone => .lineLost) .neutral) ∧
    (l.chan ≠ .dialling → exec (.connected n) s = .next s ∧ ∀ reason, exec (.dialFailed n reason) s = .next s) ∧
    (l.chan ≠ .offeringWait → ∀ most fine identity, exec (.remoteOffer n most fine identity) s = .next s) ∧
    (l.chan ≠ .awaitingVerdict → ∀ v, exec (.verdict n v) s = .next s) ∧
    (l.chan = .offeringWait → ∀ most fine identity,
      (hasFine → fine = false → ∃ t, exec (.remoteOffer n most fine identity) s = .next t ∧ ends t u .incompatible .neutral) ∧
      (¬ hasFine ∨ fine = true → ∃ t x ceiling, exec (.remoteOffer n most fine identity) s = .next t ∧ OtherLines s t n ∧
        (findCaller s.callers.table u.destination = none → ceiling = 5 ∧ t.callers = s.callers) ∧
        (∀ e, findCaller s.callers.table u.destination = some e → ceiling = e.ceiling ∧
          findCaller t.callers.table u.destination = some { e with lastUsed := s.clock.run }) ∧
        trains t x ∧ x.step = min (min (min most 5) l.maxStep) ceiling ∧ (x.resolution = .fine ↔ hasFine) ∧
        x = { u with step := x.step, resolution := x.resolution, page := 1, sends := 0 } ∧
        t = { s with lines := t.lines, callers := { s.callers with table := t.callers.table } })) ∧
    (l.chan = .training → ∀ step pass, ∃ t, exec (.trainingDone n step pass) s = .next t ∧
      (pass = true → step = u.step → 1 ≤ u.page → sendsPage t { u with sends := u.sends + 1, offset := 0 }) ∧
      (pass = false ∨ step ≠ u.step →
        let fails : TxCall := { u with trainFails := u.trainFails + 1 }
        (lineAt t n).stats = { l.stats with trainFails := min 65535 (l.stats.trainFails + 1) } ∧
        (u.trainFails < 2 → only t ∧ (lineAt t n).chan = .training ∧
          (lineAt t n).call = some ⟨waiting, .sender { fails with step := u.step - 1 }⟩ ∧
          (lineAt t n).acks = l.acks ++ [⟨.choose (u.step - 1) u.resolution, s.clock.run + 500⟩,
            ⟨.train (u.step - 1), s.clock.run + 500⟩]) ∧
        (2 ≤ u.trainFails → ends t fails .trainingFailed .failed))) ∧
    (l.chan = .awaitingVerdict → ∀ v, ∃ t, exec (.verdict n v) s = .next t ∧
      let marked : TxCall := { u with
        verdictReceived := true, anyRetrain := u.anyRetrain || decide (v = .acceptRetrain), anyResend := u.anyResend || decide (v = .reject)
        accepted := if v = .reject then u.accepted else u.accepted + 1 }
      let final := d.pages.length ≤ u.page
      let clean := 3 ≤ marked.accepted ∧ marked.anyRetrain = false ∧ u.anyResend = false ∧ u.trainFails = 0
      (v = .reject → 3 ≤ u.sends → ends t marked .pageRejected .failed) ∧
      (v = .reject → u.sends < 3 → only t ∧ trains t { marked with step := u.step - 1 }) ∧
      (v ≠ .reject → final → (clean → ends t marked .delivered .clean) ∧ (¬ clean → ends t marked .delivered .neutral)) ∧
      (v = .acceptRetrain → ¬ final → only t ∧ trains t { marked with step := u.step - 1, page := u.page + 1, sends := 0 }) ∧
      (v = .accept → ¬ final → sendsPage t { marked with page := u.page + 1, sends := 1, offset := 0 }))
end

