-- ==== Sys2Proof/Laws/State.lean ====
section
/-! SUPPORT. Laws/State.lean: for each update of the state that one operation makes, what it leaves as it was, field by field, and what it
writes. All hold by rfl but those on the numbered tables. -/

namespace Sys2Proof.Machine

open Sys2Proof

/-! ## What an operation leaves as it was -/

@[simp] theorem mark_pending (x : Subject) (s : State) : (mark x s).pending = s.pending := rfl
@[simp] theorem mark_part (x : Subject) (s : State) : (mark x s).part = s.part := rfl
@[simp] theorem mark_clock (x : Subject) (s : State) : (mark x s).clock = s.clock := rfl
@[simp] theorem mark_policy (x : Subject) (s : State) : (mark x s).policy = s.policy := rfl
@[simp] theorem mark_store (x : Subject) (s : State) : (mark x s).store = s.store := rfl
@[simp] theorem mark_mem (x : Subject) (s : State) : (mark x s).mem = s.mem := rfl
@[simp] theorem mark_dram (x : Subject) (s : State) : (mark x s).dram = s.dram := rfl
@[simp] theorem mark_dir (x : Subject) (s : State) : (mark x s).dir = s.dir := rfl
@[simp] theorem mark_routes (x : Subject) (s : State) : (mark x s).routes = s.routes := rfl
@[simp] theorem mark_lines (x : Subject) (s : State) : (mark x s).lines = s.lines := rfl
@[simp] theorem mark_callers (x : Subject) (s : State) : (mark x s).callers = s.callers := rfl
@[simp] theorem mark_fwd (x : Subject) (s : State) : (mark x s).fwd = s.fwd := rfl
@[simp] theorem mark_collect (x : Subject) (s : State) : (mark x s).collect = s.collect := rfl
@[simp] theorem mark_journal (x : Subject) (s : State) : (mark x s).journal = s.journal := rfl
@[simp] theorem mark_integrity (x : Subject) (s : State) : (mark x s).integrity = s.integrity := rfl

@[simp] theorem setAcct_pending (d : Dept) (f : Account → Account) (s : State) : (setAcct d f s).pending = s.pending := rfl
@[simp] theorem setAcct_part (d : Dept) (f : Account → Account) (s : State) : (setAcct d f s).part = s.part := rfl
@[simp] theorem setAcct_clock (d : Dept) (f : Account → Account) (s : State) : (setAcct d f s).clock = s.clock := rfl
@[simp] theorem setAcct_policy (d : Dept) (f : Account → Account) (s : State) : (setAcct d f s).policy = s.policy := rfl
@[simp] theorem setAcct_mem (d : Dept) (f : Account → Account) (s : State) : (setAcct d f s).mem = s.mem := rfl
@[simp] theorem setAcct_dram (d : Dept) (f : Account → Account) (s : State) : (setAcct d f s).dram = s.dram := rfl
@[simp] theorem setAcct_dir (d : Dept) (f : Account → Account) (s : State) : (setAcct d f s).dir = s.dir := rfl
@[simp] theorem setAcct_routes (d : Dept) (f : Account → Account) (s : State) : (setAcct d f s).routes = s.routes := rfl
@[simp] theorem setAcct_lines (d : Dept) (f : Account → Account) (s : State) : (setAcct d f s).lines = s.lines := rfl
@[simp] theorem setAcct_callers (d : Dept) (f : Account → Account) (s : State) : (setAcct d f s).callers = s.callers := rfl
@[simp] theorem setAcct_fwd (d : Dept) (f : Account → Account) (s : State) : (setAcct d f s).fwd = s.fwd := rfl
@[simp] theorem setAcct_collect (d : Dept) (f : Account → Account) (s : State) : (setAcct d f s).collect = s.collect := rfl
@[simp] theorem setAcct_journal (d : Dept) (f : Account → Account) (s : State) : (setAcct d f s).journal = s.journal := rfl
@[simp] theorem setAcct_integrity (d : Dept) (f : Account → Account) (s : State) : (setAcct d f s).integrity = s.integrity := rfl
@[simp] theorem setAcct_link (d : Dept) (f : Account → Account) (s : State) : (setAcct d f s).link = s.link := rfl

@[simp] theorem setAllotment_pending (n : LineNo) (a : Allotment) (s : State) : (setAllotment n a s).pending = s.pending := rfl
@[simp] theorem setAllotment_part (n : LineNo) (a : Allotment) (s : State) : (setAllotment n a s).part = s.part := rfl
@[simp] theorem setAllotment_clock (n : LineNo) (a : Allotment) (s : State) : (setAllotment n a s).clock = s.clock := rfl
@[simp] theorem setAllotment_policy (n : LineNo) (a : Allotment) (s : State) : (setAllotment n a s).policy = s.policy := rfl
@[simp] theorem setAllotment_mem (n : LineNo) (a : Allotment) (s : State) : (setAllotment n a s).mem = s.mem := rfl
@[simp] theorem setAllotment_dram (n : LineNo) (a : Allotment) (s : State) : (setAllotment n a s).dram = s.dram := rfl
@[simp] theorem setAllotment_dir (n : LineNo) (a : Allotment) (s : State) : (setAllotment n a s).dir = s.dir := rfl
@[simp] theorem setAllotment_routes (n : LineNo) (a : Allotment) (s : State) : (setAllotment n a s).routes = s.routes := rfl
@[simp] theorem setAllotment_lines (n : LineNo) (a : Allotment) (s : State) : (setAllotment n a s).lines = s.lines := rfl
@[simp] theorem setAllotment_callers (n : LineNo) (a : Allotment) (s : State) : (setAllotment n a s).callers = s.callers := rfl
@[simp] theorem setAllotment_fwd (n : LineNo) (a : Allotment) (s : State) : (setAllotment n a s).fwd = s.fwd := rfl
@[simp] theorem setAllotment_collect (n : LineNo) (a : Allotment) (s : State) : (setAllotment n a s).collect = s.collect := rfl
@[simp] theorem setAllotment_journal (n : LineNo) (a : Allotment) (s : State) : (setAllotment n a s).journal = s.journal := rfl
@[simp] theorem setAllotment_integrity (n : LineNo) (a : Allotment) (s : State) : (setAllotment n a s).integrity = s.integrity := rfl
@[simp] theorem setAllotment_link (n : LineNo) (a : Allotment) (s : State) : (setAllotment n a s).link = s.link := rfl

@[simp] theorem modDoc_pending (n : Nat) (f : Document → Document) (s : State) : (modDoc n f s).pending = s.pending := rfl
@[simp] theorem modDoc_part (n : Nat) (f : Document → Document) (s : State) : (modDoc n f s).part = s.part := rfl
@[simp] theorem modDoc_clock (n : Nat) (f : Document → Document) (s : State) : (modDoc n f s).clock = s.clock := rfl
@[simp] theorem modDoc_policy (n : Nat) (f : Document → Document) (s : State) : (modDoc n f s).policy = s.policy := rfl
@[simp] theorem modDoc_store (n : Nat) (f : Document → Document) (s : State) : (modDoc n f s).store = s.store := rfl
@[simp] theorem modDoc_mem (n : Nat) (f : Document → Document) (s : State) : (modDoc n f s).mem = s.mem := rfl
@[simp] theorem modDoc_dram (n : Nat) (f : Document → Document) (s : State) : (modDoc n f s).dram = s.dram := rfl
@[simp] theorem modDoc_routes (n : Nat) (f : Document → Document) (s : State) : (modDoc n f s).routes = s.routes := rfl
@[simp] theorem modDoc_lines (n : Nat) (f : Document → Document) (s : State) : (modDoc n f s).lines = s.lines := rfl
@[simp] theorem modDoc_callers (n : Nat) (f : Document → Document) (s : State) : (modDoc n f s).callers = s.callers := rfl
@[simp] theorem modDoc_fwd (n : Nat) (f : Document → Document) (s : State) : (modDoc n f s).fwd = s.fwd := rfl
@[simp] theorem modDoc_collect (n : Nat) (f : Document → Document) (s : State) : (modDoc n f s).collect = s.collect := rfl
@[simp] theorem modDoc_journal (n : Nat) (f : Document → Document) (s : State) : (modDoc n f s).journal = s.journal := rfl
@[simp] theorem modDoc_integrity (n : Nat) (f : Document → Document) (s : State) : (modDoc n f s).integrity = s.integrity := rfl
@[simp] theorem modDoc_link (n : Nat) (f : Document → Document) (s : State) : (modDoc n f s).link = s.link := rfl

@[simp] theorem setReady_pending (d : Dept) (f : List Nat → List Nat) (s : State) : (setReady d f s).pending = s.pending := rfl
@[simp] theorem setReady_part (d : Dept) (f : List Nat → List Nat) (s : State) : (setReady d f s).part = s.part := rfl
@[simp] theorem setReady_clock (d : Dept) (f : List Nat → List Nat) (s : State) : (setReady d f s).clock = s.clock := rfl
@[simp] theorem setReady_policy (d : Dept) (f : List Nat → List Nat) (s : State) : (setReady d f s).policy = s.policy := rfl
@[simp] theorem setReady_store (d : Dept) (f : List Nat → List Nat) (s : State) : (setReady d f s).store = s.store := rfl
@[simp] theorem setReady_mem (d : Dept) (f : List Nat → List Nat) (s : State) : (setReady d f s).mem = s.mem := rfl
@[simp] theorem setReady_dram (d : Dept) (f : List Nat → List Nat) (s : State) : (setReady d f s).dram = s.dram := rfl
@[simp] theorem setReady_routes (d : Dept) (f : List Nat → List Nat) (s : State) : (setReady d f s).routes = s.routes := rfl
@[simp] theorem setReady_lines (d : Dept) (f : List Nat → List Nat) (s : State) : (setReady d f s).lines = s.lines := rfl
@[simp] theorem setReady_callers (d : Dept) (f : List Nat → List Nat) (s : State) : (setReady d f s).callers = s.callers := rfl
@[simp] theorem setReady_fwd (d : Dept) (f : List Nat → List Nat) (s : State) : (setReady d f s).fwd = s.fwd := rfl
@[simp] theorem setReady_collect (d : Dept) (f : List Nat → List Nat) (s : State) : (setReady d f s).collect = s.collect := rfl
@[simp] theorem setReady_journal (d : Dept) (f : List Nat → List Nat) (s : State) : (setReady d f s).journal = s.journal := rfl
@[simp] theorem setReady_integrity (d : Dept) (f : List Nat → List Nat) (s : State) : (setReady d f s).integrity = s.integrity := rfl
@[simp] theorem setReady_link (d : Dept) (f : List Nat → List Nat) (s : State) : (setReady d f s).link = s.link := rfl

@[simp] theorem addDoc_pending (d : Document) (s : State) : (addDoc d s).pending = s.pending := rfl
@[simp] theorem addDoc_part (d : Document) (s : State) : (addDoc d s).part = s.part := rfl
@[simp] theorem addDoc_clock (d : Document) (s : State) : (addDoc d s).clock = s.clock := rfl
@[simp] theorem addDoc_policy (d : Document) (s : State) : (addDoc d s).policy = s.policy := rfl
@[simp] theorem addDoc_store (d : Document) (s : State) : (addDoc d s).store = s.store := rfl
@[simp] theorem addDoc_mem (d : Document) (s : State) : (addDoc d s).mem = s.mem := rfl
@[simp] theorem addDoc_dram (d : Document) (s : State) : (addDoc d s).dram = s.dram := rfl
@[simp] theorem addDoc_routes (d : Document) (s : State) : (addDoc d s).routes = s.routes := rfl
@[simp] theorem addDoc_lines (d : Document) (s : State) : (addDoc d s).lines = s.lines := rfl
@[simp] theorem addDoc_callers (d : Document) (s : State) : (addDoc d s).callers = s.callers := rfl
@[simp] theorem addDoc_fwd (d : Document) (s : State) : (addDoc d s).fwd = s.fwd := rfl
@[simp] theorem addDoc_collect (d : Document) (s : State) : (addDoc d s).collect = s.collect := rfl
@[simp] theorem addDoc_journal (d : Document) (s : State) : (addDoc d s).journal = s.journal := rfl
@[simp] theorem addDoc_integrity (d : Document) (s : State) : (addDoc d s).integrity = s.integrity := rfl
@[simp] theorem addDoc_link (d : Document) (s : State) : (addDoc d s).link = s.link := rfl

@[simp] theorem dropDoc_pending (n : Nat) (s : State) : (dropDoc n s).pending = s.pending := rfl
@[simp] theorem dropDoc_part (n : Nat) (s : State) : (dropDoc n s).part = s.part := rfl
@[simp] theorem dropDoc_clock (n : Nat) (s : State) : (dropDoc n s).clock = s.clock := rfl
@[simp] theorem dropDoc_policy (n : Nat) (s : State) : (dropDoc n s).policy = s.policy := rfl
@[simp] theorem dropDoc_store (n : Nat) (s : State) : (dropDoc n s).store = s.store := rfl
@[simp] theorem dropDoc_mem (n : Nat) (s : State) : (dropDoc n s).mem = s.mem := rfl
@[simp] theorem dropDoc_dram (n : Nat) (s : State) : (dropDoc n s).dram = s.dram := rfl
@[simp] theorem dropDoc_routes (n : Nat) (s : State) : (dropDoc n s).routes = s.routes := rfl
@[simp] theorem dropDoc_lines (n : Nat) (s : State) : (dropDoc n s).lines = s.lines := rfl
@[simp] theorem dropDoc_callers (n : Nat) (s : State) : (dropDoc n s).callers = s.callers := rfl
@[simp] theorem dropDoc_fwd (n : Nat) (s : State) : (dropDoc n s).fwd = s.fwd := rfl
@[simp] theorem dropDoc_collect (n : Nat) (s : State) : (dropDoc n s).collect = s.collect := rfl
@[simp] theorem dropDoc_journal (n : Nat) (s : State) : (dropDoc n s).journal = s.journal := rfl
@[simp] theorem dropDoc_integrity (n : Nat) (s : State) : (dropDoc n s).integrity = s.integrity := rfl
@[simp] theorem dropDoc_link (n : Nat) (s : State) : (dropDoc n s).link = s.link := rfl

@[simp] theorem respond_pending (tag : Byte) (kind : ReqKind) (status : Status) (content : Content) (s : State) : (respond tag kind status content s).pending = s.pending := rfl
@[simp] theorem respond_part (tag : Byte) (kind : ReqKind) (status : Status) (content : Content) (s : State) : (respond tag kind status content s).part = s.part := rfl
@[simp] theorem respond_clock (tag : Byte) (kind : ReqKind) (status : Status) (content : Content) (s : State) : (respond tag kind status content s).clock = s.clock := rfl
@[simp] theorem respond_policy (tag : Byte) (kind : ReqKind) (status : Status) (content : Content) (s : State) : (respond tag kind status content s).policy = s.policy := rfl
@[simp] theorem respond_store (tag : Byte) (kind : ReqKind) (status : Status) (content : Content) (s : State) : (respond tag kind status content s).store = s.store := rfl
@[simp] theorem respond_mem (tag : Byte) (kind : ReqKind) (status : Status) (content : Content) (s : State) : (respond tag kind status content s).mem = s.mem := rfl
@[simp] theorem respond_dram (tag : Byte) (kind : ReqKind) (status : Status) (content : Content) (s : State) : (respond tag kind status content s).dram = s.dram := rfl
@[simp] theorem respond_dir (tag : Byte) (kind : ReqKind) (status : Status) (content : Content) (s : State) : (respond tag kind status content s).dir = s.dir := rfl
@[simp] theorem respond_routes (tag : Byte) (kind : ReqKind) (status : Status) (content : Content) (s : State) : (respond tag kind status content s).routes = s.routes := rfl
@[simp] theorem respond_lines (tag : Byte) (kind : ReqKind) (status : Status) (content : Content) (s : State) : (respond tag kind status content s).lines = s.lines := rfl
@[simp] theorem respond_callers (tag : Byte) (kind : ReqKind) (status : Status) (content : Content) (s : State) : (respond tag kind status content s).callers = s.callers := rfl
@[simp] theorem respond_fwd (tag : Byte) (kind : ReqKind) (status : Status) (content : Content) (s : State) : (respond tag kind status content s).fwd = s.fwd := rfl
@[simp] theorem respond_collect (tag : Byte) (kind : ReqKind) (status : Status) (content : Content) (s : State) : (respond tag kind status content s).collect = s.collect := rfl
@[simp] theorem respond_journal (tag : Byte) (kind : ReqKind) (status : Status) (content : Content) (s : State) : (respond tag kind status content s).journal = s.journal := rfl
@[simp] theorem respond_integrity (tag : Byte) (kind : ReqKind) (status : Status) (content : Content) (s : State) : (respond tag kind status content s).integrity = s.integrity := rfl

@[simp] theorem oweRun_pending (s : State) : (oweRun s).pending = s.pending := rfl
@[simp] theorem oweRun_part (s : State) : (oweRun s).part = s.part := rfl
@[simp] theorem oweRun_clock (s : State) : (oweRun s).clock = s.clock := rfl
@[simp] theorem oweRun_policy (s : State) : (oweRun s).policy = s.policy := rfl
@[simp] theorem oweRun_store (s : State) : (oweRun s).store = s.store := rfl
@[simp] theorem oweRun_mem (s : State) : (oweRun s).mem = s.mem := rfl
@[simp] theorem oweRun_dram (s : State) : (oweRun s).dram = s.dram := rfl
@[simp] theorem oweRun_dir (s : State) : (oweRun s).dir = s.dir := rfl
@[simp] theorem oweRun_routes (s : State) : (oweRun s).routes = s.routes := rfl
@[simp] theorem oweRun_lines (s : State) : (oweRun s).lines = s.lines := rfl
@[simp] theorem oweRun_callers (s : State) : (oweRun s).callers = s.callers := rfl
@[simp] theorem oweRun_collect (s : State) : (oweRun s).collect = s.collect := rfl
@[simp] theorem oweRun_journal (s : State) : (oweRun s).journal = s.journal := rfl
@[simp] theorem oweRun_integrity (s : State) : (oweRun s).integrity = s.integrity := rfl
@[simp] theorem oweRun_link (s : State) : (oweRun s).link = s.link := rfl

@[simp] theorem modJob_pending (j : Nat) (f : Job → Job) (s : State) : (modJob j f s).pending = s.pending := rfl
@[simp] theorem modJob_part (j : Nat) (f : Job → Job) (s : State) : (modJob j f s).part = s.part := rfl
@[simp] theorem modJob_clock (j : Nat) (f : Job → Job) (s : State) : (modJob j f s).clock = s.clock := rfl
@[simp] theorem modJob_policy (j : Nat) (f : Job → Job) (s : State) : (modJob j f s).policy = s.policy := rfl
@[simp] theorem modJob_store (j : Nat) (f : Job → Job) (s : State) : (modJob j f s).store = s.store := rfl
@[simp] theorem modJob_mem (j : Nat) (f : Job → Job) (s : State) : (modJob j f s).mem = s.mem := rfl
@[simp] theorem modJob_dram (j : Nat) (f : Job → Job) (s : State) : (modJob j f s).dram = s.dram := rfl
@[simp] theorem modJob_dir (j : Nat) (f : Job → Job) (s : State) : (modJob j f s).dir = s.dir := rfl
@[simp] theorem modJob_routes (j : Nat) (f : Job → Job) (s : State) : (modJob j f s).routes = s.routes := rfl
@[simp] theorem modJob_lines (j : Nat) (f : Job → Job) (s : State) : (modJob j f s).lines = s.lines := rfl
@[simp] theorem modJob_callers (j : Nat) (f : Job → Job) (s : State) : (modJob j f s).callers = s.callers := rfl
@[simp] theorem modJob_collect (j : Nat) (f : Job → Job) (s : State) : (modJob j f s).collect = s.collect := rfl
@[simp] theorem modJob_journal (j : Nat) (f : Job → Job) (s : State) : (modJob j f s).journal = s.journal := rfl
@[simp] theorem modJob_integrity (j : Nat) (f : Job → Job) (s : State) : (modJob j f s).integrity = s.integrity := rfl
@[simp] theorem modJob_link (j : Nat) (f : Job → Job) (s : State) : (modJob j f s).link = s.link := rfl

@[simp] theorem dropJob_pending (j : Nat) (s : State) : (dropJob j s).pending = s.pending := rfl
@[simp] theorem dropJob_part (j : Nat) (s : State) : (dropJob j s).part = s.part := rfl
@[simp] theorem dropJob_clock (j : Nat) (s : State) : (dropJob j s).clock = s.clock := rfl
@[simp] theorem dropJob_policy (j : Nat) (s : State) : (dropJob j s).policy = s.policy := rfl
@[simp] theorem dropJob_store (j : Nat) (s : State) : (dropJob j s).store = s.store := rfl
@[simp] theorem dropJob_mem (j : Nat) (s : State) : (dropJob j s).mem = s.mem := rfl
@[simp] theorem dropJob_dram (j : Nat) (s : State) : (dropJob j s).dram = s.dram := rfl
@[simp] theorem dropJob_dir (j : Nat) (s : State) : (dropJob j s).dir = s.dir := rfl
@[simp] theorem dropJob_routes (j : Nat) (s : State) : (dropJob j s).routes = s.routes := rfl
@[simp] theorem dropJob_lines (j : Nat) (s : State) : (dropJob j s).lines = s.lines := rfl
@[simp] theorem dropJob_callers (j : Nat) (s : State) : (dropJob j s).callers = s.callers := rfl
@[simp] theorem dropJob_collect (j : Nat) (s : State) : (dropJob j s).collect = s.collect := rfl
@[simp] theorem dropJob_journal (j : Nat) (s : State) : (dropJob j s).journal = s.journal := rfl
@[simp] theorem dropJob_integrity (j : Nat) (s : State) : (dropJob j s).integrity = s.integrity := rfl
@[simp] theorem dropJob_link (j : Nat) (s : State) : (dropJob j s).link = s.link := rfl

@[simp] theorem modForward_pending (n i : Nat) (f : ForwardEntry → ForwardEntry) (s : State) : (modForward n i f s).pending = s.pending := rfl
@[simp] theorem modForward_part (n i : Nat) (f : ForwardEntry → ForwardEntry) (s : State) : (modForward n i f s).part = s.part := rfl
@[simp] theorem modForward_clock (n i : Nat) (f : ForwardEntry → ForwardEntry) (s : State) : (modForward n i f s).clock = s.clock := rfl
@[simp] theorem modForward_policy (n i : Nat) (f : ForwardEntry → ForwardEntry) (s : State) : (modForward n i f s).policy = s.policy := rfl
@[simp] theorem modForward_store (n i : Nat) (f : ForwardEntry → ForwardEntry) (s : State) : (modForward n i f s).store = s.store := rfl
@[simp] theorem modForward_mem (n i : Nat) (f : ForwardEntry → ForwardEntry) (s : State) : (modForward n i f s).mem = s.mem := rfl
@[simp] theorem modForward_dram (n i : Nat) (f : ForwardEntry → ForwardEntry) (s : State) : (modForward n i f s).dram = s.dram := rfl
@[simp] theorem modForward_routes (n i : Nat) (f : ForwardEntry → ForwardEntry) (s : State) : (modForward n i f s).routes = s.routes := rfl
@[simp] theorem modForward_lines (n i : Nat) (f : ForwardEntry → ForwardEntry) (s : State) : (modForward n i f s).lines = s.lines := rfl
@[simp] theorem modForward_callers (n i : Nat) (f : ForwardEntry → ForwardEntry) (s : State) : (modForward n i f s).callers = s.callers := rfl
@[simp] theorem modForward_fwd (n i : Nat) (f : ForwardEntry → ForwardEntry) (s : State) : (modForward n i f s).fwd = s.fwd := rfl
@[simp] theorem modForward_collect (n i : Nat) (f : ForwardEntry → ForwardEntry) (s : State) : (modForward n i f s).collect = s.collect := rfl
@[simp] theorem modForward_journal (n i : Nat) (f : ForwardEntry → ForwardEntry) (s : State) : (modForward n i f s).journal = s.journal := rfl
@[simp] theorem modForward_integrity (n i : Nat) (f : ForwardEntry → ForwardEntry) (s : State) : (modForward n i f s).integrity = s.integrity := rfl
@[simp] theorem modForward_link (n i : Nat) (f : ForwardEntry → ForwardEntry) (s : State) : (modForward n i f s).link = s.link := rfl

@[simp] theorem addForwardEntry_pending (n : Nat) (e : ForwardEntry) (s : State) : (addForwardEntry n e s).pending = s.pending := rfl
@[simp] theorem addForwardEntry_part (n : Nat) (e : ForwardEntry) (s : State) : (addForwardEntry n e s).part = s.part := rfl
@[simp] theorem addForwardEntry_clock (n : Nat) (e : ForwardEntry) (s : State) : (addForwardEntry n e s).clock = s.clock := rfl
@[simp] theorem addForwardEntry_policy (n : Nat) (e : ForwardEntry) (s : State) : (addForwardEntry n e s).policy = s.policy := rfl
@[simp] theorem addForwardEntry_store (n : Nat) (e : ForwardEntry) (s : State) : (addForwardEntry n e s).store = s.store := rfl
@[simp] theorem addForwardEntry_mem (n : Nat) (e : ForwardEntry) (s : State) : (addForwardEntry n e s).mem = s.mem := rfl
@[simp] theorem addForwardEntry_dram (n : Nat) (e : ForwardEntry) (s : State) : (addForwardEntry n e s).dram = s.dram := rfl
@[simp] theorem addForwardEntry_routes (n : Nat) (e : ForwardEntry) (s : State) : (addForwardEntry n e s).routes = s.routes := rfl
@[simp] theorem addForwardEntry_lines (n : Nat) (e : ForwardEntry) (s : State) : (addForwardEntry n e s).lines = s.lines := rfl
@[simp] theorem addForwardEntry_callers (n : Nat) (e : ForwardEntry) (s : State) : (addForwardEntry n e s).callers = s.callers := rfl
@[simp] theorem addForwardEntry_fwd (n : Nat) (e : ForwardEntry) (s : State) : (addForwardEntry n e s).fwd = s.fwd := rfl
@[simp] theorem addForwardEntry_collect (n : Nat) (e : ForwardEntry) (s : State) : (addForwardEntry n e s).collect = s.collect := rfl
@[simp] theorem addForwardEntry_journal (n : Nat) (e : ForwardEntry) (s : State) : (addForwardEntry n e s).journal = s.journal := rfl
@[simp] theorem addForwardEntry_integrity (n : Nat) (e : ForwardEntry) (s : State) : (addForwardEntry n e s).integrity = s.integrity := rfl
@[simp] theorem addForwardEntry_link (n : Nat) (e : ForwardEntry) (s : State) : (addForwardEntry n e s).link = s.link := rfl

@[simp] theorem handClass_pending (number : Text) (c : CallClass) (s : State) : (handClass number c s).pending = s.pending := rfl
@[simp] theorem handClass_part (number : Text) (c : CallClass) (s : State) : (handClass number c s).part = s.part := rfl
@[simp] theorem handClass_clock (number : Text) (c : CallClass) (s : State) : (handClass number c s).clock = s.clock := rfl
@[simp] theorem handClass_policy (number : Text) (c : CallClass) (s : State) : (handClass number c s).policy = s.policy := rfl
@[simp] theorem handClass_store (number : Text) (c : CallClass) (s : State) : (handClass number c s).store = s.store := rfl
@[simp] theorem handClass_mem (number : Text) (c : CallClass) (s : State) : (handClass number c s).mem = s.mem := rfl
@[simp] theorem handClass_dram (number : Text) (c : CallClass) (s : State) : (handClass number c s).dram = s.dram := rfl
@[simp] theorem handClass_dir (number : Text) (c : CallClass) (s : State) : (handClass number c s).dir = s.dir := rfl
@[simp] theorem handClass_routes (number : Text) (c : CallClass) (s : State) : (handClass number c s).routes = s.routes := rfl
@[simp] theorem handClass_lines (number : Text) (c : CallClass) (s : State) : (handClass number c s).lines = s.lines := rfl
@[simp] theorem handClass_fwd (number : Text) (c : CallClass) (s : State) : (handClass number c s).fwd = s.fwd := rfl
@[simp] theorem handClass_collect (number : Text) (c : CallClass) (s : State) : (handClass number c s).collect = s.collect := rfl
@[simp] theorem handClass_journal (number : Text) (c : CallClass) (s : State) : (handClass number c s).journal = s.journal := rfl
@[simp] theorem handClass_integrity (number : Text) (c : CallClass) (s : State) : (handClass number c s).integrity = s.integrity := rfl
@[simp] theorem handClass_link (number : Text) (c : CallClass) (s : State) : (handClass number c s).link = s.link := rfl

@[simp] theorem modLine_pending (n : LineNo) (f : Line → Line) (s : State) : (modLine n f s).pending = s.pending := rfl
@[simp] theorem modLine_part (n : LineNo) (f : Line → Line) (s : State) : (modLine n f s).part = s.part := rfl
@[simp] theorem modLine_clock (n : LineNo) (f : Line → Line) (s : State) : (modLine n f s).clock = s.clock := rfl
@[simp] theorem modLine_policy (n : LineNo) (f : Line → Line) (s : State) : (modLine n f s).policy = s.policy := rfl
@[simp] theorem modLine_store (n : LineNo) (f : Line → Line) (s : State) : (modLine n f s).store = s.store := rfl
@[simp] theorem modLine_mem (n : LineNo) (f : Line → Line) (s : State) : (modLine n f s).mem = s.mem := rfl
@[simp] theorem modLine_dram (n : LineNo) (f : Line → Line) (s : State) : (modLine n f s).dram = s.dram := rfl
@[simp] theorem modLine_dir (n : LineNo) (f : Line → Line) (s : State) : (modLine n f s).dir = s.dir := rfl
@[simp] theorem modLine_routes (n : LineNo) (f : Line → Line) (s : State) : (modLine n f s).routes = s.routes := rfl
@[simp] theorem modLine_callers (n : LineNo) (f : Line → Line) (s : State) : (modLine n f s).callers = s.callers := rfl
@[simp] theorem modLine_fwd (n : LineNo) (f : Line → Line) (s : State) : (modLine n f s).fwd = s.fwd := rfl
@[simp] theorem modLine_collect (n : LineNo) (f : Line → Line) (s : State) : (modLine n f s).collect = s.collect := rfl
@[simp] theorem modLine_journal (n : LineNo) (f : Line → Line) (s : State) : (modLine n f s).journal = s.journal := rfl
@[simp] theorem modLine_integrity (n : LineNo) (f : Line → Line) (s : State) : (modLine n f s).integrity = s.integrity := rfl
@[simp] theorem modLine_link (n : LineNo) (f : Line → Line) (s : State) : (modLine n f s).link = s.link := rfl

@[simp] theorem modStats_pending (n : LineNo) (f : LineStats → LineStats) (s : State) : (modStats n f s).pending = s.pending := rfl
@[simp] theorem modStats_part (n : LineNo) (f : LineStats → LineStats) (s : State) : (modStats n f s).part = s.part := rfl
@[simp] theorem modStats_clock (n : LineNo) (f : LineStats → LineStats) (s : State) : (modStats n f s).clock = s.clock := rfl
@[simp] theorem modStats_policy (n : LineNo) (f : LineStats → LineStats) (s : State) : (modStats n f s).policy = s.policy := rfl
@[simp] theorem modStats_store (n : LineNo) (f : LineStats → LineStats) (s : State) : (modStats n f s).store = s.store := rfl
@[simp] theorem modStats_mem (n : LineNo) (f : LineStats → LineStats) (s : State) : (modStats n f s).mem = s.mem := rfl
@[simp] theorem modStats_dram (n : LineNo) (f : LineStats → LineStats) (s : State) : (modStats n f s).dram = s.dram := rfl
@[simp] theorem modStats_dir (n : LineNo) (f : LineStats → LineStats) (s : State) : (modStats n f s).dir = s.dir := rfl
@[simp] theorem modStats_routes (n : LineNo) (f : LineStats → LineStats) (s : State) : (modStats n f s).routes = s.routes := rfl
@[simp] theorem modStats_callers (n : LineNo) (f : LineStats → LineStats) (s : State) : (modStats n f s).callers = s.callers := rfl
@[simp] theorem modStats_fwd (n : LineNo) (f : LineStats → LineStats) (s : State) : (modStats n f s).fwd = s.fwd := rfl
@[simp] theorem modStats_collect (n : LineNo) (f : LineStats → LineStats) (s : State) : (modStats n f s).collect = s.collect := rfl
@[simp] theorem modStats_journal (n : LineNo) (f : LineStats → LineStats) (s : State) : (modStats n f s).journal = s.journal := rfl
@[simp] theorem modStats_integrity (n : LineNo) (f : LineStats → LineStats) (s : State) : (modStats n f s).integrity = s.integrity := rfl
@[simp] theorem modStats_link (n : LineNo) (f : LineStats → LineStats) (s : State) : (modStats n f s).link = s.link := rfl

@[simp] theorem sendCmd_pending (n : LineNo) (c : PortCommand) (s : State) : (sendCmd n c s).pending = s.pending := rfl
@[simp] theorem sendCmd_part (n : LineNo) (c : PortCommand) (s : State) : (sendCmd n c s).part = s.part := rfl
@[simp] theorem sendCmd_clock (n : LineNo) (c : PortCommand) (s : State) : (sendCmd n c s).clock = s.clock := rfl
@[simp] theorem sendCmd_policy (n : LineNo) (c : PortCommand) (s : State) : (sendCmd n c s).policy = s.policy := rfl
@[simp] theorem sendCmd_store (n : LineNo) (c : PortCommand) (s : State) : (sendCmd n c s).store = s.store := rfl
@[simp] theorem sendCmd_mem (n : LineNo) (c : PortCommand) (s : State) : (sendCmd n c s).mem = s.mem := rfl
@[simp] theorem sendCmd_dram (n : LineNo) (c : PortCommand) (s : State) : (sendCmd n c s).dram = s.dram := rfl
@[simp] theorem sendCmd_dir (n : LineNo) (c : PortCommand) (s : State) : (sendCmd n c s).dir = s.dir := rfl
@[simp] theorem sendCmd_routes (n : LineNo) (c : PortCommand) (s : State) : (sendCmd n c s).routes = s.routes := rfl
@[simp] theorem sendCmd_callers (n : LineNo) (c : PortCommand) (s : State) : (sendCmd n c s).callers = s.callers := rfl
@[simp] theorem sendCmd_fwd (n : LineNo) (c : PortCommand) (s : State) : (sendCmd n c s).fwd = s.fwd := rfl
@[simp] theorem sendCmd_collect (n : LineNo) (c : PortCommand) (s : State) : (sendCmd n c s).collect = s.collect := rfl
@[simp] theorem sendCmd_journal (n : LineNo) (c : PortCommand) (s : State) : (sendCmd n c s).journal = s.journal := rfl
@[simp] theorem sendCmd_integrity (n : LineNo) (c : PortCommand) (s : State) : (sendCmd n c s).integrity = s.integrity := rfl
@[simp] theorem sendCmd_link (n : LineNo) (c : PortCommand) (s : State) : (sendCmd n c s).link = s.link := rfl

@[simp] theorem setChan_pending (n : LineNo) (c : Chan) (s : State) : (setChan n c s).pending = s.pending := rfl
@[simp] theorem setChan_part (n : LineNo) (c : Chan) (s : State) : (setChan n c s).part = s.part := rfl
@[simp] theorem setChan_clock (n : LineNo) (c : Chan) (s : State) : (setChan n c s).clock = s.clock := rfl
@[simp] theorem setChan_policy (n : LineNo) (c : Chan) (s : State) : (setChan n c s).policy = s.policy := rfl
@[simp] theorem setChan_store (n : LineNo) (c : Chan) (s : State) : (setChan n c s).store = s.store := rfl
@[simp] theorem setChan_mem (n : LineNo) (c : Chan) (s : State) : (setChan n c s).mem = s.mem := rfl
@[simp] theorem setChan_dram (n : LineNo) (c : Chan) (s : State) : (setChan n c s).dram = s.dram := rfl
@[simp] theorem setChan_dir (n : LineNo) (c : Chan) (s : State) : (setChan n c s).dir = s.dir := rfl
@[simp] theorem setChan_routes (n : LineNo) (c : Chan) (s : State) : (setChan n c s).routes = s.routes := rfl
@[simp] theorem setChan_callers (n : LineNo) (c : Chan) (s : State) : (setChan n c s).callers = s.callers := rfl
@[simp] theorem setChan_fwd (n : LineNo) (c : Chan) (s : State) : (setChan n c s).fwd = s.fwd := rfl
@[simp] theorem setChan_collect (n : LineNo) (c : Chan) (s : State) : (setChan n c s).collect = s.collect := rfl
@[simp] theorem setChan_journal (n : LineNo) (c : Chan) (s : State) : (setChan n c s).journal = s.journal := rfl
@[simp] theorem setChan_integrity (n : LineNo) (c : Chan) (s : State) : (setChan n c s).integrity = s.integrity := rfl
@[simp] theorem setChan_link (n : LineNo) (c : Chan) (s : State) : (setChan n c s).link = s.link := rfl

@[simp] theorem setWait_pending (n : LineNo) (w : Option Wait) (s : State) : (setWait n w s).pending = s.pending := rfl
@[simp] theorem setWait_part (n : LineNo) (w : Option Wait) (s : State) : (setWait n w s).part = s.part := rfl
@[simp] theorem setWait_clock (n : LineNo) (w : Option Wait) (s : State) : (setWait n w s).clock = s.clock := rfl
@[simp] theorem setWait_policy (n : LineNo) (w : Option Wait) (s : State) : (setWait n w s).policy = s.policy := rfl
@[simp] theorem setWait_store (n : LineNo) (w : Option Wait) (s : State) : (setWait n w s).store = s.store := rfl
@[simp] theorem setWait_mem (n : LineNo) (w : Option Wait) (s : State) : (setWait n w s).mem = s.mem := rfl
@[simp] theorem setWait_dram (n : LineNo) (w : Option Wait) (s : State) : (setWait n w s).dram = s.dram := rfl
@[simp] theorem setWait_dir (n : LineNo) (w : Option Wait) (s : State) : (setWait n w s).dir = s.dir := rfl
@[simp] theorem setWait_routes (n : LineNo) (w : Option Wait) (s : State) : (setWait n w s).routes = s.routes := rfl
@[simp] theorem setWait_callers (n : LineNo) (w : Option Wait) (s : State) : (setWait n w s).callers = s.callers := rfl
@[simp] theorem setWait_fwd (n : LineNo) (w : Option Wait) (s : State) : (setWait n w s).fwd = s.fwd := rfl
@[simp] theorem setWait_collect (n : LineNo) (w : Option Wait) (s : State) : (setWait n w s).collect = s.collect := rfl
@[simp] theorem setWait_journal (n : LineNo) (w : Option Wait) (s : State) : (setWait n w s).journal = s.journal := rfl
@[simp] theorem setWait_integrity (n : LineNo) (w : Option Wait) (s : State) : (setWait n w s).integrity = s.integrity := rfl
@[simp] theorem setWait_link (n : LineNo) (w : Option Wait) (s : State) : (setWait n w s).link = s.link := rfl

@[simp] theorem startWait_pending (n : LineNo) (k : WaitKind) (ms : Nat) (s : State) : (startWait n k ms s).pending = s.pending := rfl
@[simp] theorem startWait_part (n : LineNo) (k : WaitKind) (ms : Nat) (s : State) : (startWait n k ms s).part = s.part := rfl
@[simp] theorem startWait_clock (n : LineNo) (k : WaitKind) (ms : Nat) (s : State) : (startWait n k ms s).clock = s.clock := rfl
@[simp] theorem startWait_policy (n : LineNo) (k : WaitKind) (ms : Nat) (s : State) : (startWait n k ms s).policy = s.policy := rfl
@[simp] theorem startWait_store (n : LineNo) (k : WaitKind) (ms : Nat) (s : State) : (startWait n k ms s).store = s.store := rfl
@[simp] theorem startWait_mem (n : LineNo) (k : WaitKind) (ms : Nat) (s : State) : (startWait n k ms s).mem = s.mem := rfl
@[simp] theorem startWait_dram (n : LineNo) (k : WaitKind) (ms : Nat) (s : State) : (startWait n k ms s).dram = s.dram := rfl
@[simp] theorem startWait_dir (n : LineNo) (k : WaitKind) (ms : Nat) (s : State) : (startWait n k ms s).dir = s.dir := rfl
@[simp] theorem startWait_routes (n : LineNo) (k : WaitKind) (ms : Nat) (s : State) : (startWait n k ms s).routes = s.routes := rfl
@[simp] theorem startWait_callers (n : LineNo) (k : WaitKind) (ms : Nat) (s : State) : (startWait n k ms s).callers = s.callers := rfl
@[simp] theorem startWait_fwd (n : LineNo) (k : WaitKind) (ms : Nat) (s : State) : (startWait n k ms s).fwd = s.fwd := rfl
@[simp] theorem startWait_collect (n : LineNo) (k : WaitKind) (ms : Nat) (s : State) : (startWait n k ms s).collect = s.collect := rfl
@[simp] theorem startWait_journal (n : LineNo) (k : WaitKind) (ms : Nat) (s : State) : (startWait n k ms s).journal = s.journal := rfl
@[simp] theorem startWait_integrity (n : LineNo) (k : WaitKind) (ms : Nat) (s : State) : (startWait n k ms s).integrity = s.integrity := rfl
@[simp] theorem startWait_link (n : LineNo) (k : WaitKind) (ms : Nat) (s : State) : (startWait n k ms s).link = s.link := rfl

@[simp] theorem modRx_pending (n : LineNo) (f : RxCall → RxCall) (s : State) : (modRx n f s).pending = s.pending := rfl
@[simp] theorem modRx_part (n : LineNo) (f : RxCall → RxCall) (s : State) : (modRx n f s).part = s.part := rfl
@[simp] theorem modRx_clock (n : LineNo) (f : RxCall → RxCall) (s : State) : (modRx n f s).clock = s.clock := rfl
@[simp] theorem modRx_policy (n : LineNo) (f : RxCall → RxCall) (s : State) : (modRx n f s).policy = s.policy := rfl
@[simp] theorem modRx_store (n : LineNo) (f : RxCall → RxCall) (s : State) : (modRx n f s).store = s.store := rfl
@[simp] theorem modRx_mem (n : LineNo) (f : RxCall → RxCall) (s : State) : (modRx n f s).mem = s.mem := rfl
@[simp] theorem modRx_dram (n : LineNo) (f : RxCall → RxCall) (s : State) : (modRx n f s).dram = s.dram := rfl
@[simp] theorem modRx_dir (n : LineNo) (f : RxCall → RxCall) (s : State) : (modRx n f s).dir = s.dir := rfl
@[simp] theorem modRx_routes (n : LineNo) (f : RxCall → RxCall) (s : State) : (modRx n f s).routes = s.routes := rfl
@[simp] theorem modRx_callers (n : LineNo) (f : RxCall → RxCall) (s : State) : (modRx n f s).callers = s.callers := rfl
@[simp] theorem modRx_fwd (n : LineNo) (f : RxCall → RxCall) (s : State) : (modRx n f s).fwd = s.fwd := rfl
@[simp] theorem modRx_collect (n : LineNo) (f : RxCall → RxCall) (s : State) : (modRx n f s).collect = s.collect := rfl
@[simp] theorem modRx_journal (n : LineNo) (f : RxCall → RxCall) (s : State) : (modRx n f s).journal = s.journal := rfl
@[simp] theorem modRx_integrity (n : LineNo) (f : RxCall → RxCall) (s : State) : (modRx n f s).integrity = s.integrity := rfl
@[simp] theorem modRx_link (n : LineNo) (f : RxCall → RxCall) (s : State) : (modRx n f s).link = s.link := rfl

@[simp] theorem modTx_pending (n : LineNo) (f : TxCall → TxCall) (s : State) : (modTx n f s).pending = s.pending := rfl
@[simp] theorem modTx_part (n : LineNo) (f : TxCall → TxCall) (s : State) : (modTx n f s).part = s.part := rfl
@[simp] theorem modTx_clock (n : LineNo) (f : TxCall → TxCall) (s : State) : (modTx n f s).clock = s.clock := rfl
@[simp] theorem modTx_policy (n : LineNo) (f : TxCall → TxCall) (s : State) : (modTx n f s).policy = s.policy := rfl
@[simp] theorem modTx_store (n : LineNo) (f : TxCall → TxCall) (s : State) : (modTx n f s).store = s.store := rfl
@[simp] theorem modTx_mem (n : LineNo) (f : TxCall → TxCall) (s : State) : (modTx n f s).mem = s.mem := rfl
@[simp] theorem modTx_dram (n : LineNo) (f : TxCall → TxCall) (s : State) : (modTx n f s).dram = s.dram := rfl
@[simp] theorem modTx_dir (n : LineNo) (f : TxCall → TxCall) (s : State) : (modTx n f s).dir = s.dir := rfl
@[simp] theorem modTx_routes (n : LineNo) (f : TxCall → TxCall) (s : State) : (modTx n f s).routes = s.routes := rfl
@[simp] theorem modTx_callers (n : LineNo) (f : TxCall → TxCall) (s : State) : (modTx n f s).callers = s.callers := rfl
@[simp] theorem modTx_fwd (n : LineNo) (f : TxCall → TxCall) (s : State) : (modTx n f s).fwd = s.fwd := rfl
@[simp] theorem modTx_collect (n : LineNo) (f : TxCall → TxCall) (s : State) : (modTx n f s).collect = s.collect := rfl
@[simp] theorem modTx_journal (n : LineNo) (f : TxCall → TxCall) (s : State) : (modTx n f s).journal = s.journal := rfl
@[simp] theorem modTx_integrity (n : LineNo) (f : TxCall → TxCall) (s : State) : (modTx n f s).integrity = s.integrity := rfl
@[simp] theorem modTx_link (n : LineNo) (f : TxCall → TxCall) (s : State) : (modTx n f s).link = s.link := rfl

@[simp] theorem report_pending (n : LineNo) (s : State) : (report n s).pending = s.pending := rfl
@[simp] theorem report_part (n : LineNo) (s : State) : (report n s).part = s.part := rfl
@[simp] theorem report_clock (n : LineNo) (s : State) : (report n s).clock = s.clock := rfl
@[simp] theorem report_policy (n : LineNo) (s : State) : (report n s).policy = s.policy := rfl
@[simp] theorem report_store (n : LineNo) (s : State) : (report n s).store = s.store := rfl
@[simp] theorem report_mem (n : LineNo) (s : State) : (report n s).mem = s.mem := rfl
@[simp] theorem report_dram (n : LineNo) (s : State) : (report n s).dram = s.dram := rfl
@[simp] theorem report_dir (n : LineNo) (s : State) : (report n s).dir = s.dir := rfl
@[simp] theorem report_routes (n : LineNo) (s : State) : (report n s).routes = s.routes := rfl
@[simp] theorem report_lines (n : LineNo) (s : State) : (report n s).lines = s.lines := rfl
@[simp] theorem report_callers (n : LineNo) (s : State) : (report n s).callers = s.callers := rfl
@[simp] theorem report_collect (n : LineNo) (s : State) : (report n s).collect = s.collect := rfl
@[simp] theorem report_journal (n : LineNo) (s : State) : (report n s).journal = s.journal := rfl
@[simp] theorem report_integrity (n : LineNo) (s : State) : (report n s).integrity = s.integrity := rfl
@[simp] theorem report_link (n : LineNo) (s : State) : (report n s).link = s.link := rfl

@[simp] theorem reportRun_pending (n : LineNo) (s : State) : (reportRun n s).pending = s.pending := rfl
@[simp] theorem reportRun_part (n : LineNo) (s : State) : (reportRun n s).part = s.part := rfl
@[simp] theorem reportRun_clock (n : LineNo) (s : State) : (reportRun n s).clock = s.clock := rfl
@[simp] theorem reportRun_policy (n : LineNo) (s : State) : (reportRun n s).policy = s.policy := rfl
@[simp] theorem reportRun_store (n : LineNo) (s : State) : (reportRun n s).store = s.store := rfl
@[simp] theorem reportRun_mem (n : LineNo) (s : State) : (reportRun n s).mem = s.mem := rfl
@[simp] theorem reportRun_dram (n : LineNo) (s : State) : (reportRun n s).dram = s.dram := rfl
@[simp] theorem reportRun_dir (n : LineNo) (s : State) : (reportRun n s).dir = s.dir := rfl
@[simp] theorem reportRun_routes (n : LineNo) (s : State) : (reportRun n s).routes = s.routes := rfl
@[simp] theorem reportRun_lines (n : LineNo) (s : State) : (reportRun n s).lines = s.lines := rfl
@[simp] theorem reportRun_callers (n : LineNo) (s : State) : (reportRun n s).callers = s.callers := rfl
@[simp] theorem reportRun_collect (n : LineNo) (s : State) : (reportRun n s).collect = s.collect := rfl
@[simp] theorem reportRun_journal (n : LineNo) (s : State) : (reportRun n s).journal = s.journal := rfl
@[simp] theorem reportRun_integrity (n : LineNo) (s : State) : (reportRun n s).integrity = s.integrity := rfl
@[simp] theorem reportRun_link (n : LineNo) (s : State) : (reportRun n s).link = s.link := rfl

@[simp] theorem releaseWith_pending (n : LineNo) (c : PortCommand) (s : State) : (releaseWith n c s).pending = s.pending := rfl
@[simp] theorem releaseWith_part (n : LineNo) (c : PortCommand) (s : State) : (releaseWith n c s).part = s.part := rfl
@[simp] theorem releaseWith_clock (n : LineNo) (c : PortCommand) (s : State) : (releaseWith n c s).clock = s.clock := rfl
@[simp] theorem releaseWith_policy (n : LineNo) (c : PortCommand) (s : State) : (releaseWith n c s).policy = s.policy := rfl
@[simp] theorem releaseWith_store (n : LineNo) (c : PortCommand) (s : State) : (releaseWith n c s).store = s.store := rfl
@[simp] theorem releaseWith_mem (n : LineNo) (c : PortCommand) (s : State) : (releaseWith n c s).mem = s.mem := rfl
@[simp] theorem releaseWith_dram (n : LineNo) (c : PortCommand) (s : State) : (releaseWith n c s).dram = s.dram := rfl
@[simp] theorem releaseWith_dir (n : LineNo) (c : PortCommand) (s : State) : (releaseWith n c s).dir = s.dir := rfl
@[simp] theorem releaseWith_routes (n : LineNo) (c : PortCommand) (s : State) : (releaseWith n c s).routes = s.routes := rfl
@[simp] theorem releaseWith_callers (n : LineNo) (c : PortCommand) (s : State) : (releaseWith n c s).callers = s.callers := rfl
@[simp] theorem releaseWith_fwd (n : LineNo) (c : PortCommand) (s : State) : (releaseWith n c s).fwd = s.fwd := rfl
@[simp] theorem releaseWith_collect (n : LineNo) (c : PortCommand) (s : State) : (releaseWith n c s).collect = s.collect := rfl
@[simp] theorem releaseWith_journal (n : LineNo) (c : PortCommand) (s : State) : (releaseWith n c s).journal = s.journal := rfl
@[simp] theorem releaseWith_integrity (n : LineNo) (c : PortCommand) (s : State) : (releaseWith n c s).integrity = s.integrity := rfl
@[simp] theorem releaseWith_link (n : LineNo) (c : PortCommand) (s : State) : (releaseWith n c s).link = s.link := rfl

@[simp] theorem takeFrame_pending (tag : Byte) (s : State) : (takeFrame tag s).pending = s.pending := rfl
@[simp] theorem takeFrame_part (tag : Byte) (s : State) : (takeFrame tag s).part = s.part := rfl
@[simp] theorem takeFrame_clock (tag : Byte) (s : State) : (takeFrame tag s).clock = s.clock := rfl
@[simp] theorem takeFrame_policy (tag : Byte) (s : State) : (takeFrame tag s).policy = s.policy := rfl
@[simp] theorem takeFrame_store (tag : Byte) (s : State) : (takeFrame tag s).store = s.store := rfl
@[simp] theorem takeFrame_mem (tag : Byte) (s : State) : (takeFrame tag s).mem = s.mem := rfl
@[simp] theorem takeFrame_dram (tag : Byte) (s : State) : (takeFrame tag s).dram = s.dram := rfl
@[simp] theorem takeFrame_dir (tag : Byte) (s : State) : (takeFrame tag s).dir = s.dir := rfl
@[simp] theorem takeFrame_routes (tag : Byte) (s : State) : (takeFrame tag s).routes = s.routes := rfl
@[simp] theorem takeFrame_lines (tag : Byte) (s : State) : (takeFrame tag s).lines = s.lines := rfl
@[simp] theorem takeFrame_callers (tag : Byte) (s : State) : (takeFrame tag s).callers = s.callers := rfl
@[simp] theorem takeFrame_fwd (tag : Byte) (s : State) : (takeFrame tag s).fwd = s.fwd := rfl
@[simp] theorem takeFrame_collect (tag : Byte) (s : State) : (takeFrame tag s).collect = s.collect := rfl
@[simp] theorem takeFrame_journal (tag : Byte) (s : State) : (takeFrame tag s).journal = s.journal := rfl
@[simp] theorem takeFrame_integrity (tag : Byte) (s : State) : (takeFrame tag s).integrity = s.integrity := rfl

@[simp] theorem countCheckError_pending (s : State) : (countCheckError s).pending = s.pending := rfl
@[simp] theorem countCheckError_part (s : State) : (countCheckError s).part = s.part := rfl
@[simp] theorem countCheckError_clock (s : State) : (countCheckError s).clock = s.clock := rfl
@[simp] theorem countCheckError_policy (s : State) : (countCheckError s).policy = s.policy := rfl
@[simp] theorem countCheckError_store (s : State) : (countCheckError s).store = s.store := rfl
@[simp] theorem countCheckError_mem (s : State) : (countCheckError s).mem = s.mem := rfl
@[simp] theorem countCheckError_dram (s : State) : (countCheckError s).dram = s.dram := rfl
@[simp] theorem countCheckError_dir (s : State) : (countCheckError s).dir = s.dir := rfl
@[simp] theorem countCheckError_routes (s : State) : (countCheckError s).routes = s.routes := rfl
@[simp] theorem countCheckError_lines (s : State) : (countCheckError s).lines = s.lines := rfl
@[simp] theorem countCheckError_callers (s : State) : (countCheckError s).callers = s.callers := rfl
@[simp] theorem countCheckError_fwd (s : State) : (countCheckError s).fwd = s.fwd := rfl
@[simp] theorem countCheckError_collect (s : State) : (countCheckError s).collect = s.collect := rfl
@[simp] theorem countCheckError_journal (s : State) : (countCheckError s).journal = s.journal := rfl
@[simp] theorem countCheckError_integrity (s : State) : (countCheckError s).integrity = s.integrity := rfl

@[simp] theorem countLengthError_pending (s : State) : (countLengthError s).pending = s.pending := rfl
@[simp] theorem countLengthError_part (s : State) : (countLengthError s).part = s.part := rfl
@[simp] theorem countLengthError_clock (s : State) : (countLengthError s).clock = s.clock := rfl
@[simp] theorem countLengthError_policy (s : State) : (countLengthError s).policy = s.policy := rfl
@[simp] theorem countLengthError_store (s : State) : (countLengthError s).store = s.store := rfl
@[simp] theorem countLengthError_mem (s : State) : (countLengthError s).mem = s.mem := rfl
@[simp] theorem countLengthError_dram (s : State) : (countLengthError s).dram = s.dram := rfl
@[simp] theorem countLengthError_dir (s : State) : (countLengthError s).dir = s.dir := rfl
@[simp] theorem countLengthError_routes (s : State) : (countLengthError s).routes = s.routes := rfl
@[simp] theorem countLengthError_lines (s : State) : (countLengthError s).lines = s.lines := rfl
@[simp] theorem countLengthError_callers (s : State) : (countLengthError s).callers = s.callers := rfl
@[simp] theorem countLengthError_fwd (s : State) : (countLengthError s).fwd = s.fwd := rfl
@[simp] theorem countLengthError_collect (s : State) : (countLengthError s).collect = s.collect := rfl
@[simp] theorem countLengthError_journal (s : State) : (countLengthError s).journal = s.journal := rfl
@[simp] theorem countLengthError_integrity (s : State) : (countLengthError s).integrity = s.integrity := rfl

@[simp] theorem keepBytes_pending (buf : List Byte) (s : State) : (keepBytes buf s).pending = s.pending := rfl
@[simp] theorem keepBytes_part (buf : List Byte) (s : State) : (keepBytes buf s).part = s.part := rfl
@[simp] theorem keepBytes_clock (buf : List Byte) (s : State) : (keepBytes buf s).clock = s.clock := rfl
@[simp] theorem keepBytes_policy (buf : List Byte) (s : State) : (keepBytes buf s).policy = s.policy := rfl
@[simp] theorem keepBytes_store (buf : List Byte) (s : State) : (keepBytes buf s).store = s.store := rfl
@[simp] theorem keepBytes_mem (buf : List Byte) (s : State) : (keepBytes buf s).mem = s.mem := rfl
@[simp] theorem keepBytes_dram (buf : List Byte) (s : State) : (keepBytes buf s).dram = s.dram := rfl
@[simp] theorem keepBytes_dir (buf : List Byte) (s : State) : (keepBytes buf s).dir = s.dir := rfl
@[simp] theorem keepBytes_routes (buf : List Byte) (s : State) : (keepBytes buf s).routes = s.routes := rfl
@[simp] theorem keepBytes_lines (buf : List Byte) (s : State) : (keepBytes buf s).lines = s.lines := rfl
@[simp] theorem keepBytes_callers (buf : List Byte) (s : State) : (keepBytes buf s).callers = s.callers := rfl
@[simp] theorem keepBytes_fwd (buf : List Byte) (s : State) : (keepBytes buf s).fwd = s.fwd := rfl
@[simp] theorem keepBytes_collect (buf : List Byte) (s : State) : (keepBytes buf s).collect = s.collect := rfl
@[simp] theorem keepBytes_journal (buf : List Byte) (s : State) : (keepBytes buf s).journal = s.journal := rfl
@[simp] theorem keepBytes_integrity (buf : List Byte) (s : State) : (keepBytes buf s).integrity = s.integrity := rfl

@[simp] theorem setTransfer_pending (t : Option Transfer) (s : State) : (setTransfer t s).pending = s.pending := rfl
@[simp] theorem setTransfer_part (t : Option Transfer) (s : State) : (setTransfer t s).part = s.part := rfl
@[simp] theorem setTransfer_clock (t : Option Transfer) (s : State) : (setTransfer t s).clock = s.clock := rfl
@[simp] theorem setTransfer_policy (t : Option Transfer) (s : State) : (setTransfer t s).policy = s.policy := rfl
@[simp] theorem setTransfer_store (t : Option Transfer) (s : State) : (setTransfer t s).store = s.store := rfl
@[simp] theorem setTransfer_mem (t : Option Transfer) (s : State) : (setTransfer t s).mem = s.mem := rfl
@[simp] theorem setTransfer_dram (t : Option Transfer) (s : State) : (setTransfer t s).dram = s.dram := rfl
@[simp] theorem setTransfer_dir (t : Option Transfer) (s : State) : (setTransfer t s).dir = s.dir := rfl
@[simp] theorem setTransfer_routes (t : Option Transfer) (s : State) : (setTransfer t s).routes = s.routes := rfl
@[simp] theorem setTransfer_lines (t : Option Transfer) (s : State) : (setTransfer t s).lines = s.lines := rfl
@[simp] theorem setTransfer_callers (t : Option Transfer) (s : State) : (setTransfer t s).callers = s.callers := rfl
@[simp] theorem setTransfer_fwd (t : Option Transfer) (s : State) : (setTransfer t s).fwd = s.fwd := rfl
@[simp] theorem setTransfer_journal (t : Option Transfer) (s : State) : (setTransfer t s).journal = s.journal := rfl
@[simp] theorem setTransfer_integrity (t : Option Transfer) (s : State) : (setTransfer t s).integrity = s.integrity := rfl
@[simp] theorem setTransfer_link (t : Option Transfer) (s : State) : (setTransfer t s).link = s.link := rfl

@[simp] theorem advance_pending (d : Nat) (s : State) : (advance d s).pending = s.pending := rfl
@[simp] theorem advance_part (d : Nat) (s : State) : (advance d s).part = s.part := rfl
@[simp] theorem advance_policy (d : Nat) (s : State) : (advance d s).policy = s.policy := rfl
@[simp] theorem advance_store (d : Nat) (s : State) : (advance d s).store = s.store := rfl
@[simp] theorem advance_mem (d : Nat) (s : State) : (advance d s).mem = s.mem := rfl
@[simp] theorem advance_dir (d : Nat) (s : State) : (advance d s).dir = s.dir := rfl
@[simp] theorem advance_routes (d : Nat) (s : State) : (advance d s).routes = s.routes := rfl
@[simp] theorem advance_lines (d : Nat) (s : State) : (advance d s).lines = s.lines := rfl
@[simp] theorem advance_callers (d : Nat) (s : State) : (advance d s).callers = s.callers := rfl
@[simp] theorem advance_collect (d : Nat) (s : State) : (advance d s).collect = s.collect := rfl
@[simp] theorem advance_journal (d : Nat) (s : State) : (advance d s).journal = s.journal := rfl
@[simp] theorem advance_integrity (d : Nat) (s : State) : (advance d s).integrity = s.integrity := rfl
@[simp] theorem advance_link (d : Nat) (s : State) : (advance d s).link = s.link := rfl

@[simp] theorem advanceTo_pending (t : Nat) (s : State) : (advanceTo t s).pending = s.pending := rfl
@[simp] theorem advanceTo_part (t : Nat) (s : State) : (advanceTo t s).part = s.part := rfl
@[simp] theorem advanceTo_policy (t : Nat) (s : State) : (advanceTo t s).policy = s.policy := rfl
@[simp] theorem advanceTo_store (t : Nat) (s : State) : (advanceTo t s).store = s.store := rfl
@[simp] theorem advanceTo_mem (t : Nat) (s : State) : (advanceTo t s).mem = s.mem := rfl
@[simp] theorem advanceTo_dir (t : Nat) (s : State) : (advanceTo t s).dir = s.dir := rfl
@[simp] theorem advanceTo_routes (t : Nat) (s : State) : (advanceTo t s).routes = s.routes := rfl
@[simp] theorem advanceTo_lines (t : Nat) (s : State) : (advanceTo t s).lines = s.lines := rfl
@[simp] theorem advanceTo_callers (t : Nat) (s : State) : (advanceTo t s).callers = s.callers := rfl
@[simp] theorem advanceTo_collect (t : Nat) (s : State) : (advanceTo t s).collect = s.collect := rfl
@[simp] theorem advanceTo_journal (t : Nat) (s : State) : (advanceTo t s).journal = s.journal := rfl
@[simp] theorem advanceTo_integrity (t : Nat) (s : State) : (advanceTo t s).integrity = s.integrity := rfl
@[simp] theorem advanceTo_link (t : Nat) (s : State) : (advanceTo t s).link = s.link := rfl

@[simp] theorem markDamaged_pending (doc p : Nat) (s : State) : (markDamaged doc p s).pending = s.pending := rfl
@[simp] theorem markDamaged_part (doc p : Nat) (s : State) : (markDamaged doc p s).part = s.part := rfl
@[simp] theorem markDamaged_clock (doc p : Nat) (s : State) : (markDamaged doc p s).clock = s.clock := rfl
@[simp] theorem markDamaged_policy (doc p : Nat) (s : State) : (markDamaged doc p s).policy = s.policy := rfl
@[simp] theorem markDamaged_store (doc p : Nat) (s : State) : (markDamaged doc p s).store = s.store := rfl
@[simp] theorem markDamaged_mem (doc p : Nat) (s : State) : (markDamaged doc p s).mem = s.mem := rfl
@[simp] theorem markDamaged_dram (doc p : Nat) (s : State) : (markDamaged doc p s).dram = s.dram := rfl
@[simp] theorem markDamaged_routes (doc p : Nat) (s : State) : (markDamaged doc p s).routes = s.routes := rfl
@[simp] theorem markDamaged_lines (doc p : Nat) (s : State) : (markDamaged doc p s).lines = s.lines := rfl
@[simp] theorem markDamaged_callers (doc p : Nat) (s : State) : (markDamaged doc p s).callers = s.callers := rfl
@[simp] theorem markDamaged_fwd (doc p : Nat) (s : State) : (markDamaged doc p s).fwd = s.fwd := rfl
@[simp] theorem markDamaged_collect (doc p : Nat) (s : State) : (markDamaged doc p s).collect = s.collect := rfl
@[simp] theorem markDamaged_journal (doc p : Nat) (s : State) : (markDamaged doc p s).journal = s.journal := rfl
@[simp] theorem markDamaged_integrity (doc p : Nat) (s : State) : (markDamaged doc p s).integrity = s.integrity := rfl
@[simp] theorem markDamaged_link (doc p : Nat) (s : State) : (markDamaged doc p s).link = s.link := rfl

/-! ## Fields of the part an operation does write, that it leaves as they were -/

@[simp] theorem mark_link_rate (x : Subject) (s : State) : (mark x s).link.rate = s.link.rate := rfl
@[simp] theorem mark_link_rts (x : Subject) (s : State) : (mark x s).link.rts = s.link.rts := rfl
@[simp] theorem mark_link_rx (x : Subject) (s : State) : (mark x s).link.rx = s.link.rx := rfl
@[simp] theorem mark_link_intake (x : Subject) (s : State) : (mark x s).link.intake = s.link.intake := rfl
@[simp] theorem mark_link_responses (x : Subject) (s : State) : (mark x s).link.responses = s.link.responses := rfl
@[simp] theorem mark_link_classes (x : Subject) (s : State) : (mark x s).link.classes = s.link.classes := rfl
@[simp] theorem mark_link_stats (x : Subject) (s : State) : (mark x s).link.stats = s.link.stats := rfl
@[simp] theorem mark_link_sendCount (x : Subject) (s : State) : (mark x s).link.sendCount = s.link.sendCount := rfl
@[simp] theorem mark_link_waiting (x : Subject) (s : State) : (mark x s).link.waiting = s.link.waiting := rfl
@[simp] theorem mark_link_onLine (x : Subject) (s : State) : (mark x s).link.onLine = s.link.onLine := rfl
@[simp] theorem mark_link_holdNotices (x : Subject) (s : State) : (mark x s).link.holdNotices = s.link.holdNotices := rfl

@[simp] theorem respond_link_rate (tag : Byte) (kind : ReqKind) (status : Status) (content : Content) (s : State) : (respond tag kind status content s).link.rate = s.link.rate := rfl
@[simp] theorem respond_link_rts (tag : Byte) (kind : ReqKind) (status : Status) (content : Content) (s : State) : (respond tag kind status content s).link.rts = s.link.rts := rfl
@[simp] theorem respond_link_rx (tag : Byte) (kind : ReqKind) (status : Status) (content : Content) (s : State) : (respond tag kind status content s).link.rx = s.link.rx := rfl
@[simp] theorem respond_link_intake (tag : Byte) (kind : ReqKind) (status : Status) (content : Content) (s : State) : (respond tag kind status content s).link.intake = s.link.intake := rfl
@[simp] theorem respond_link_notices (tag : Byte) (kind : ReqKind) (status : Status) (content : Content) (s : State) : (respond tag kind status content s).link.notices = s.link.notices := rfl
@[simp] theorem respond_link_classes (tag : Byte) (kind : ReqKind) (status : Status) (content : Content) (s : State) : (respond tag kind status content s).link.classes = s.link.classes := rfl
@[simp] theorem respond_link_stats (tag : Byte) (kind : ReqKind) (status : Status) (content : Content) (s : State) : (respond tag kind status content s).link.stats = s.link.stats := rfl
@[simp] theorem respond_link_sendCount (tag : Byte) (kind : ReqKind) (status : Status) (content : Content) (s : State) : (respond tag kind status content s).link.sendCount = s.link.sendCount := rfl
@[simp] theorem respond_link_waiting (tag : Byte) (kind : ReqKind) (status : Status) (content : Content) (s : State) : (respond tag kind status content s).link.waiting = s.link.waiting := rfl
@[simp] theorem respond_link_onLine (tag : Byte) (kind : ReqKind) (status : Status) (content : Content) (s : State) : (respond tag kind status content s).link.onLine = s.link.onLine := rfl
@[simp] theorem respond_link_holdNotices (tag : Byte) (kind : ReqKind) (status : Status) (content : Content) (s : State) : (respond tag kind status content s).link.holdNotices = s.link.holdNotices := rfl

@[simp] theorem takeFrame_link_rate (tag : Byte) (s : State) : (takeFrame tag s).link.rate = s.link.rate := rfl
@[simp] theorem takeFrame_link_rts (tag : Byte) (s : State) : (takeFrame tag s).link.rts = s.link.rts := rfl
@[simp] theorem takeFrame_link_rx (tag : Byte) (s : State) : (takeFrame tag s).link.rx = s.link.rx := rfl
@[simp] theorem takeFrame_link_responses (tag : Byte) (s : State) : (takeFrame tag s).link.responses = s.link.responses := rfl
@[simp] theorem takeFrame_link_notices (tag : Byte) (s : State) : (takeFrame tag s).link.notices = s.link.notices := rfl
@[simp] theorem takeFrame_link_classes (tag : Byte) (s : State) : (takeFrame tag s).link.classes = s.link.classes := rfl
@[simp] theorem takeFrame_link_stats (tag : Byte) (s : State) : (takeFrame tag s).link.stats = s.link.stats := rfl
@[simp] theorem takeFrame_link_sendCount (tag : Byte) (s : State) : (takeFrame tag s).link.sendCount = s.link.sendCount := rfl
@[simp] theorem takeFrame_link_waiting (tag : Byte) (s : State) : (takeFrame tag s).link.waiting = s.link.waiting := rfl
@[simp] theorem takeFrame_link_onLine (tag : Byte) (s : State) : (takeFrame tag s).link.onLine = s.link.onLine := rfl
@[simp] theorem takeFrame_link_holdNotices (tag : Byte) (s : State) : (takeFrame tag s).link.holdNotices = s.link.holdNotices := rfl

@[simp] theorem keepBytes_link_rate (buf : List Byte) (s : State) : (keepBytes buf s).link.rate = s.link.rate := rfl
@[simp] theorem keepBytes_link_rts (buf : List Byte) (s : State) : (keepBytes buf s).link.rts = s.link.rts := rfl
@[simp] theorem keepBytes_link_intake (buf : List Byte) (s : State) : (keepBytes buf s).link.intake = s.link.intake := rfl
@[simp] theorem keepBytes_link_responses (buf : List Byte) (s : State) : (keepBytes buf s).link.responses = s.link.responses := rfl
@[simp] theorem keepBytes_link_notices (buf : List Byte) (s : State) : (keepBytes buf s).link.notices = s.link.notices := rfl
@[simp] theorem keepBytes_link_classes (buf : List Byte) (s : State) : (keepBytes buf s).link.classes = s.link.classes := rfl
@[simp] theorem keepBytes_link_stats (buf : List Byte) (s : State) : (keepBytes buf s).link.stats = s.link.stats := rfl
@[simp] theorem keepBytes_link_sendCount (buf : List Byte) (s : State) : (keepBytes buf s).link.sendCount = s.link.sendCount := rfl
@[simp] theorem keepBytes_link_waiting (buf : List Byte) (s : State) : (keepBytes buf s).link.waiting = s.link.waiting := rfl
@[simp] theorem keepBytes_link_onLine (buf : List Byte) (s : State) : (keepBytes buf s).link.onLine = s.link.onLine := rfl
@[simp] theorem keepBytes_link_holdNotices (buf : List Byte) (s : State) : (keepBytes buf s).link.holdNotices = s.link.holdNotices := rfl

@[simp] theorem countCheckError_link_rate (s : State) : (countCheckError s).link.rate = s.link.rate := rfl
@[simp] theorem countCheckError_link_rts (s : State) : (countCheckError s).link.rts = s.link.rts := rfl
@[simp] theorem countCheckError_link_rx (s : State) : (countCheckError s).link.rx = s.link.rx := rfl
@[simp] theorem countCheckError_link_intake (s : State) : (countCheckError s).link.intake = s.link.intake := rfl
@[simp] theorem countCheckError_link_responses (s : State) : (countCheckError s).link.responses = s.link.responses := rfl
@[simp] theorem countCheckError_link_notices (s : State) : (countCheckError s).link.notices = s.link.notices := rfl
@[simp] theorem countCheckError_link_classes (s : State) : (countCheckError s).link.classes = s.link.classes := rfl
@[simp] theorem countCheckError_link_sendCount (s : State) : (countCheckError s).link.sendCount = s.link.sendCount := rfl
@[simp] theorem countCheckError_link_waiting (s : State) : (countCheckError s).link.waiting = s.link.waiting := rfl
@[simp] theorem countCheckError_link_onLine (s : State) : (countCheckError s).link.onLine = s.link.onLine := rfl
@[simp] theorem countCheckError_link_holdNotices (s : State) : (countCheckError s).link.holdNotices = s.link.holdNotices := rfl

@[simp] theorem countLengthError_link_rate (s : State) : (countLengthError s).link.rate = s.link.rate := rfl
@[simp] theorem countLengthError_link_rts (s : State) : (countLengthError s).link.rts = s.link.rts := rfl
@[simp] theorem countLengthError_link_rx (s : State) : (countLengthError s).link.rx = s.link.rx := rfl
@[simp] theorem countLengthError_link_intake (s : State) : (countLengthError s).link.intake = s.link.intake := rfl
@[simp] theorem countLengthError_link_responses (s : State) : (countLengthError s).link.responses = s.link.responses := rfl
@[simp] theorem countLengthError_link_notices (s : State) : (countLengthError s).link.notices = s.link.notices := rfl
@[simp] theorem countLengthError_link_classes (s : State) : (countLengthError s).link.classes = s.link.classes := rfl
@[simp] theorem countLengthError_link_sendCount (s : State) : (countLengthError s).link.sendCount = s.link.sendCount := rfl
@[simp] theorem countLengthError_link_waiting (s : State) : (countLengthError s).link.waiting = s.link.waiting := rfl
@[simp] theorem countLengthError_link_onLine (s : State) : (countLengthError s).link.onLine = s.link.onLine := rfl
@[simp] theorem countLengthError_link_holdNotices (s : State) : (countLengthError s).link.holdNotices = s.link.holdNotices := rfl

@[simp] theorem setAcct_store_free (d : Dept) (f : Account → Account) (s : State) : (setAcct d f s).store.free = s.store.free := rfl
@[simp] theorem setAcct_store_spares (d : Dept) (f : Account → Account) (s : State) : (setAcct d f s).store.spares = s.store.spares := rfl
@[simp] theorem setAcct_store_retired (d : Dept) (f : Account → Account) (s : State) : (setAcct d f s).store.retired = s.store.retired := rfl
@[simp] theorem setAcct_store_allotments (d : Dept) (f : Account → Account) (s : State) : (setAcct d f s).store.allotments = s.store.allotments := rfl
@[simp] theorem setAcct_store_pressure (d : Dept) (f : Account → Account) (s : State) : (setAcct d f s).store.pressure = s.store.pressure := rfl

@[simp] theorem setAllotment_store_free (n : LineNo) (a : Allotment) (s : State) : (setAllotment n a s).store.free = s.store.free := rfl
@[simp] theorem setAllotment_store_spares (n : LineNo) (a : Allotment) (s : State) : (setAllotment n a s).store.spares = s.store.spares := rfl
@[simp] theorem setAllotment_store_retired (n : LineNo) (a : Allotment) (s : State) : (setAllotment n a s).store.retired = s.store.retired := rfl
@[simp] theorem setAllotment_store_accounts (n : LineNo) (a : Allotment) (s : State) : (setAllotment n a s).store.accounts = s.store.accounts := rfl
@[simp] theorem setAllotment_store_pressure (n : LineNo) (a : Allotment) (s : State) : (setAllotment n a s).store.pressure = s.store.pressure := rfl

@[simp] theorem modDoc_dir_nextNumber (n : Nat) (f : Document → Document) (s : State) : (modDoc n f s).dir.nextNumber = s.dir.nextNumber := rfl
@[simp] theorem modDoc_dir_ready (n : Nat) (f : Document → Document) (s : State) : (modDoc n f s).dir.ready = s.dir.ready := rfl
@[simp] theorem modDoc_dir_reclaim (n : Nat) (f : Document → Document) (s : State) : (modDoc n f s).dir.reclaim = s.dir.reclaim := rfl
@[simp] theorem modDoc_dir_verifications (n : Nat) (f : Document → Document) (s : State) : (modDoc n f s).dir.verifications = s.dir.verifications := rfl

@[simp] theorem addDoc_dir_nextNumber (d : Document) (s : State) : (addDoc d s).dir.nextNumber = s.dir.nextNumber := rfl
@[simp] theorem addDoc_dir_ready (d : Document) (s : State) : (addDoc d s).dir.ready = s.dir.ready := rfl
@[simp] theorem addDoc_dir_reclaim (d : Document) (s : State) : (addDoc d s).dir.reclaim = s.dir.reclaim := rfl
@[simp] theorem addDoc_dir_verifications (d : Document) (s : State) : (addDoc d s).dir.verifications = s.dir.verifications := rfl

@[simp] theorem dropDoc_dir_nextNumber (n : Nat) (s : State) : (dropDoc n s).dir.nextNumber = s.dir.nextNumber := rfl
@[simp] theorem dropDoc_dir_ready (n : Nat) (s : State) : (dropDoc n s).dir.ready = s.dir.ready := rfl
@[simp] theorem dropDoc_dir_reclaim (n : Nat) (s : State) : (dropDoc n s).dir.reclaim = s.dir.reclaim := rfl
@[simp] theorem dropDoc_dir_verifications (n : Nat) (s : State) : (dropDoc n s).dir.verifications = s.dir.verifications := rfl

@[simp] theorem modForward_dir_nextNumber (n i : Nat) (f : ForwardEntry → ForwardEntry) (s : State) : (modForward n i f s).dir.nextNumber = s.dir.nextNumber := rfl
@[simp] theorem modForward_dir_ready (n i : Nat) (f : ForwardEntry → ForwardEntry) (s : State) : (modForward n i f s).dir.ready = s.dir.ready := rfl
@[simp] theorem modForward_dir_reclaim (n i : Nat) (f : ForwardEntry → ForwardEntry) (s : State) : (modForward n i f s).dir.reclaim = s.dir.reclaim := rfl
@[simp] theorem modForward_dir_verifications (n i : Nat) (f : ForwardEntry → ForwardEntry) (s : State) : (modForward n i f s).dir.verifications = s.dir.verifications := rfl

@[simp] theorem addForwardEntry_dir_nextNumber (n : Nat) (e : ForwardEntry) (s : State) : (addForwardEntry n e s).dir.nextNumber = s.dir.nextNumber := rfl
@[simp] theorem addForwardEntry_dir_ready (n : Nat) (e : ForwardEntry) (s : State) : (addForwardEntry n e s).dir.ready = s.dir.ready := rfl
@[simp] theorem addForwardEntry_dir_reclaim (n : Nat) (e : ForwardEntry) (s : State) : (addForwardEntry n e s).dir.reclaim = s.dir.reclaim := rfl
@[simp] theorem addForwardEntry_dir_verifications (n : Nat) (e : ForwardEntry) (s : State) : (addForwardEntry n e s).dir.verifications = s.dir.verifications := rfl

@[simp] theorem markDamaged_dir_nextNumber (doc p : Nat) (s : State) : (markDamaged doc p s).dir.nextNumber = s.dir.nextNumber := rfl
@[simp] theorem markDamaged_dir_ready (doc p : Nat) (s : State) : (markDamaged doc p s).dir.ready = s.dir.ready := rfl
@[simp] theorem markDamaged_dir_reclaim (doc p : Nat) (s : State) : (markDamaged doc p s).dir.reclaim = s.dir.reclaim := rfl
@[simp] theorem markDamaged_dir_verifications (doc p : Nat) (s : State) : (markDamaged doc p s).dir.verifications = s.dir.verifications := rfl

@[simp] theorem setReady_dir_docs (d : Dept) (f : List Nat → List Nat) (s : State) : (setReady d f s).dir.docs = s.dir.docs := rfl
@[simp] theorem setReady_dir_nextNumber (d : Dept) (f : List Nat → List Nat) (s : State) : (setReady d f s).dir.nextNumber = s.dir.nextNumber := rfl
@[simp] theorem setReady_dir_reclaim (d : Dept) (f : List Nat → List Nat) (s : State) : (setReady d f s).dir.reclaim = s.dir.reclaim := rfl
@[simp] theorem setReady_dir_verifications (d : Dept) (f : List Nat → List Nat) (s : State) : (setReady d f s).dir.verifications = s.dir.verifications := rfl

@[simp] theorem oweRun_fwd_jobs (s : State) : (oweRun s).fwd.jobs = s.fwd.jobs := rfl
@[simp] theorem oweRun_fwd_suspended (s : State) : (oweRun s).fwd.suspended = s.fwd.suspended := rfl
@[simp] theorem oweRun_fwd_nextJob (s : State) : (oweRun s).fwd.nextJob = s.fwd.nextJob := rfl
@[simp] theorem oweRun_fwd_view (s : State) : (oweRun s).fwd.view = s.fwd.view := rfl
@[simp] theorem oweRun_fwd_lastEnd (s : State) : (oweRun s).fwd.lastEnd = s.fwd.lastEnd := rfl
@[simp] theorem oweRun_fwd_handed (s : State) : (oweRun s).fwd.handed = s.fwd.handed := rfl

@[simp] theorem report_fwd_jobs (n : LineNo) (s : State) : (report n s).fwd.jobs = s.fwd.jobs := rfl
@[simp] theorem report_fwd_suspended (n : LineNo) (s : State) : (report n s).fwd.suspended = s.fwd.suspended := rfl
@[simp] theorem report_fwd_nextJob (n : LineNo) (s : State) : (report n s).fwd.nextJob = s.fwd.nextJob := rfl
@[simp] theorem report_fwd_lastEnd (n : LineNo) (s : State) : (report n s).fwd.lastEnd = s.fwd.lastEnd := rfl
@[simp] theorem report_fwd_handed (n : LineNo) (s : State) : (report n s).fwd.handed = s.fwd.handed := rfl
@[simp] theorem report_fwd_runOwed (n : LineNo) (s : State) : (report n s).fwd.runOwed = s.fwd.runOwed := rfl

@[simp] theorem reportRun_fwd_jobs (n : LineNo) (s : State) : (reportRun n s).fwd.jobs = s.fwd.jobs := rfl
@[simp] theorem reportRun_fwd_suspended (n : LineNo) (s : State) : (reportRun n s).fwd.suspended = s.fwd.suspended := rfl
@[simp] theorem reportRun_fwd_nextJob (n : LineNo) (s : State) : (reportRun n s).fwd.nextJob = s.fwd.nextJob := rfl
@[simp] theorem reportRun_fwd_lastEnd (n : LineNo) (s : State) : (reportRun n s).fwd.lastEnd = s.fwd.lastEnd := rfl
@[simp] theorem reportRun_fwd_handed (n : LineNo) (s : State) : (reportRun n s).fwd.handed = s.fwd.handed := rfl

@[simp] theorem modJob_fwd_suspended (j : Nat) (f : Job → Job) (s : State) : (modJob j f s).fwd.suspended = s.fwd.suspended := rfl
@[simp] theorem modJob_fwd_nextJob (j : Nat) (f : Job → Job) (s : State) : (modJob j f s).fwd.nextJob = s.fwd.nextJob := rfl
@[simp] theorem modJob_fwd_view (j : Nat) (f : Job → Job) (s : State) : (modJob j f s).fwd.view = s.fwd.view := rfl
@[simp] theorem modJob_fwd_lastEnd (j : Nat) (f : Job → Job) (s : State) : (modJob j f s).fwd.lastEnd = s.fwd.lastEnd := rfl
@[simp] theorem modJob_fwd_handed (j : Nat) (f : Job → Job) (s : State) : (modJob j f s).fwd.handed = s.fwd.handed := rfl
@[simp] theorem modJob_fwd_runOwed (j : Nat) (f : Job → Job) (s : State) : (modJob j f s).fwd.runOwed = s.fwd.runOwed := rfl

@[simp] theorem dropJob_fwd_suspended (j : Nat) (s : State) : (dropJob j s).fwd.suspended = s.fwd.suspended := rfl
@[simp] theorem dropJob_fwd_nextJob (j : Nat) (s : State) : (dropJob j s).fwd.nextJob = s.fwd.nextJob := rfl
@[simp] theorem dropJob_fwd_view (j : Nat) (s : State) : (dropJob j s).fwd.view = s.fwd.view := rfl
@[simp] theorem dropJob_fwd_lastEnd (j : Nat) (s : State) : (dropJob j s).fwd.lastEnd = s.fwd.lastEnd := rfl
@[simp] theorem dropJob_fwd_handed (j : Nat) (s : State) : (dropJob j s).fwd.handed = s.fwd.handed := rfl
@[simp] theorem dropJob_fwd_runOwed (j : Nat) (s : State) : (dropJob j s).fwd.runOwed = s.fwd.runOwed := rfl

@[simp] theorem handClass_callers_table (number : Text) (c : CallClass) (s : State) : (handClass number c s).callers.table = s.callers.table := rfl

@[simp] theorem setTransfer_collect_queue (t : Option Transfer) (s : State) : (setTransfer t s).collect.queue = s.collect.queue := rfl
@[simp] theorem setTransfer_collect_offers (t : Option Transfer) (s : State) : (setTransfer t s).collect.offers = s.collect.offers := rfl
@[simp] theorem setTransfer_collect_sent (t : Option Transfer) (s : State) : (setTransfer t s).collect.sent = s.collect.sent := rfl

@[simp] theorem advance_fwd_jobs (d : Nat) (s : State) : (advance d s).fwd.jobs = s.fwd.jobs := rfl
@[simp] theorem advance_fwd_suspended (d : Nat) (s : State) : (advance d s).fwd.suspended = s.fwd.suspended := rfl
@[simp] theorem advance_fwd_nextJob (d : Nat) (s : State) : (advance d s).fwd.nextJob = s.fwd.nextJob := rfl
@[simp] theorem advance_fwd_view (d : Nat) (s : State) : (advance d s).fwd.view = s.fwd.view := rfl
@[simp] theorem advance_fwd_lastEnd (d : Nat) (s : State) : (advance d s).fwd.lastEnd = s.fwd.lastEnd := rfl
@[simp] theorem advance_fwd_handed (d : Nat) (s : State) : (advance d s).fwd.handed = s.fwd.handed := rfl

@[simp] theorem advanceTo_fwd_jobs (t : Nat) (s : State) : (advanceTo t s).fwd.jobs = s.fwd.jobs := rfl
@[simp] theorem advanceTo_fwd_suspended (t : Nat) (s : State) : (advanceTo t s).fwd.suspended = s.fwd.suspended := rfl
@[simp] theorem advanceTo_fwd_nextJob (t : Nat) (s : State) : (advanceTo t s).fwd.nextJob = s.fwd.nextJob := rfl
@[simp] theorem advanceTo_fwd_view (t : Nat) (s : State) : (advanceTo t s).fwd.view = s.fwd.view := rfl
@[simp] theorem advanceTo_fwd_lastEnd (t : Nat) (s : State) : (advanceTo t s).fwd.lastEnd = s.fwd.lastEnd := rfl
@[simp] theorem advanceTo_fwd_handed (t : Nat) (s : State) : (advanceTo t s).fwd.handed = s.fwd.handed := rfl

@[simp] theorem advance_clock_trusted (d : Nat) (s : State) : (advance d s).clock.trusted = s.clock.trusted := rfl
@[simp] theorem advance_clock_run (d : Nat) (s : State) : (advance d s).clock.run = later s.clock.run d := rfl
@[simp] theorem advanceTo_clock_trusted (t : Nat) (s : State) : (advanceTo t s).clock.trusted = s.clock.trusted := rfl

/-- Below its top, run time rises by what passes (R186). -/
theorem later_of_le {run d : Nat} (h : run + d ≤ runTop) : later run d = run + d := by unfold later; omega

/-- Run time never turns back (R186). -/
theorem le_later (run d : Nat) : run ≤ later run d := by unfold later; omega

/-- Run time stays a count of 64 bits (R186). -/
theorem later_le {run : Nat} (h : run ≤ runTop) (d : Nat) : later run d ≤ runTop := by unfold later; omega

/-- Where run time comes to when it reaches t (R186). -/
theorem advanceTo_clock_run (t : Nat) (s : State) : (advanceTo t s).clock.run = max s.clock.run (min t runTop) := by
  simp only [advanceTo, advance_clock_run, later]; omega

/-! ## What an operation writes -/


@[simp] theorem respond_link_responses (tag : Byte) (kind : ReqKind) (status : Status) (content : Content) (s : State) :
    (respond tag kind status content s).link.responses = s.link.responses ++ [⟨tag, kind, status, content⟩] := rfl
@[simp] theorem takeFrame_link_intake (tag : Byte) (s : State) : (takeFrame tag s).link.intake = afterTaking tag s.link.intake := rfl
@[simp] theorem addDoc_dir_docs (d : Document) (s : State) : (addDoc d s).dir.docs = s.dir.docs ++ [d] := rfl
@[simp] theorem oweRun_fwd_runOwed (s : State) : (oweRun s).fwd.runOwed = true := rfl
@[simp] theorem reportRun_fwd_runOwed (n : LineNo) (s : State) : (reportRun n s).fwd.runOwed = true := rfl
@[simp] theorem handClass_callers_handed (number : Text) (c : CallClass) (s : State) :
    (handClass number c s).callers.handed = s.callers.handed ++ [⟨number, c⟩] := rfl
@[simp] theorem setTransfer_collect_transfer (t : Option Transfer) (s : State) : (setTransfer t s).collect.transfer = t := rfl

/-- A line after another line's change, and after its own. -/
theorem lineAt_modLine (m n : LineNo) (f : Line → Line) (s : State) :
    lineAt (modLine n f s) m = if m = n then f (lineAt s n) else lineAt s m := by
  unfold lineAt modLine
  simp only [Fin.getElem_fin, Vector.getElem_set]
  by_cases h : m = n
  · subst h; simp
  · have : ¬ (n.val = m.val) := fun e => h (Fin.ext e.symm)
    simp [h, this]

@[simp] theorem lineAt_modLine_self (n : LineNo) (f : Line → Line) (s : State) : lineAt (modLine n f s) n = f (lineAt s n) := by
  simp [lineAt_modLine]

theorem lineAt_modLine_ne {m n : LineNo} (h : m ≠ n) (f : Line → Line) (s : State) : lineAt (modLine n f s) m = lineAt s m := by
  simp [lineAt_modLine, h]

/-- An account after another's change, and after its own. -/
theorem acct_setAcct (d e : Dept) (f : Account → Account) (s : State) :
    acct (setAcct e f s) d = if d = e then f (acct s e) else acct s d := by
  unfold acct setAcct
  simp only [Fin.getElem_fin, Vector.getElem_set]
  by_cases h : d = e
  · subst h; simp
  · have : ¬ (e.val = d.val) := fun k => h (Fin.ext k.symm)
    simp [h, this]

/-- A line's allotment after another's change, and after its own. -/
theorem allotment_setAllotment (m n : LineNo) (a : Allotment) (s : State) :
    allotment (setAllotment n a s) m = if m = n then a else allotment s m := by
  unfold allotment setAllotment
  simp only [Fin.getElem_fin, Vector.getElem_set]
  by_cases h : m = n
  · subst h; simp
  · have : ¬ (n.val = m.val) := fun e => h (Fin.ext e.symm)
    simp [h, this]

/-- A department's ready queue after another's change, and after its own. -/
theorem readyQueue_setReady (d e : Dept) (f : List Nat → List Nat) (s : State) :
    readyQueue (setReady e f s) d = if d = e then f (readyQueue s e) else readyQueue s d := by
  unfold readyQueue setReady
  simp only [Fin.getElem_fin, Vector.getElem_set]
  by_cases h : d = e
  · subst h; simp
  · have : ¬ (e.val = d.val) := fun k => h (Fin.ext k.symm)
    simp [h, this]

/-- The commands outstanding on a line after one is sent on it. -/
@[simp] theorem lineAt_sendCmd_self (n : LineNo) (c : PortCommand) (s : State) :
    lineAt (sendCmd n c s) n = { lineAt s n with acks := (lineAt s n).acks ++ [⟨c, s.clock.run + ackLimitMs⟩] } := by
  simp [sendCmd]

end Sys2Proof.Machine
end

