-- ==== Sys2Proof/Laws/Frames.lean ====
section
/-! SUPPORT. Laws/Frames.lean: what the shared operations that choose among cases leave as it was. -/

namespace Sys2Proof.Machine

open Sys2Proof

/-- What each step of a fold keeps, the fold keeps. -/
theorem foldl_keeps {α β : Type} (f : State → α → State) (p : State → β) (h : ∀ t x, p (f t x) = p t) (xs : List α) (s : State) :
    p (xs.foldl f s) = p s := by
  induction xs generalizing s with
  | nil => rfl
  | cons x xs ih => rw [List.foldl_cons, ih, h]

@[simp] theorem evalPressure_pending (s : State) : (evalPressure s).pending = s.pending := by
  unfold evalPressure; (try dsimp only); (repeat' split) <;> simp
@[simp] theorem evalPressure_part (s : State) : (evalPressure s).part = s.part := by
  unfold evalPressure; (try dsimp only); (repeat' split) <;> simp
@[simp] theorem evalPressure_policy (s : State) : (evalPressure s).policy = s.policy := by
  unfold evalPressure; (try dsimp only); (repeat' split) <;> simp
@[simp] theorem evalPressure_routes (s : State) : (evalPressure s).routes = s.routes := by
  unfold evalPressure; (try dsimp only); (repeat' split) <;> simp
@[simp] theorem evalPressure_mem (s : State) : (evalPressure s).mem = s.mem := by
  unfold evalPressure; (try dsimp only); (repeat' split) <;> simp
@[simp] theorem evalPressure_lines (s : State) : (evalPressure s).lines = s.lines := by
  unfold evalPressure; (try dsimp only); (repeat' split) <;> simp
@[simp] theorem evalPressure_callers (s : State) : (evalPressure s).callers = s.callers := by
  unfold evalPressure; (try dsimp only); (repeat' split) <;> simp
@[simp] theorem evalPressure_collect (s : State) : (evalPressure s).collect = s.collect := by
  unfold evalPressure; (try dsimp only); (repeat' split) <;> simp

@[simp] theorem writeEntry_pending (content : JournalContent) (s : State) : (writeEntry content s).pending = s.pending := by
  unfold writeEntry; (try dsimp only); (repeat' split) <;> simp
@[simp] theorem writeEntry_part (content : JournalContent) (s : State) : (writeEntry content s).part = s.part := by
  unfold writeEntry; (try dsimp only); (repeat' split) <;> simp
@[simp] theorem writeEntry_policy (content : JournalContent) (s : State) : (writeEntry content s).policy = s.policy := by
  unfold writeEntry; (try dsimp only); (repeat' split) <;> simp
@[simp] theorem writeEntry_routes (content : JournalContent) (s : State) : (writeEntry content s).routes = s.routes := by
  unfold writeEntry; (try dsimp only); (repeat' split) <;> simp
@[simp] theorem writeEntry_mem (content : JournalContent) (s : State) : (writeEntry content s).mem = s.mem := by
  unfold writeEntry; (try dsimp only); (repeat' split) <;> simp
@[simp] theorem writeEntry_lines (content : JournalContent) (s : State) : (writeEntry content s).lines = s.lines := by
  unfold writeEntry; (try dsimp only); (repeat' split) <;> simp
@[simp] theorem writeEntry_callers (content : JournalContent) (s : State) : (writeEntry content s).callers = s.callers := by
  unfold writeEntry; (try dsimp only); (repeat' split) <;> simp
@[simp] theorem writeEntry_collect (content : JournalContent) (s : State) : (writeEntry content s).collect = s.collect := by
  unfold writeEntry; (try dsimp only); (repeat' split) <;> simp

@[simp] theorem append_pending (content : JournalContent) (s : State) : (append content s).1.pending = s.pending := by
  unfold append; (try dsimp only); (repeat' split) <;> simp
@[simp] theorem append_part (content : JournalContent) (s : State) : (append content s).1.part = s.part := by
  unfold append; (try dsimp only); (repeat' split) <;> simp
@[simp] theorem append_policy (content : JournalContent) (s : State) : (append content s).1.policy = s.policy := by
  unfold append; (try dsimp only); (repeat' split) <;> simp
@[simp] theorem append_routes (content : JournalContent) (s : State) : (append content s).1.routes = s.routes := by
  unfold append; (try dsimp only); (repeat' split) <;> simp
@[simp] theorem append_mem (content : JournalContent) (s : State) : (append content s).1.mem = s.mem := by
  unfold append; (try dsimp only); (repeat' split) <;> simp
@[simp] theorem append_lines (content : JournalContent) (s : State) : (append content s).1.lines = s.lines := by
  unfold append; (try dsimp only); (repeat' split) <;> simp
@[simp] theorem append_callers (content : JournalContent) (s : State) : (append content s).1.callers = s.callers := by
  unfold append; (try dsimp only); (repeat' split) <;> simp
@[simp] theorem append_collect (content : JournalContent) (s : State) : (append content s).1.collect = s.collect := by
  unfold append; (try dsimp only); (repeat' split) <;> simp

@[simp] theorem retireCheck_pending (b : Block) (s : State) : (retireCheck b s).pending = s.pending := by
  unfold retireCheck; (try dsimp only); (repeat' split) <;> simp
@[simp] theorem retireCheck_part (b : Block) (s : State) : (retireCheck b s).part = s.part := by
  unfold retireCheck; (try dsimp only); (repeat' split) <;> simp
@[simp] theorem retireCheck_policy (b : Block) (s : State) : (retireCheck b s).policy = s.policy := by
  unfold retireCheck; (try dsimp only); (repeat' split) <;> simp
@[simp] theorem retireCheck_routes (b : Block) (s : State) : (retireCheck b s).routes = s.routes := by
  unfold retireCheck; (try dsimp only); (repeat' split) <;> simp
@[simp] theorem retireCheck_mem (b : Block) (s : State) : (retireCheck b s).mem = s.mem := by
  unfold retireCheck; (try dsimp only); (repeat' split) <;> simp
@[simp] theorem retireCheck_lines (b : Block) (s : State) : (retireCheck b s).lines = s.lines := by
  unfold retireCheck; (try dsimp only); (repeat' split) <;> simp
@[simp] theorem retireCheck_callers (b : Block) (s : State) : (retireCheck b s).callers = s.callers := by
  unfold retireCheck; (try dsimp only); (repeat' split) <;> simp
@[simp] theorem retireCheck_collect (b : Block) (s : State) : (retireCheck b s).collect = s.collect := by
  unfold retireCheck; (try dsimp only); (repeat' split) <;> simp

@[simp] theorem freeBlock_pending (d : Dept) (s : State) (b : Block) : (freeBlock d s b).pending = s.pending := by
  unfold freeBlock; simp
@[simp] theorem freeBlock_part (d : Dept) (s : State) (b : Block) : (freeBlock d s b).part = s.part := by
  unfold freeBlock; simp
@[simp] theorem freeBlock_policy (d : Dept) (s : State) (b : Block) : (freeBlock d s b).policy = s.policy := by
  unfold freeBlock; simp
@[simp] theorem freeBlock_routes (d : Dept) (s : State) (b : Block) : (freeBlock d s b).routes = s.routes := by
  unfold freeBlock; simp
@[simp] theorem freeBlock_mem (d : Dept) (s : State) (b : Block) : (freeBlock d s b).mem = s.mem := by
  unfold freeBlock; simp
@[simp] theorem freeBlock_lines (d : Dept) (s : State) (b : Block) : (freeBlock d s b).lines = s.lines := by
  unfold freeBlock; simp
@[simp] theorem freeBlock_callers (d : Dept) (s : State) (b : Block) : (freeBlock d s b).callers = s.callers := by
  unfold freeBlock; simp
@[simp] theorem freeBlock_collect (d : Dept) (s : State) (b : Block) : (freeBlock d s b).collect = s.collect := by
  unfold freeBlock; simp

@[simp] theorem freeBlocks_pending (d : Dept) (bs : List Block) (s : State) : (freeBlocks d bs s).pending = s.pending :=
  foldl_keeps _ State.pending (fun t x => freeBlock_pending d t x) bs s
@[simp] theorem freeBlocks_part (d : Dept) (bs : List Block) (s : State) : (freeBlocks d bs s).part = s.part :=
  foldl_keeps _ State.part (fun t x => freeBlock_part d t x) bs s
@[simp] theorem freeBlocks_policy (d : Dept) (bs : List Block) (s : State) : (freeBlocks d bs s).policy = s.policy :=
  foldl_keeps _ State.policy (fun t x => freeBlock_policy d t x) bs s
@[simp] theorem freeBlocks_routes (d : Dept) (bs : List Block) (s : State) : (freeBlocks d bs s).routes = s.routes :=
  foldl_keeps _ State.routes (fun t x => freeBlock_routes d t x) bs s
@[simp] theorem freeBlocks_mem (d : Dept) (bs : List Block) (s : State) : (freeBlocks d bs s).mem = s.mem :=
  foldl_keeps _ State.mem (fun t x => freeBlock_mem d t x) bs s
@[simp] theorem freeBlocks_lines (d : Dept) (bs : List Block) (s : State) : (freeBlocks d bs s).lines = s.lines :=
  foldl_keeps _ State.lines (fun t x => freeBlock_lines d t x) bs s
@[simp] theorem freeBlocks_callers (d : Dept) (bs : List Block) (s : State) : (freeBlocks d bs s).callers = s.callers :=
  foldl_keeps _ State.callers (fun t x => freeBlock_callers d t x) bs s
@[simp] theorem freeBlocks_collect (d : Dept) (bs : List Block) (s : State) : (freeBlocks d bs s).collect = s.collect :=
  foldl_keeps _ State.collect (fun t x => freeBlock_collect d t x) bs s

@[simp] theorem appendRecord_pending (r : ErrorRecord) (s : State) : (appendRecord r s).pending = s.pending := by
  unfold appendRecord; (try dsimp only); (repeat' split) <;> simp
@[simp] theorem appendRecord_part (r : ErrorRecord) (s : State) : (appendRecord r s).part = s.part := by
  unfold appendRecord; (try dsimp only); (repeat' split) <;> simp
@[simp] theorem appendRecord_policy (r : ErrorRecord) (s : State) : (appendRecord r s).policy = s.policy := by
  unfold appendRecord; (try dsimp only); (repeat' split) <;> simp
@[simp] theorem appendRecord_routes (r : ErrorRecord) (s : State) : (appendRecord r s).routes = s.routes := by
  unfold appendRecord; (try dsimp only); (repeat' split) <;> simp
@[simp] theorem appendRecord_mem (r : ErrorRecord) (s : State) : (appendRecord r s).mem = s.mem := by
  unfold appendRecord; (try dsimp only); (repeat' split) <;> simp
@[simp] theorem appendRecord_lines (r : ErrorRecord) (s : State) : (appendRecord r s).lines = s.lines := by
  unfold appendRecord; (try dsimp only); (repeat' split) <;> simp
@[simp] theorem appendRecord_callers (r : ErrorRecord) (s : State) : (appendRecord r s).callers = s.callers := by
  unfold appendRecord; (try dsimp only); (repeat' split) <;> simp
@[simp] theorem appendRecord_collect (r : ErrorRecord) (s : State) : (appendRecord r s).collect = s.collect := by
  unfold appendRecord; (try dsimp only); (repeat' split) <;> simp

@[simp] theorem readSpan_pending (reader : Reader) (doc : Nat) (pg : Page) (off size : Nat) (s : State) : (readSpan reader doc pg off size s).1.pending = s.pending := by
  unfold readSpan; (try dsimp only); (repeat' split) <;> simp
@[simp] theorem readSpan_part (reader : Reader) (doc : Nat) (pg : Page) (off size : Nat) (s : State) : (readSpan reader doc pg off size s).1.part = s.part := by
  unfold readSpan; (try dsimp only); (repeat' split) <;> simp
@[simp] theorem readSpan_policy (reader : Reader) (doc : Nat) (pg : Page) (off size : Nat) (s : State) : (readSpan reader doc pg off size s).1.policy = s.policy := by
  unfold readSpan; (try dsimp only); (repeat' split) <;> simp
@[simp] theorem readSpan_routes (reader : Reader) (doc : Nat) (pg : Page) (off size : Nat) (s : State) : (readSpan reader doc pg off size s).1.routes = s.routes := by
  unfold readSpan; (try dsimp only); (repeat' split) <;> simp
@[simp] theorem readSpan_mem (reader : Reader) (doc : Nat) (pg : Page) (off size : Nat) (s : State) : (readSpan reader doc pg off size s).1.mem = s.mem := by
  unfold readSpan; (try dsimp only); (repeat' split) <;> simp
@[simp] theorem readSpan_lines (reader : Reader) (doc : Nat) (pg : Page) (off size : Nat) (s : State) : (readSpan reader doc pg off size s).1.lines = s.lines := by
  unfold readSpan; (try dsimp only); (repeat' split) <;> simp
@[simp] theorem readSpan_callers (reader : Reader) (doc : Nat) (pg : Page) (off size : Nat) (s : State) : (readSpan reader doc pg off size s).1.callers = s.callers := by
  unfold readSpan; (try dsimp only); (repeat' split) <;> simp
@[simp] theorem readSpan_collect (reader : Reader) (doc : Nat) (pg : Page) (off size : Nat) (s : State) : (readSpan reader doc pg off size s).1.collect = s.collect := by
  unfold readSpan; (try dsimp only); (repeat' split) <;> simp

@[simp] theorem writeGroup_pending (blocks : List Block) (off : Nat) (bytes : List Byte) (s : State) : (writeGroup blocks off bytes s).pending = s.pending := by
  unfold writeGroup; (repeat' split) <;> simp
@[simp] theorem writeGroup_part (blocks : List Block) (off : Nat) (bytes : List Byte) (s : State) : (writeGroup blocks off bytes s).part = s.part := by
  unfold writeGroup; (repeat' split) <;> simp
@[simp] theorem writeGroup_policy (blocks : List Block) (off : Nat) (bytes : List Byte) (s : State) : (writeGroup blocks off bytes s).policy = s.policy := by
  unfold writeGroup; (repeat' split) <;> simp
@[simp] theorem writeGroup_routes (blocks : List Block) (off : Nat) (bytes : List Byte) (s : State) : (writeGroup blocks off bytes s).routes = s.routes := by
  unfold writeGroup; (repeat' split) <;> simp
@[simp] theorem writeGroup_lines (blocks : List Block) (off : Nat) (bytes : List Byte) (s : State) : (writeGroup blocks off bytes s).lines = s.lines := by
  unfold writeGroup; (repeat' split) <;> simp
@[simp] theorem writeGroup_callers (blocks : List Block) (off : Nat) (bytes : List Byte) (s : State) : (writeGroup blocks off bytes s).callers = s.callers := by
  unfold writeGroup; (repeat' split) <;> simp
@[simp] theorem writeGroup_collect (blocks : List Block) (off : Nat) (bytes : List Byte) (s : State) : (writeGroup blocks off bytes s).collect = s.collect := by
  unfold writeGroup; (repeat' split) <;> simp

@[simp] theorem putBytes_pending (bs : List Byte) (l : Landing) (s : State) : (putBytes bs l s).2.pending = s.pending := by
  induction bs generalizing l s with
  | nil => rfl
  | cons b bs ih => unfold putBytes; dsimp only; (repeat' split) <;> simp [ih]
@[simp] theorem putBytes_part (bs : List Byte) (l : Landing) (s : State) : (putBytes bs l s).2.part = s.part := by
  induction bs generalizing l s with
  | nil => rfl
  | cons b bs ih => unfold putBytes; dsimp only; (repeat' split) <;> simp [ih]
@[simp] theorem putBytes_policy (bs : List Byte) (l : Landing) (s : State) : (putBytes bs l s).2.policy = s.policy := by
  induction bs generalizing l s with
  | nil => rfl
  | cons b bs ih => unfold putBytes; dsimp only; (repeat' split) <;> simp [ih]
@[simp] theorem putBytes_routes (bs : List Byte) (l : Landing) (s : State) : (putBytes bs l s).2.routes = s.routes := by
  induction bs generalizing l s with
  | nil => rfl
  | cons b bs ih => unfold putBytes; dsimp only; (repeat' split) <;> simp [ih]
@[simp] theorem putBytes_lines (bs : List Byte) (l : Landing) (s : State) : (putBytes bs l s).2.lines = s.lines := by
  induction bs generalizing l s with
  | nil => rfl
  | cons b bs ih => unfold putBytes; dsimp only; (repeat' split) <;> simp [ih]
@[simp] theorem putBytes_callers (bs : List Byte) (l : Landing) (s : State) : (putBytes bs l s).2.callers = s.callers := by
  induction bs generalizing l s with
  | nil => rfl
  | cons b bs ih => unfold putBytes; dsimp only; (repeat' split) <;> simp [ih]
@[simp] theorem putBytes_collect (bs : List Byte) (l : Landing) (s : State) : (putBytes bs l s).2.collect = s.collect := by
  induction bs generalizing l s with
  | nil => rfl
  | cons b bs ih => unfold putBytes; dsimp only; (repeat' split) <;> simp [ih]

@[simp] theorem closeGroup_pending (l : Landing) (s : State) : (closeGroup l s).pending = s.pending := by
  unfold closeGroup; (repeat' split) <;> simp
@[simp] theorem closeGroup_part (l : Landing) (s : State) : (closeGroup l s).part = s.part := by
  unfold closeGroup; (repeat' split) <;> simp
@[simp] theorem closeGroup_policy (l : Landing) (s : State) : (closeGroup l s).policy = s.policy := by
  unfold closeGroup; (repeat' split) <;> simp
@[simp] theorem closeGroup_routes (l : Landing) (s : State) : (closeGroup l s).routes = s.routes := by
  unfold closeGroup; (repeat' split) <;> simp
@[simp] theorem closeGroup_lines (l : Landing) (s : State) : (closeGroup l s).lines = s.lines := by
  unfold closeGroup; (repeat' split) <;> simp
@[simp] theorem closeGroup_callers (l : Landing) (s : State) : (closeGroup l s).callers = s.callers := by
  unfold closeGroup; (repeat' split) <;> simp
@[simp] theorem closeGroup_collect (l : Landing) (s : State) : (closeGroup l s).collect = s.collect := by
  unfold closeGroup; (repeat' split) <;> simp

@[simp] theorem purgeDoc_pending (n : Nat) (s : State) : (purgeDoc n s).pending = s.pending := by
  unfold purgeDoc; (try dsimp only); (repeat' split) <;> simp
@[simp] theorem purgeDoc_part (n : Nat) (s : State) : (purgeDoc n s).part = s.part := by
  unfold purgeDoc; (try dsimp only); (repeat' split) <;> simp
@[simp] theorem purgeDoc_policy (n : Nat) (s : State) : (purgeDoc n s).policy = s.policy := by
  unfold purgeDoc; (try dsimp only); (repeat' split) <;> simp
@[simp] theorem purgeDoc_routes (n : Nat) (s : State) : (purgeDoc n s).routes = s.routes := by
  unfold purgeDoc; (try dsimp only); (repeat' split) <;> simp
@[simp] theorem purgeDoc_mem (n : Nat) (s : State) : (purgeDoc n s).mem = s.mem := by
  unfold purgeDoc; (try dsimp only); (repeat' split) <;> simp
@[simp] theorem purgeDoc_lines (n : Nat) (s : State) : (purgeDoc n s).lines = s.lines := by
  unfold purgeDoc; (try dsimp only); (repeat' split) <;> simp
@[simp] theorem purgeDoc_callers (n : Nat) (s : State) : (purgeDoc n s).callers = s.callers := by
  unfold purgeDoc; (try dsimp only); (repeat' split) <;> simp
@[simp] theorem purgeDoc_collect (n : Nat) (s : State) : (purgeDoc n s).collect = s.collect := by
  unfold purgeDoc; (try dsimp only); (repeat' split) <;> simp

@[simp] theorem purgeEvent_pending (n : Nat) (s : State) : (purgeEvent n s).pending = s.pending := by
  unfold purgeEvent; simp
@[simp] theorem purgeEvent_part (n : Nat) (s : State) : (purgeEvent n s).part = s.part := by
  unfold purgeEvent; simp
@[simp] theorem purgeEvent_policy (n : Nat) (s : State) : (purgeEvent n s).policy = s.policy := by
  unfold purgeEvent; simp
@[simp] theorem purgeEvent_routes (n : Nat) (s : State) : (purgeEvent n s).routes = s.routes := by
  unfold purgeEvent; simp
@[simp] theorem purgeEvent_mem (n : Nat) (s : State) : (purgeEvent n s).mem = s.mem := by
  unfold purgeEvent; simp
@[simp] theorem purgeEvent_lines (n : Nat) (s : State) : (purgeEvent n s).lines = s.lines := by
  unfold purgeEvent; simp
@[simp] theorem purgeEvent_callers (n : Nat) (s : State) : (purgeEvent n s).callers = s.callers := by
  unfold purgeEvent; simp
@[simp] theorem purgeEvent_collect (n : Nat) (s : State) : (purgeEvent n s).collect = s.collect := by
  unfold purgeEvent; simp

@[simp] theorem allocRounds_pending (fuel : Nat) (d : Dept) (k : Nat) (s : State) : (allocRounds fuel d k s).1.pending = s.pending := by
  induction fuel generalizing s with
  | zero => unfold allocRounds; (repeat' split) <;> first | rfl | simp_all
  | succ f ih => unfold allocRounds; (repeat' split) <;> simp_all
@[simp] theorem allocRounds_part (fuel : Nat) (d : Dept) (k : Nat) (s : State) : (allocRounds fuel d k s).1.part = s.part := by
  induction fuel generalizing s with
  | zero => unfold allocRounds; (repeat' split) <;> first | rfl | simp_all
  | succ f ih => unfold allocRounds; (repeat' split) <;> simp_all
@[simp] theorem allocRounds_policy (fuel : Nat) (d : Dept) (k : Nat) (s : State) : (allocRounds fuel d k s).1.policy = s.policy := by
  induction fuel generalizing s with
  | zero => unfold allocRounds; (repeat' split) <;> first | rfl | simp_all
  | succ f ih => unfold allocRounds; (repeat' split) <;> simp_all
@[simp] theorem allocRounds_routes (fuel : Nat) (d : Dept) (k : Nat) (s : State) : (allocRounds fuel d k s).1.routes = s.routes := by
  induction fuel generalizing s with
  | zero => unfold allocRounds; (repeat' split) <;> first | rfl | simp_all
  | succ f ih => unfold allocRounds; (repeat' split) <;> simp_all
@[simp] theorem allocRounds_mem (fuel : Nat) (d : Dept) (k : Nat) (s : State) : (allocRounds fuel d k s).1.mem = s.mem := by
  induction fuel generalizing s with
  | zero => unfold allocRounds; (repeat' split) <;> first | rfl | simp_all
  | succ f ih => unfold allocRounds; (repeat' split) <;> simp_all
@[simp] theorem allocRounds_lines (fuel : Nat) (d : Dept) (k : Nat) (s : State) : (allocRounds fuel d k s).1.lines = s.lines := by
  induction fuel generalizing s with
  | zero => unfold allocRounds; (repeat' split) <;> first | rfl | simp_all
  | succ f ih => unfold allocRounds; (repeat' split) <;> simp_all
@[simp] theorem allocRounds_callers (fuel : Nat) (d : Dept) (k : Nat) (s : State) : (allocRounds fuel d k s).1.callers = s.callers := by
  induction fuel generalizing s with
  | zero => unfold allocRounds; (repeat' split) <;> first | rfl | simp_all
  | succ f ih => unfold allocRounds; (repeat' split) <;> simp_all
@[simp] theorem allocRounds_collect (fuel : Nat) (d : Dept) (k : Nat) (s : State) : (allocRounds fuel d k s).1.collect = s.collect := by
  induction fuel generalizing s with
  | zero => unfold allocRounds; (repeat' split) <;> first | rfl | simp_all
  | succ f ih => unfold allocRounds; (repeat' split) <;> simp_all

@[simp] theorem allocFailed_pending (d : Dept) (k : Nat) (cause : AllocCause) (s : State) : (allocFailed d k cause s).pending = s.pending := by
  unfold allocFailed; simp
@[simp] theorem allocFailed_part (d : Dept) (k : Nat) (cause : AllocCause) (s : State) : (allocFailed d k cause s).part = s.part := by
  unfold allocFailed; simp
@[simp] theorem allocFailed_policy (d : Dept) (k : Nat) (cause : AllocCause) (s : State) : (allocFailed d k cause s).policy = s.policy := by
  unfold allocFailed; simp
@[simp] theorem allocFailed_routes (d : Dept) (k : Nat) (cause : AllocCause) (s : State) : (allocFailed d k cause s).routes = s.routes := by
  unfold allocFailed; simp
@[simp] theorem allocFailed_mem (d : Dept) (k : Nat) (cause : AllocCause) (s : State) : (allocFailed d k cause s).mem = s.mem := by
  unfold allocFailed; simp
@[simp] theorem allocFailed_lines (d : Dept) (k : Nat) (cause : AllocCause) (s : State) : (allocFailed d k cause s).lines = s.lines := by
  unfold allocFailed; simp
@[simp] theorem allocFailed_callers (d : Dept) (k : Nat) (cause : AllocCause) (s : State) : (allocFailed d k cause s).callers = s.callers := by
  unfold allocFailed; simp
@[simp] theorem allocFailed_collect (d : Dept) (k : Nat) (cause : AllocCause) (s : State) : (allocFailed d k cause s).collect = s.collect := by
  unfold allocFailed; simp

@[simp] theorem allocTest_pending (d : Dept) (k : Nat) (s : State) : (allocTest d k s).1.pending = s.pending := by
  unfold allocTest; simp
@[simp] theorem allocTest_part (d : Dept) (k : Nat) (s : State) : (allocTest d k s).1.part = s.part := by
  unfold allocTest; simp
@[simp] theorem allocTest_policy (d : Dept) (k : Nat) (s : State) : (allocTest d k s).1.policy = s.policy := by
  unfold allocTest; simp
@[simp] theorem allocTest_routes (d : Dept) (k : Nat) (s : State) : (allocTest d k s).1.routes = s.routes := by
  unfold allocTest; simp
@[simp] theorem allocTest_mem (d : Dept) (k : Nat) (s : State) : (allocTest d k s).1.mem = s.mem := by
  unfold allocTest; simp
@[simp] theorem allocTest_lines (d : Dept) (k : Nat) (s : State) : (allocTest d k s).1.lines = s.lines := by
  unfold allocTest; simp
@[simp] theorem allocTest_callers (d : Dept) (k : Nat) (s : State) : (allocTest d k s).1.callers = s.callers := by
  unfold allocTest; simp
@[simp] theorem allocTest_collect (d : Dept) (k : Nat) (s : State) : (allocTest d k s).1.collect = s.collect := by
  unfold allocTest; simp

@[simp] theorem reserve_pending (n : LineNo) (d : Dept) (k : Nat) (s : State) : (reserve n d k s).1.pending = s.pending := by
  have e := allocTest_pending d k s
  unfold reserve
  rcases h : allocTest d k s with ⟨s1, _ | c⟩ <;> rw [h] at e <;> simpa using e
@[simp] theorem reserve_part (n : LineNo) (d : Dept) (k : Nat) (s : State) : (reserve n d k s).1.part = s.part := by
  have e := allocTest_part d k s
  unfold reserve
  rcases h : allocTest d k s with ⟨s1, _ | c⟩ <;> rw [h] at e <;> simpa using e
@[simp] theorem reserve_policy (n : LineNo) (d : Dept) (k : Nat) (s : State) : (reserve n d k s).1.policy = s.policy := by
  have e := allocTest_policy d k s
  unfold reserve
  rcases h : allocTest d k s with ⟨s1, _ | c⟩ <;> rw [h] at e <;> simpa using e
@[simp] theorem reserve_routes (n : LineNo) (d : Dept) (k : Nat) (s : State) : (reserve n d k s).1.routes = s.routes := by
  have e := allocTest_routes d k s
  unfold reserve
  rcases h : allocTest d k s with ⟨s1, _ | c⟩ <;> rw [h] at e <;> simpa using e
@[simp] theorem reserve_mem (n : LineNo) (d : Dept) (k : Nat) (s : State) : (reserve n d k s).1.mem = s.mem := by
  have e := allocTest_mem d k s
  unfold reserve
  rcases h : allocTest d k s with ⟨s1, _ | c⟩ <;> rw [h] at e <;> simpa using e
@[simp] theorem reserve_lines (n : LineNo) (d : Dept) (k : Nat) (s : State) : (reserve n d k s).1.lines = s.lines := by
  have e := allocTest_lines d k s
  unfold reserve
  rcases h : allocTest d k s with ⟨s1, _ | c⟩ <;> rw [h] at e <;> simpa using e
@[simp] theorem reserve_callers (n : LineNo) (d : Dept) (k : Nat) (s : State) : (reserve n d k s).1.callers = s.callers := by
  have e := allocTest_callers d k s
  unfold reserve
  rcases h : allocTest d k s with ⟨s1, _ | c⟩ <;> rw [h] at e <;> simpa using e
@[simp] theorem reserve_collect (n : LineNo) (d : Dept) (k : Nat) (s : State) : (reserve n d k s).1.collect = s.collect := by
  have e := allocTest_collect d k s
  unfold reserve
  rcases h : allocTest d k s with ⟨s1, _ | c⟩ <;> rw [h] at e <;> simpa using e

@[simp] theorem drawBlock_pending (n : LineNo) (d : Dept) (held : Nat) (s : State) : (drawBlock n d held s).1.pending = s.pending := by
  have e := allocTest_pending d 1 s
  unfold drawBlock
  rcases h : allocTest d 1 s with ⟨s1, _ | c⟩ <;> rw [h] at e <;> dsimp only at e ⊢ <;> (repeat' split) <;> simp [e]
@[simp] theorem drawBlock_part (n : LineNo) (d : Dept) (held : Nat) (s : State) : (drawBlock n d held s).1.part = s.part := by
  have e := allocTest_part d 1 s
  unfold drawBlock
  rcases h : allocTest d 1 s with ⟨s1, _ | c⟩ <;> rw [h] at e <;> dsimp only at e ⊢ <;> (repeat' split) <;> simp [e]
@[simp] theorem drawBlock_policy (n : LineNo) (d : Dept) (held : Nat) (s : State) : (drawBlock n d held s).1.policy = s.policy := by
  have e := allocTest_policy d 1 s
  unfold drawBlock
  rcases h : allocTest d 1 s with ⟨s1, _ | c⟩ <;> rw [h] at e <;> dsimp only at e ⊢ <;> (repeat' split) <;> simp [e]
@[simp] theorem drawBlock_routes (n : LineNo) (d : Dept) (held : Nat) (s : State) : (drawBlock n d held s).1.routes = s.routes := by
  have e := allocTest_routes d 1 s
  unfold drawBlock
  rcases h : allocTest d 1 s with ⟨s1, _ | c⟩ <;> rw [h] at e <;> dsimp only at e ⊢ <;> (repeat' split) <;> simp [e]
@[simp] theorem drawBlock_mem (n : LineNo) (d : Dept) (held : Nat) (s : State) : (drawBlock n d held s).1.mem = s.mem := by
  have e := allocTest_mem d 1 s
  unfold drawBlock
  rcases h : allocTest d 1 s with ⟨s1, _ | c⟩ <;> rw [h] at e <;> dsimp only at e ⊢ <;> (repeat' split) <;> simp [e]
@[simp] theorem drawBlock_lines (n : LineNo) (d : Dept) (held : Nat) (s : State) : (drawBlock n d held s).1.lines = s.lines := by
  have e := allocTest_lines d 1 s
  unfold drawBlock
  rcases h : allocTest d 1 s with ⟨s1, _ | c⟩ <;> rw [h] at e <;> dsimp only at e ⊢ <;> (repeat' split) <;> simp [e]
@[simp] theorem drawBlock_callers (n : LineNo) (d : Dept) (held : Nat) (s : State) : (drawBlock n d held s).1.callers = s.callers := by
  have e := allocTest_callers d 1 s
  unfold drawBlock
  rcases h : allocTest d 1 s with ⟨s1, _ | c⟩ <;> rw [h] at e <;> dsimp only at e ⊢ <;> (repeat' split) <;> simp [e]
@[simp] theorem drawBlock_collect (n : LineNo) (d : Dept) (held : Nat) (s : State) : (drawBlock n d held s).1.collect = s.collect := by
  have e := allocTest_collect d 1 s
  unfold drawBlock
  rcases h : allocTest d 1 s with ⟨s1, _ | c⟩ <;> rw [h] at e <;> dsimp only at e ⊢ <;> (repeat' split) <;> simp [e]

@[simp] theorem topUp_pending (n : LineNo) (d : Dept) (s : State) : (topUp n d s).pending = s.pending := by
  unfold topUp; (try dsimp only); (repeat' split) <;> simp
@[simp] theorem topUp_part (n : LineNo) (d : Dept) (s : State) : (topUp n d s).part = s.part := by
  unfold topUp; (try dsimp only); (repeat' split) <;> simp
@[simp] theorem topUp_policy (n : LineNo) (d : Dept) (s : State) : (topUp n d s).policy = s.policy := by
  unfold topUp; (try dsimp only); (repeat' split) <;> simp
@[simp] theorem topUp_routes (n : LineNo) (d : Dept) (s : State) : (topUp n d s).routes = s.routes := by
  unfold topUp; (try dsimp only); (repeat' split) <;> simp
@[simp] theorem topUp_mem (n : LineNo) (d : Dept) (s : State) : (topUp n d s).mem = s.mem := by
  unfold topUp; (try dsimp only); (repeat' split) <;> simp
@[simp] theorem topUp_lines (n : LineNo) (d : Dept) (s : State) : (topUp n d s).lines = s.lines := by
  unfold topUp; (try dsimp only); (repeat' split) <;> simp
@[simp] theorem topUp_callers (n : LineNo) (d : Dept) (s : State) : (topUp n d s).callers = s.callers := by
  unfold topUp; (try dsimp only); (repeat' split) <;> simp
@[simp] theorem topUp_collect (n : LineNo) (d : Dept) (s : State) : (topUp n d s).collect = s.collect := by
  unfold topUp; (try dsimp only); (repeat' split) <;> simp

@[simp] theorem releaseAllotment_pending (n : LineNo) (s : State) : (releaseAllotment n s).pending = s.pending := by
  unfold releaseAllotment; (repeat' split) <;> simp
@[simp] theorem releaseAllotment_part (n : LineNo) (s : State) : (releaseAllotment n s).part = s.part := by
  unfold releaseAllotment; (repeat' split) <;> simp
@[simp] theorem releaseAllotment_policy (n : LineNo) (s : State) : (releaseAllotment n s).policy = s.policy := by
  unfold releaseAllotment; (repeat' split) <;> simp
@[simp] theorem releaseAllotment_routes (n : LineNo) (s : State) : (releaseAllotment n s).routes = s.routes := by
  unfold releaseAllotment; (repeat' split) <;> simp
@[simp] theorem releaseAllotment_mem (n : LineNo) (s : State) : (releaseAllotment n s).mem = s.mem := by
  unfold releaseAllotment; (repeat' split) <;> simp
@[simp] theorem releaseAllotment_lines (n : LineNo) (s : State) : (releaseAllotment n s).lines = s.lines := by
  unfold releaseAllotment; (repeat' split) <;> simp
@[simp] theorem releaseAllotment_callers (n : LineNo) (s : State) : (releaseAllotment n s).callers = s.callers := by
  unfold releaseAllotment; (repeat' split) <;> simp
@[simp] theorem releaseAllotment_collect (n : LineNo) (s : State) : (releaseAllotment n s).collect = s.collect := by
  unfold releaseAllotment; (repeat' split) <;> simp

theorem takeSlot_pending (s : State) (p : State × Nat) (h : takeSlot s = some p) : p.1.pending = s.pending := by
  unfold takeSlot at h
  (repeat' split at h) <;> simp at h
  · rw [← h]
  · obtain ⟨m, _, rfl⟩ := h; simp
theorem takeSlot_part (s : State) (p : State × Nat) (h : takeSlot s = some p) : p.1.part = s.part := by
  unfold takeSlot at h
  (repeat' split at h) <;> simp at h
  · rw [← h]
  · obtain ⟨m, _, rfl⟩ := h; simp
theorem takeSlot_policy (s : State) (p : State × Nat) (h : takeSlot s = some p) : p.1.policy = s.policy := by
  unfold takeSlot at h
  (repeat' split at h) <;> simp at h
  · rw [← h]
  · obtain ⟨m, _, rfl⟩ := h; simp
theorem takeSlot_routes (s : State) (p : State × Nat) (h : takeSlot s = some p) : p.1.routes = s.routes := by
  unfold takeSlot at h
  (repeat' split at h) <;> simp at h
  · rw [← h]
  · obtain ⟨m, _, rfl⟩ := h; simp
theorem takeSlot_mem (s : State) (p : State × Nat) (h : takeSlot s = some p) : p.1.mem = s.mem := by
  unfold takeSlot at h
  (repeat' split at h) <;> simp at h
  · rw [← h]
  · obtain ⟨m, _, rfl⟩ := h; simp
theorem takeSlot_lines (s : State) (p : State × Nat) (h : takeSlot s = some p) : p.1.lines = s.lines := by
  unfold takeSlot at h
  (repeat' split at h) <;> simp at h
  · rw [← h]
  · obtain ⟨m, _, rfl⟩ := h; simp
theorem takeSlot_callers (s : State) (p : State × Nat) (h : takeSlot s = some p) : p.1.callers = s.callers := by
  unfold takeSlot at h
  (repeat' split at h) <;> simp at h
  · rw [← h]
  · obtain ⟨m, _, rfl⟩ := h; simp
theorem takeSlot_collect (s : State) (p : State × Nat) (h : takeSlot s = some p) : p.1.collect = s.collect := by
  unfold takeSlot at h
  (repeat' split at h) <;> simp at h
  · rw [← h]
  · obtain ⟨m, _, rfl⟩ := h; simp

@[simp] theorem makeOffer_pending (d : Document) (tag : Byte) (timeout : Nat) (s : State) : (makeOffer d tag timeout s).pending = s.pending := by
  unfold makeOffer; (try dsimp only); simp
@[simp] theorem makeOffer_part (d : Document) (tag : Byte) (timeout : Nat) (s : State) : (makeOffer d tag timeout s).part = s.part := by
  unfold makeOffer; (try dsimp only); simp
@[simp] theorem makeOffer_policy (d : Document) (tag : Byte) (timeout : Nat) (s : State) : (makeOffer d tag timeout s).policy = s.policy := by
  unfold makeOffer; (try dsimp only); simp
@[simp] theorem makeOffer_routes (d : Document) (tag : Byte) (timeout : Nat) (s : State) : (makeOffer d tag timeout s).routes = s.routes := by
  unfold makeOffer; (try dsimp only); simp
@[simp] theorem makeOffer_mem (d : Document) (tag : Byte) (timeout : Nat) (s : State) : (makeOffer d tag timeout s).mem = s.mem := by
  unfold makeOffer; (try dsimp only); simp
@[simp] theorem makeOffer_lines (d : Document) (tag : Byte) (timeout : Nat) (s : State) : (makeOffer d tag timeout s).lines = s.lines := by
  unfold makeOffer; (try dsimp only); simp
@[simp] theorem makeOffer_callers (d : Document) (tag : Byte) (timeout : Nat) (s : State) : (makeOffer d tag timeout s).callers = s.callers := by
  unfold makeOffer; (try dsimp only); simp

@[simp] theorem matchDoc_pending (d : Document) (s : State) : (matchDoc d s).pending = s.pending := by
  unfold matchDoc; (try dsimp only); (repeat' split) <;> simp
@[simp] theorem matchDoc_part (d : Document) (s : State) : (matchDoc d s).part = s.part := by
  unfold matchDoc; (try dsimp only); (repeat' split) <;> simp
@[simp] theorem matchDoc_policy (d : Document) (s : State) : (matchDoc d s).policy = s.policy := by
  unfold matchDoc; (try dsimp only); (repeat' split) <;> simp
@[simp] theorem matchDoc_routes (d : Document) (s : State) : (matchDoc d s).routes = s.routes := by
  unfold matchDoc; (try dsimp only); (repeat' split) <;> simp
@[simp] theorem matchDoc_mem (d : Document) (s : State) : (matchDoc d s).mem = s.mem := by
  unfold matchDoc; (try dsimp only); (repeat' split) <;> simp
@[simp] theorem matchDoc_lines (d : Document) (s : State) : (matchDoc d s).lines = s.lines := by
  unfold matchDoc; (try dsimp only); (repeat' split) <;> simp
@[simp] theorem matchDoc_callers (d : Document) (s : State) : (matchDoc d s).callers = s.callers := by
  unfold matchDoc; (try dsimp only); (repeat' split) <;> simp

@[simp] theorem joinReady_pending (n : Nat) (s : State) : (joinReady n s).pending = s.pending := by
  unfold joinReady; (try dsimp only); (repeat' split) <;> simp
@[simp] theorem joinReady_part (n : Nat) (s : State) : (joinReady n s).part = s.part := by
  unfold joinReady; (try dsimp only); (repeat' split) <;> simp
@[simp] theorem joinReady_policy (n : Nat) (s : State) : (joinReady n s).policy = s.policy := by
  unfold joinReady; (try dsimp only); (repeat' split) <;> simp
@[simp] theorem joinReady_routes (n : Nat) (s : State) : (joinReady n s).routes = s.routes := by
  unfold joinReady; (try dsimp only); (repeat' split) <;> simp
@[simp] theorem joinReady_mem (n : Nat) (s : State) : (joinReady n s).mem = s.mem := by
  unfold joinReady; (try dsimp only); (repeat' split) <;> simp
@[simp] theorem joinReady_lines (n : Nat) (s : State) : (joinReady n s).lines = s.lines := by
  unfold joinReady; (try dsimp only); (repeat' split) <;> simp
@[simp] theorem joinReady_callers (n : Nat) (s : State) : (joinReady n s).callers = s.callers := by
  unfold joinReady; (try dsimp only); (repeat' split) <;> simp

@[simp] theorem becomeDue_pending (n : Nat) (s : State) : (becomeDue n s).pending = s.pending := by
  unfold becomeDue; simp
@[simp] theorem becomeDue_part (n : Nat) (s : State) : (becomeDue n s).part = s.part := by
  unfold becomeDue; simp
@[simp] theorem becomeDue_policy (n : Nat) (s : State) : (becomeDue n s).policy = s.policy := by
  unfold becomeDue; simp
@[simp] theorem becomeDue_routes (n : Nat) (s : State) : (becomeDue n s).routes = s.routes := by
  unfold becomeDue; simp
@[simp] theorem becomeDue_mem (n : Nat) (s : State) : (becomeDue n s).mem = s.mem := by
  unfold becomeDue; simp
@[simp] theorem becomeDue_lines (n : Nat) (s : State) : (becomeDue n s).lines = s.lines := by
  unfold becomeDue; simp
@[simp] theorem becomeDue_callers (n : Nat) (s : State) : (becomeDue n s).callers = s.callers := by
  unfold becomeDue; simp

@[simp] theorem declineOpen_pending (n : Nat) (s : State) : (declineOpen n s).pending = s.pending := by
  unfold declineOpen; (try dsimp only); simp
@[simp] theorem declineOpen_part (n : Nat) (s : State) : (declineOpen n s).part = s.part := by
  unfold declineOpen; (try dsimp only); simp
@[simp] theorem declineOpen_policy (n : Nat) (s : State) : (declineOpen n s).policy = s.policy := by
  unfold declineOpen; (try dsimp only); simp
@[simp] theorem declineOpen_routes (n : Nat) (s : State) : (declineOpen n s).routes = s.routes := by
  unfold declineOpen; (try dsimp only); simp
@[simp] theorem declineOpen_mem (n : Nat) (s : State) : (declineOpen n s).mem = s.mem := by
  unfold declineOpen; (try dsimp only); simp
@[simp] theorem declineOpen_lines (n : Nat) (s : State) : (declineOpen n s).lines = s.lines := by
  unfold declineOpen; (try dsimp only); simp
@[simp] theorem declineOpen_callers (n : Nat) (s : State) : (declineOpen n s).callers = s.callers := by
  unfold declineOpen; (try dsimp only); simp

@[simp] theorem settle_pending (n : Nat) (s : State) : (settle n s).pending = s.pending := by
  unfold settle; (try dsimp only); (repeat' split) <;> simp
@[simp] theorem settle_part (n : Nat) (s : State) : (settle n s).part = s.part := by
  unfold settle; (try dsimp only); (repeat' split) <;> simp
@[simp] theorem settle_policy (n : Nat) (s : State) : (settle n s).policy = s.policy := by
  unfold settle; (try dsimp only); (repeat' split) <;> simp
@[simp] theorem settle_routes (n : Nat) (s : State) : (settle n s).routes = s.routes := by
  unfold settle; (try dsimp only); (repeat' split) <;> simp
@[simp] theorem settle_mem (n : Nat) (s : State) : (settle n s).mem = s.mem := by
  unfold settle; (try dsimp only); (repeat' split) <;> simp
@[simp] theorem settle_lines (n : Nat) (s : State) : (settle n s).lines = s.lines := by
  unfold settle; (try dsimp only); (repeat' split) <;> simp
@[simp] theorem settle_callers (n : Nat) (s : State) : (settle n s).callers = s.callers := by
  unfold settle; (try dsimp only); (repeat' split) <;> simp
@[simp] theorem settle_collect (n : Nat) (s : State) : (settle n s).collect = s.collect := by
  unfold settle; (try dsimp only); (repeat' split) <;> simp

@[simp] theorem fallback_pending (n : Nat) (s : State) : (fallback n s).pending = s.pending := by
  unfold fallback; (repeat' split) <;> simp
@[simp] theorem fallback_part (n : Nat) (s : State) : (fallback n s).part = s.part := by
  unfold fallback; (repeat' split) <;> simp
@[simp] theorem fallback_policy (n : Nat) (s : State) : (fallback n s).policy = s.policy := by
  unfold fallback; (repeat' split) <;> simp
@[simp] theorem fallback_routes (n : Nat) (s : State) : (fallback n s).routes = s.routes := by
  unfold fallback; (repeat' split) <;> simp
@[simp] theorem fallback_mem (n : Nat) (s : State) : (fallback n s).mem = s.mem := by
  unfold fallback; (repeat' split) <;> simp
@[simp] theorem fallback_lines (n : Nat) (s : State) : (fallback n s).lines = s.lines := by
  unfold fallback; (repeat' split) <;> simp
@[simp] theorem fallback_callers (n : Nat) (s : State) : (fallback n s).callers = s.callers := by
  unfold fallback; (repeat' split) <;> simp

@[simp] theorem cancelEntry_pending (n : Nat) (s : State) (p : Nat × ForwardEntry) : (cancelEntry n s p).pending = s.pending := by
  simp [cancelEntry]
@[simp] theorem cancelEntry_part (n : Nat) (s : State) (p : Nat × ForwardEntry) : (cancelEntry n s p).part = s.part := by
  simp [cancelEntry]
@[simp] theorem cancelEntry_policy (n : Nat) (s : State) (p : Nat × ForwardEntry) : (cancelEntry n s p).policy = s.policy := by
  simp [cancelEntry]
@[simp] theorem cancelEntry_routes (n : Nat) (s : State) (p : Nat × ForwardEntry) : (cancelEntry n s p).routes = s.routes := by
  simp [cancelEntry]
@[simp] theorem cancelEntry_mem (n : Nat) (s : State) (p : Nat × ForwardEntry) : (cancelEntry n s p).mem = s.mem := by
  simp [cancelEntry]
@[simp] theorem cancelEntry_lines (n : Nat) (s : State) (p : Nat × ForwardEntry) : (cancelEntry n s p).lines = s.lines := by
  simp [cancelEntry]
@[simp] theorem cancelEntry_callers (n : Nat) (s : State) (p : Nat × ForwardEntry) : (cancelEntry n s p).callers = s.callers := by
  simp [cancelEntry]

@[simp] theorem cancelPending_pending (d : Document) (s : State) : (cancelPending d s).pending = s.pending :=
  foldl_keeps _ State.pending (fun t x => cancelEntry_pending d.number t x) _ _
@[simp] theorem cancelPending_part (d : Document) (s : State) : (cancelPending d s).part = s.part :=
  foldl_keeps _ State.part (fun t x => cancelEntry_part d.number t x) _ _
@[simp] theorem cancelPending_policy (d : Document) (s : State) : (cancelPending d s).policy = s.policy :=
  foldl_keeps _ State.policy (fun t x => cancelEntry_policy d.number t x) _ _
@[simp] theorem cancelPending_routes (d : Document) (s : State) : (cancelPending d s).routes = s.routes :=
  foldl_keeps _ State.routes (fun t x => cancelEntry_routes d.number t x) _ _
@[simp] theorem cancelPending_mem (d : Document) (s : State) : (cancelPending d s).mem = s.mem :=
  foldl_keeps _ State.mem (fun t x => cancelEntry_mem d.number t x) _ _
@[simp] theorem cancelPending_lines (d : Document) (s : State) : (cancelPending d s).lines = s.lines :=
  foldl_keeps _ State.lines (fun t x => cancelEntry_lines d.number t x) _ _
@[simp] theorem cancelPending_callers (d : Document) (s : State) : (cancelPending d s).callers = s.callers :=
  foldl_keeps _ State.callers (fun t x => cancelEntry_callers d.number t x) _ _

@[simp] theorem dropCollect_pending (n : Nat) (s : State) : (dropCollect n s).pending = s.pending := rfl
@[simp] theorem dropCollect_part (n : Nat) (s : State) : (dropCollect n s).part = s.part := rfl
@[simp] theorem dropCollect_clock (n : Nat) (s : State) : (dropCollect n s).clock = s.clock := rfl
@[simp] theorem dropCollect_policy (n : Nat) (s : State) : (dropCollect n s).policy = s.policy := rfl
@[simp] theorem dropCollect_store (n : Nat) (s : State) : (dropCollect n s).store = s.store := rfl
@[simp] theorem dropCollect_mem (n : Nat) (s : State) : (dropCollect n s).mem = s.mem := rfl
@[simp] theorem dropCollect_dram (n : Nat) (s : State) : (dropCollect n s).dram = s.dram := rfl
@[simp] theorem dropCollect_dir (n : Nat) (s : State) : (dropCollect n s).dir = s.dir := rfl
@[simp] theorem dropCollect_routes (n : Nat) (s : State) : (dropCollect n s).routes = s.routes := rfl
@[simp] theorem dropCollect_lines (n : Nat) (s : State) : (dropCollect n s).lines = s.lines := rfl
@[simp] theorem dropCollect_callers (n : Nat) (s : State) : (dropCollect n s).callers = s.callers := rfl
@[simp] theorem dropCollect_fwd (n : Nat) (s : State) : (dropCollect n s).fwd = s.fwd := rfl
@[simp] theorem dropCollect_journal (n : Nat) (s : State) : (dropCollect n s).journal = s.journal := rfl
@[simp] theorem dropCollect_integrity (n : Nat) (s : State) : (dropCollect n s).integrity = s.integrity := rfl
@[simp] theorem dropCollect_link (n : Nat) (s : State) : (dropCollect n s).link = s.link := rfl
@[simp] theorem dropCollect_queue (n : Nat) (s : State) : (dropCollect n s).collect.queue = s.collect.queue := rfl
@[simp] theorem dropCollect_transfer (n : Nat) (s : State) : (dropCollect n s).collect.transfer = s.collect.transfer := rfl

@[simp] theorem abandonFrame_pending (s : State) : (abandonFrame s).pending = s.pending := rfl
@[simp] theorem abandonFrame_part (s : State) : (abandonFrame s).part = s.part := rfl
@[simp] theorem abandonFrame_clock (s : State) : (abandonFrame s).clock = s.clock := rfl
@[simp] theorem abandonFrame_policy (s : State) : (abandonFrame s).policy = s.policy := rfl
@[simp] theorem abandonFrame_store (s : State) : (abandonFrame s).store = s.store := rfl
@[simp] theorem abandonFrame_mem (s : State) : (abandonFrame s).mem = s.mem := rfl
@[simp] theorem abandonFrame_dram (s : State) : (abandonFrame s).dram = s.dram := rfl
@[simp] theorem abandonFrame_dir (s : State) : (abandonFrame s).dir = s.dir := rfl
@[simp] theorem abandonFrame_routes (s : State) : (abandonFrame s).routes = s.routes := rfl
@[simp] theorem abandonFrame_lines (s : State) : (abandonFrame s).lines = s.lines := rfl
@[simp] theorem abandonFrame_callers (s : State) : (abandonFrame s).callers = s.callers := rfl
@[simp] theorem abandonFrame_fwd (s : State) : (abandonFrame s).fwd = s.fwd := rfl
@[simp] theorem abandonFrame_journal (s : State) : (abandonFrame s).journal = s.journal := rfl
@[simp] theorem abandonFrame_integrity (s : State) : (abandonFrame s).integrity = s.integrity := rfl
@[simp] theorem abandonFrame_collect (s : State) : (abandonFrame s).collect = s.collect := rfl
@[simp] theorem abandonFrame_rx (s : State) : (abandonFrame s).link.rx = [] := rfl
@[simp] theorem abandonFrame_intake (s : State) : (abandonFrame s).link.intake = s.link.intake := rfl

@[simp] theorem addJob_pending (n i : Nat) (dest : Text) (urgent : Bool) (s : State) : (addJob n i dest urgent s).1.pending = s.pending := by
  unfold addJob; (try dsimp only); simp
@[simp] theorem addJob_part (n i : Nat) (dest : Text) (urgent : Bool) (s : State) : (addJob n i dest urgent s).1.part = s.part := by
  unfold addJob; (try dsimp only); simp
@[simp] theorem addJob_policy (n i : Nat) (dest : Text) (urgent : Bool) (s : State) : (addJob n i dest urgent s).1.policy = s.policy := by
  unfold addJob; (try dsimp only); simp
@[simp] theorem addJob_routes (n i : Nat) (dest : Text) (urgent : Bool) (s : State) : (addJob n i dest urgent s).1.routes = s.routes := by
  unfold addJob; (try dsimp only); simp
@[simp] theorem addJob_mem (n i : Nat) (dest : Text) (urgent : Bool) (s : State) : (addJob n i dest urgent s).1.mem = s.mem := by
  unfold addJob; (try dsimp only); simp
@[simp] theorem addJob_lines (n i : Nat) (dest : Text) (urgent : Bool) (s : State) : (addJob n i dest urgent s).1.lines = s.lines := by
  unfold addJob; (try dsimp only); simp
@[simp] theorem addJob_callers (n i : Nat) (dest : Text) (urgent : Bool) (s : State) : (addJob n i dest urgent s).1.callers = s.callers := by
  unfold addJob; (try dsimp only); simp
@[simp] theorem addJob_collect (n i : Nat) (dest : Text) (urgent : Bool) (s : State) : (addJob n i dest urgent s).1.collect = s.collect := by
  unfold addJob; (try dsimp only); simp

@[simp] theorem endEntry_pending (n i : Nat) (state : ForwardState) (result : ForwardResult) (s : State) : (endEntry n i state result s).pending = s.pending := by
  unfold endEntry; (try dsimp only); (repeat' split) <;> simp
@[simp] theorem endEntry_part (n i : Nat) (state : ForwardState) (result : ForwardResult) (s : State) : (endEntry n i state result s).part = s.part := by
  unfold endEntry; (try dsimp only); (repeat' split) <;> simp
@[simp] theorem endEntry_policy (n i : Nat) (state : ForwardState) (result : ForwardResult) (s : State) : (endEntry n i state result s).policy = s.policy := by
  unfold endEntry; (try dsimp only); (repeat' split) <;> simp
@[simp] theorem endEntry_routes (n i : Nat) (state : ForwardState) (result : ForwardResult) (s : State) : (endEntry n i state result s).routes = s.routes := by
  unfold endEntry; (try dsimp only); (repeat' split) <;> simp
@[simp] theorem endEntry_mem (n i : Nat) (state : ForwardState) (result : ForwardResult) (s : State) : (endEntry n i state result s).mem = s.mem := by
  unfold endEntry; (try dsimp only); (repeat' split) <;> simp
@[simp] theorem endEntry_lines (n i : Nat) (state : ForwardState) (result : ForwardResult) (s : State) : (endEntry n i state result s).lines = s.lines := by
  unfold endEntry; (try dsimp only); (repeat' split) <;> simp
@[simp] theorem endEntry_callers (n i : Nat) (state : ForwardState) (result : ForwardResult) (s : State) : (endEntry n i state result s).callers = s.callers := by
  unfold endEntry; (try dsimp only); (repeat' split) <;> simp

@[simp] theorem createJob_pending (n i : Nat) (dest : Text) (urgent : Bool) (s : State) : (createJob n i dest urgent s).pending = s.pending := by
  unfold createJob; (try dsimp only); (repeat' split) <;> simp
@[simp] theorem createJob_part (n i : Nat) (dest : Text) (urgent : Bool) (s : State) : (createJob n i dest urgent s).part = s.part := by
  unfold createJob; (try dsimp only); (repeat' split) <;> simp
@[simp] theorem createJob_policy (n i : Nat) (dest : Text) (urgent : Bool) (s : State) : (createJob n i dest urgent s).policy = s.policy := by
  unfold createJob; (try dsimp only); (repeat' split) <;> simp
@[simp] theorem createJob_routes (n i : Nat) (dest : Text) (urgent : Bool) (s : State) : (createJob n i dest urgent s).routes = s.routes := by
  unfold createJob; (try dsimp only); (repeat' split) <;> simp
@[simp] theorem createJob_mem (n i : Nat) (dest : Text) (urgent : Bool) (s : State) : (createJob n i dest urgent s).mem = s.mem := by
  unfold createJob; (try dsimp only); (repeat' split) <;> simp
@[simp] theorem createJob_lines (n i : Nat) (dest : Text) (urgent : Bool) (s : State) : (createJob n i dest urgent s).lines = s.lines := by
  unfold createJob; (try dsimp only); (repeat' split) <;> simp
@[simp] theorem createJob_callers (n i : Nat) (dest : Text) (urgent : Bool) (s : State) : (createJob n i dest urgent s).callers = s.callers := by
  unfold createJob; (try dsimp only); (repeat' split) <;> simp

@[simp] theorem openForwards_pending (n : Nat) (urgent : Bool) (i : Nat) (dests : List Text) (s : State) :
    (openForwards n urgent i dests s).pending = s.pending := by
  induction dests generalizing i s with
  | nil => rfl
  | cons d ds ih => unfold openForwards; simp [ih]
@[simp] theorem openForwards_part (n : Nat) (urgent : Bool) (i : Nat) (dests : List Text) (s : State) :
    (openForwards n urgent i dests s).part = s.part := by
  induction dests generalizing i s with
  | nil => rfl
  | cons d ds ih => unfold openForwards; simp [ih]
@[simp] theorem openForwards_policy (n : Nat) (urgent : Bool) (i : Nat) (dests : List Text) (s : State) :
    (openForwards n urgent i dests s).policy = s.policy := by
  induction dests generalizing i s with
  | nil => rfl
  | cons d ds ih => unfold openForwards; simp [ih]
@[simp] theorem openForwards_routes (n : Nat) (urgent : Bool) (i : Nat) (dests : List Text) (s : State) :
    (openForwards n urgent i dests s).routes = s.routes := by
  induction dests generalizing i s with
  | nil => rfl
  | cons d ds ih => unfold openForwards; simp [ih]
@[simp] theorem openForwards_mem (n : Nat) (urgent : Bool) (i : Nat) (dests : List Text) (s : State) :
    (openForwards n urgent i dests s).mem = s.mem := by
  induction dests generalizing i s with
  | nil => rfl
  | cons d ds ih => unfold openForwards; simp [ih]
@[simp] theorem openForwards_lines (n : Nat) (urgent : Bool) (i : Nat) (dests : List Text) (s : State) :
    (openForwards n urgent i dests s).lines = s.lines := by
  induction dests generalizing i s with
  | nil => rfl
  | cons d ds ih => unfold openForwards; simp [ih]
@[simp] theorem openForwards_callers (n : Nat) (urgent : Bool) (i : Nat) (dests : List Text) (s : State) :
    (openForwards n urgent i dests s).callers = s.callers := by
  induction dests generalizing i s with
  | nil => rfl
  | cons d ds ih => unfold openForwards; simp [ih]

@[simp] theorem enterOpen_pending (n : Nat) (s : State) : (enterOpen n s).pending = s.pending := by
  unfold enterOpen; (try dsimp only); (repeat' split) <;> simp
@[simp] theorem enterOpen_part (n : Nat) (s : State) : (enterOpen n s).part = s.part := by
  unfold enterOpen; (try dsimp only); (repeat' split) <;> simp
@[simp] theorem enterOpen_policy (n : Nat) (s : State) : (enterOpen n s).policy = s.policy := by
  unfold enterOpen; (try dsimp only); (repeat' split) <;> simp
@[simp] theorem enterOpen_routes (n : Nat) (s : State) : (enterOpen n s).routes = s.routes := by
  unfold enterOpen; (try dsimp only); (repeat' split) <;> simp
@[simp] theorem enterOpen_mem (n : Nat) (s : State) : (enterOpen n s).mem = s.mem := by
  unfold enterOpen; (try dsimp only); (repeat' split) <;> simp
@[simp] theorem enterOpen_lines (n : Nat) (s : State) : (enterOpen n s).lines = s.lines := by
  unfold enterOpen; (try dsimp only); (repeat' split) <;> simp
@[simp] theorem enterOpen_callers (n : Nat) (s : State) : (enterOpen n s).callers = s.callers := by
  unfold enterOpen; (try dsimp only); (repeat' split) <;> simp

@[simp] theorem freeLanding_pending (n : Nat) (s : State) : (freeLanding n s).pending = s.pending := by
  unfold freeLanding; (repeat' split) <;> simp
@[simp] theorem freeLanding_part (n : Nat) (s : State) : (freeLanding n s).part = s.part := by
  unfold freeLanding; (repeat' split) <;> simp
@[simp] theorem freeLanding_policy (n : Nat) (s : State) : (freeLanding n s).policy = s.policy := by
  unfold freeLanding; (repeat' split) <;> simp
@[simp] theorem freeLanding_routes (n : Nat) (s : State) : (freeLanding n s).routes = s.routes := by
  unfold freeLanding; (repeat' split) <;> simp
@[simp] theorem freeLanding_lines (n : Nat) (s : State) : (freeLanding n s).lines = s.lines := by
  unfold freeLanding; (repeat' split) <;> simp
@[simp] theorem freeLanding_callers (n : Nat) (s : State) : (freeLanding n s).callers = s.callers := by
  unfold freeLanding; (repeat' split) <;> simp
@[simp] theorem freeLanding_collect (n : Nat) (s : State) : (freeLanding n s).collect = s.collect := by
  unfold freeLanding; (repeat' split) <;> simp

@[simp] theorem landDocument_pending (n : Nat) (o : ReceiptOutcome) (s : State) : (landDocument n o s).pending = s.pending := by
  unfold landDocument; (try dsimp only); (repeat' split) <;> simp
@[simp] theorem landDocument_part (n : Nat) (o : ReceiptOutcome) (s : State) : (landDocument n o s).part = s.part := by
  unfold landDocument; (try dsimp only); (repeat' split) <;> simp
@[simp] theorem landDocument_policy (n : Nat) (o : ReceiptOutcome) (s : State) : (landDocument n o s).policy = s.policy := by
  unfold landDocument; (try dsimp only); (repeat' split) <;> simp
@[simp] theorem landDocument_routes (n : Nat) (o : ReceiptOutcome) (s : State) : (landDocument n o s).routes = s.routes := by
  unfold landDocument; (try dsimp only); (repeat' split) <;> simp
@[simp] theorem landDocument_lines (n : Nat) (o : ReceiptOutcome) (s : State) : (landDocument n o s).lines = s.lines := by
  unfold landDocument; (try dsimp only); (repeat' split) <;> simp
@[simp] theorem landDocument_callers (n : Nat) (o : ReceiptOutcome) (s : State) : (landDocument n o s).callers = s.callers := by
  unfold landDocument; (try dsimp only); (repeat' split) <;> simp

@[simp] theorem dropEmpty_pending (n : Nat) (o : ReceiptOutcome) (s : State) : (dropEmpty n o s).pending = s.pending := by
  unfold dropEmpty; (try dsimp only); (repeat' split) <;> simp
@[simp] theorem dropEmpty_part (n : Nat) (o : ReceiptOutcome) (s : State) : (dropEmpty n o s).part = s.part := by
  unfold dropEmpty; (try dsimp only); (repeat' split) <;> simp
@[simp] theorem dropEmpty_policy (n : Nat) (o : ReceiptOutcome) (s : State) : (dropEmpty n o s).policy = s.policy := by
  unfold dropEmpty; (try dsimp only); (repeat' split) <;> simp
@[simp] theorem dropEmpty_routes (n : Nat) (o : ReceiptOutcome) (s : State) : (dropEmpty n o s).routes = s.routes := by
  unfold dropEmpty; (try dsimp only); (repeat' split) <;> simp
@[simp] theorem dropEmpty_lines (n : Nat) (o : ReceiptOutcome) (s : State) : (dropEmpty n o s).lines = s.lines := by
  unfold dropEmpty; (try dsimp only); (repeat' split) <;> simp
@[simp] theorem dropEmpty_callers (n : Nat) (o : ReceiptOutcome) (s : State) : (dropEmpty n o s).callers = s.callers := by
  unfold dropEmpty; (try dsimp only); (repeat' split) <;> simp
@[simp] theorem dropEmpty_collect (n : Nat) (o : ReceiptOutcome) (s : State) : (dropEmpty n o s).collect = s.collect := by
  unfold dropEmpty; (try dsimp only); (repeat' split) <;> simp

@[simp] theorem endDocument_pending (n : Nat) (o : ReceiptOutcome) (s : State) : (endDocument n o s).pending = s.pending := by
  unfold endDocument; (repeat' split) <;> simp
@[simp] theorem endDocument_part (n : Nat) (o : ReceiptOutcome) (s : State) : (endDocument n o s).part = s.part := by
  unfold endDocument; (repeat' split) <;> simp
@[simp] theorem endDocument_policy (n : Nat) (o : ReceiptOutcome) (s : State) : (endDocument n o s).policy = s.policy := by
  unfold endDocument; (repeat' split) <;> simp
@[simp] theorem endDocument_routes (n : Nat) (o : ReceiptOutcome) (s : State) : (endDocument n o s).routes = s.routes := by
  unfold endDocument; (repeat' split) <;> simp
@[simp] theorem endDocument_lines (n : Nat) (o : ReceiptOutcome) (s : State) : (endDocument n o s).lines = s.lines := by
  unfold endDocument; (repeat' split) <;> simp
@[simp] theorem endDocument_callers (n : Nat) (o : ReceiptOutcome) (s : State) : (endDocument n o s).callers = s.callers := by
  unfold endDocument; (repeat' split) <;> simp

theorem continueDoc_pending (a : Nat) (s : State) (p : State × Nat) (h : continueDoc a s = some p) : p.1.pending = s.pending := by
  unfold continueDoc at h
  split at h <;> simp at h
  obtain ⟨t, n, ht, rfl⟩ := h
  simpa using takeSlot_pending s (t, n) ht
theorem continueDoc_part (a : Nat) (s : State) (p : State × Nat) (h : continueDoc a s = some p) : p.1.part = s.part := by
  unfold continueDoc at h
  split at h <;> simp at h
  obtain ⟨t, n, ht, rfl⟩ := h
  simpa using takeSlot_part s (t, n) ht
theorem continueDoc_policy (a : Nat) (s : State) (p : State × Nat) (h : continueDoc a s = some p) : p.1.policy = s.policy := by
  unfold continueDoc at h
  split at h <;> simp at h
  obtain ⟨t, n, ht, rfl⟩ := h
  simpa using takeSlot_policy s (t, n) ht
theorem continueDoc_routes (a : Nat) (s : State) (p : State × Nat) (h : continueDoc a s = some p) : p.1.routes = s.routes := by
  unfold continueDoc at h
  split at h <;> simp at h
  obtain ⟨t, n, ht, rfl⟩ := h
  simpa using takeSlot_routes s (t, n) ht
theorem continueDoc_lines (a : Nat) (s : State) (p : State × Nat) (h : continueDoc a s = some p) : p.1.lines = s.lines := by
  unfold continueDoc at h
  split at h <;> simp at h
  obtain ⟨t, n, ht, rfl⟩ := h
  simpa using takeSlot_lines s (t, n) ht
theorem continueDoc_callers (a : Nat) (s : State) (p : State × Nat) (h : continueDoc a s = some p) : p.1.callers = s.callers := by
  unfold continueDoc at h
  split at h <;> simp at h
  obtain ⟨t, n, ht, rfl⟩ := h
  simpa using takeSlot_callers s (t, n) ht

@[simp] theorem purgeIfPassed_pending (n : Nat) (s : State) : (purgeIfPassed n s).pending = s.pending := by
  unfold purgeIfPassed; (repeat' split) <;> simp
@[simp] theorem purgeIfPassed_part (n : Nat) (s : State) : (purgeIfPassed n s).part = s.part := by
  unfold purgeIfPassed; (repeat' split) <;> simp
@[simp] theorem purgeIfPassed_policy (n : Nat) (s : State) : (purgeIfPassed n s).policy = s.policy := by
  unfold purgeIfPassed; (repeat' split) <;> simp
@[simp] theorem purgeIfPassed_routes (n : Nat) (s : State) : (purgeIfPassed n s).routes = s.routes := by
  unfold purgeIfPassed; (repeat' split) <;> simp
@[simp] theorem purgeIfPassed_mem (n : Nat) (s : State) : (purgeIfPassed n s).mem = s.mem := by
  unfold purgeIfPassed; (repeat' split) <;> simp
@[simp] theorem purgeIfPassed_lines (n : Nat) (s : State) : (purgeIfPassed n s).lines = s.lines := by
  unfold purgeIfPassed; (repeat' split) <;> simp
@[simp] theorem purgeIfPassed_callers (n : Nat) (s : State) : (purgeIfPassed n s).callers = s.callers := by
  unfold purgeIfPassed; (repeat' split) <;> simp
@[simp] theorem purgeIfPassed_collect (n : Nat) (s : State) : (purgeIfPassed n s).collect = s.collect := by
  unfold purgeIfPassed; (repeat' split) <;> simp

@[simp] theorem lookupCaller_pending (number : Text) (s : State) : (lookupCaller number s).1.pending = s.pending := by
  unfold lookupCaller; (try dsimp only); (repeat' split) <;> simp
@[simp] theorem lookupCaller_part (number : Text) (s : State) : (lookupCaller number s).1.part = s.part := by
  unfold lookupCaller; (try dsimp only); (repeat' split) <;> simp
@[simp] theorem lookupCaller_policy (number : Text) (s : State) : (lookupCaller number s).1.policy = s.policy := by
  unfold lookupCaller; (try dsimp only); (repeat' split) <;> simp
@[simp] theorem lookupCaller_routes (number : Text) (s : State) : (lookupCaller number s).1.routes = s.routes := by
  unfold lookupCaller; (try dsimp only); (repeat' split) <;> simp
@[simp] theorem lookupCaller_mem (number : Text) (s : State) : (lookupCaller number s).1.mem = s.mem := by
  unfold lookupCaller; (try dsimp only); (repeat' split) <;> simp
@[simp] theorem lookupCaller_lines (number : Text) (s : State) : (lookupCaller number s).1.lines = s.lines := by
  unfold lookupCaller; (try dsimp only); (repeat' split) <;> simp
@[simp] theorem lookupCaller_collect (number : Text) (s : State) : (lookupCaller number s).1.collect = s.collect := by
  unfold lookupCaller; (try dsimp only); (repeat' split) <;> simp

@[simp] theorem applyPending_pending (n : LineNo) (s : State) : (applyPending n s).pending = s.pending := by
  unfold applyPending; (repeat' split) <;> simp
@[simp] theorem applyPending_part (n : LineNo) (s : State) : (applyPending n s).part = s.part := by
  unfold applyPending; (repeat' split) <;> simp
@[simp] theorem applyPending_policy (n : LineNo) (s : State) : (applyPending n s).policy = s.policy := by
  unfold applyPending; (repeat' split) <;> simp
@[simp] theorem applyPending_routes (n : LineNo) (s : State) : (applyPending n s).routes = s.routes := by
  unfold applyPending; (repeat' split) <;> simp
@[simp] theorem applyPending_mem (n : LineNo) (s : State) : (applyPending n s).mem = s.mem := by
  unfold applyPending; (repeat' split) <;> simp
@[simp] theorem applyPending_callers (n : LineNo) (s : State) : (applyPending n s).callers = s.callers := by
  unfold applyPending; (repeat' split) <;> simp
@[simp] theorem applyPending_collect (n : LineNo) (s : State) : (applyPending n s).collect = s.collect := by
  unfold applyPending; (repeat' split) <;> simp

@[simp] theorem returnToIdle_pending (n : LineNo) (s : State) : (returnToIdle n s).pending = s.pending := by
  unfold returnToIdle; simp
@[simp] theorem returnToIdle_part (n : LineNo) (s : State) : (returnToIdle n s).part = s.part := by
  unfold returnToIdle; simp
@[simp] theorem returnToIdle_policy (n : LineNo) (s : State) : (returnToIdle n s).policy = s.policy := by
  unfold returnToIdle; simp
@[simp] theorem returnToIdle_routes (n : LineNo) (s : State) : (returnToIdle n s).routes = s.routes := by
  unfold returnToIdle; simp
@[simp] theorem returnToIdle_mem (n : LineNo) (s : State) : (returnToIdle n s).mem = s.mem := by
  unfold returnToIdle; simp
@[simp] theorem returnToIdle_callers (n : LineNo) (s : State) : (returnToIdle n s).callers = s.callers := by
  unfold returnToIdle; simp
@[simp] theorem returnToIdle_collect (n : LineNo) (s : State) : (returnToIdle n s).collect = s.collect := by
  unfold returnToIdle; simp

@[simp] theorem endReceiving_pending (n : LineNo) (e : RxEnd) (sendRelease : Bool) (s : State) : (endReceiving n e sendRelease s).pending = s.pending := by
  unfold endReceiving; (try dsimp only); (repeat' split) <;> simp
@[simp] theorem endReceiving_part (n : LineNo) (e : RxEnd) (sendRelease : Bool) (s : State) : (endReceiving n e sendRelease s).part = s.part := by
  unfold endReceiving; (try dsimp only); (repeat' split) <;> simp
@[simp] theorem endReceiving_policy (n : LineNo) (e : RxEnd) (sendRelease : Bool) (s : State) : (endReceiving n e sendRelease s).policy = s.policy := by
  unfold endReceiving; (try dsimp only); (repeat' split) <;> simp
@[simp] theorem endReceiving_routes (n : LineNo) (e : RxEnd) (sendRelease : Bool) (s : State) : (endReceiving n e sendRelease s).routes = s.routes := by
  unfold endReceiving; (try dsimp only); (repeat' split) <;> simp

@[simp] theorem endAttempt_pending (n : LineNo) (o : AttemptOutcome) (cause : TxCause) (sendRelease : Bool) (s : State) : (endAttempt n o cause sendRelease s).pending = s.pending := by
  unfold endAttempt; (try dsimp only); (repeat' split) <;> simp
@[simp] theorem endAttempt_part (n : LineNo) (o : AttemptOutcome) (cause : TxCause) (sendRelease : Bool) (s : State) : (endAttempt n o cause sendRelease s).part = s.part := by
  unfold endAttempt; (try dsimp only); (repeat' split) <;> simp
@[simp] theorem endAttempt_policy (n : LineNo) (o : AttemptOutcome) (cause : TxCause) (sendRelease : Bool) (s : State) : (endAttempt n o cause sendRelease s).policy = s.policy := by
  unfold endAttempt; (try dsimp only); (repeat' split) <;> simp
@[simp] theorem endAttempt_routes (n : LineNo) (o : AttemptOutcome) (cause : TxCause) (sendRelease : Bool) (s : State) : (endAttempt n o cause sendRelease s).routes = s.routes := by
  unfold endAttempt; (try dsimp only); (repeat' split) <;> simp
@[simp] theorem endAttempt_mem (n : LineNo) (o : AttemptOutcome) (cause : TxCause) (sendRelease : Bool) (s : State) : (endAttempt n o cause sendRelease s).mem = s.mem := by
  unfold endAttempt; (try dsimp only); (repeat' split) <;> simp
@[simp] theorem endAttempt_collect (n : LineNo) (o : AttemptOutcome) (cause : TxCause) (sendRelease : Bool) (s : State) : (endAttempt n o cause sendRelease s).collect = s.collect := by
  unfold endAttempt; (try dsimp only); (repeat' split) <;> simp

@[simp] theorem releaseAttempt_pending (n : LineNo) (s : State) : (releaseAttempt n s).pending = s.pending := by
  unfold releaseAttempt; (repeat' split) <;> simp
@[simp] theorem releaseAttempt_part (n : LineNo) (s : State) : (releaseAttempt n s).part = s.part := by
  unfold releaseAttempt; (repeat' split) <;> simp
@[simp] theorem releaseAttempt_policy (n : LineNo) (s : State) : (releaseAttempt n s).policy = s.policy := by
  unfold releaseAttempt; (repeat' split) <;> simp
@[simp] theorem releaseAttempt_routes (n : LineNo) (s : State) : (releaseAttempt n s).routes = s.routes := by
  unfold releaseAttempt; (repeat' split) <;> simp
@[simp] theorem releaseAttempt_mem (n : LineNo) (s : State) : (releaseAttempt n s).mem = s.mem := by
  unfold releaseAttempt; (repeat' split) <;> simp
@[simp] theorem releaseAttempt_collect (n : LineNo) (s : State) : (releaseAttempt n s).collect = s.collect := by
  unfold releaseAttempt; (repeat' split) <;> simp

@[simp] theorem endByFault_pending (n : LineNo) (e : RxEnd) (s : State) : (endByFault n e s).pending = s.pending := by
  unfold endByFault; (repeat' split) <;> simp
@[simp] theorem endByFault_part (n : LineNo) (e : RxEnd) (s : State) : (endByFault n e s).part = s.part := by
  unfold endByFault; (repeat' split) <;> simp
@[simp] theorem endByFault_policy (n : LineNo) (e : RxEnd) (s : State) : (endByFault n e s).policy = s.policy := by
  unfold endByFault; (repeat' split) <;> simp
@[simp] theorem endByFault_routes (n : LineNo) (e : RxEnd) (s : State) : (endByFault n e s).routes = s.routes := by
  unfold endByFault; (repeat' split) <;> simp

@[simp] theorem enterFault_pending (n : LineNo) (cause : FaultCause) (s : State) : (enterFault n cause s).pending = s.pending := by
  unfold enterFault; (try dsimp only); simp
@[simp] theorem enterFault_part (n : LineNo) (cause : FaultCause) (s : State) : (enterFault n cause s).part = s.part := by
  unfold enterFault; (try dsimp only); simp
@[simp] theorem enterFault_policy (n : LineNo) (cause : FaultCause) (s : State) : (enterFault n cause s).policy = s.policy := by
  unfold enterFault; (try dsimp only); simp
@[simp] theorem enterFault_routes (n : LineNo) (cause : FaultCause) (s : State) : (enterFault n cause s).routes = s.routes := by
  unfold enterFault; (try dsimp only); simp

@[simp] theorem lineLost_pending (n : LineNo) (s : State) : (lineLost n s).pending = s.pending := by
  unfold lineLost; (repeat' split) <;> simp
@[simp] theorem lineLost_part (n : LineNo) (s : State) : (lineLost n s).part = s.part := by
  unfold lineLost; (repeat' split) <;> simp
@[simp] theorem lineLost_policy (n : LineNo) (s : State) : (lineLost n s).policy = s.policy := by
  unfold lineLost; (repeat' split) <;> simp
@[simp] theorem lineLost_routes (n : LineNo) (s : State) : (lineLost n s).routes = s.routes := by
  unfold lineLost; (repeat' split) <;> simp

@[simp] theorem refuseCall_pending (n : LineNo) (c : RxCall) (reason : Option RefusedReason) (s : State) : (refuseCall n c reason s).pending = s.pending := by
  unfold refuseCall; (try dsimp only); (repeat' split) <;> simp
@[simp] theorem refuseCall_part (n : LineNo) (c : RxCall) (reason : Option RefusedReason) (s : State) : (refuseCall n c reason s).part = s.part := by
  unfold refuseCall; (try dsimp only); (repeat' split) <;> simp
@[simp] theorem refuseCall_policy (n : LineNo) (c : RxCall) (reason : Option RefusedReason) (s : State) : (refuseCall n c reason s).policy = s.policy := by
  unfold refuseCall; (try dsimp only); (repeat' split) <;> simp
@[simp] theorem refuseCall_routes (n : LineNo) (c : RxCall) (reason : Option RefusedReason) (s : State) : (refuseCall n c reason s).routes = s.routes := by
  unfold refuseCall; (try dsimp only); (repeat' split) <;> simp
@[simp] theorem refuseCall_mem (n : LineNo) (c : RxCall) (reason : Option RefusedReason) (s : State) : (refuseCall n c reason s).mem = s.mem := by
  unfold refuseCall; (try dsimp only); (repeat' split) <;> simp
@[simp] theorem refuseCall_callers (n : LineNo) (c : RxCall) (reason : Option RefusedReason) (s : State) : (refuseCall n c reason s).callers = s.callers := by
  unfold refuseCall; (try dsimp only); (repeat' split) <;> simp
@[simp] theorem refuseCall_collect (n : LineNo) (c : RxCall) (reason : Option RefusedReason) (s : State) : (refuseCall n c reason s).collect = s.collect := by
  unfold refuseCall; (try dsimp only); (repeat' split) <;> simp

@[simp] theorem sendOffer_pending (n : LineNo) (c : RxCall) (s : State) : (sendOffer n c s).pending = s.pending := by
  unfold sendOffer; (try dsimp only); (repeat' split) <;> simp
@[simp] theorem sendOffer_part (n : LineNo) (c : RxCall) (s : State) : (sendOffer n c s).part = s.part := by
  unfold sendOffer; (try dsimp only); (repeat' split) <;> simp
@[simp] theorem sendOffer_policy (n : LineNo) (c : RxCall) (s : State) : (sendOffer n c s).policy = s.policy := by
  unfold sendOffer; (try dsimp only); (repeat' split) <;> simp
@[simp] theorem sendOffer_routes (n : LineNo) (c : RxCall) (s : State) : (sendOffer n c s).routes = s.routes := by
  unfold sendOffer; (try dsimp only); (repeat' split) <;> simp
@[simp] theorem sendOffer_mem (n : LineNo) (c : RxCall) (s : State) : (sendOffer n c s).mem = s.mem := by
  unfold sendOffer; (try dsimp only); (repeat' split) <;> simp
@[simp] theorem sendOffer_collect (n : LineNo) (c : RxCall) (s : State) : (sendOffer n c s).collect = s.collect := by
  unfold sendOffer; (try dsimp only); (repeat' split) <;> simp

@[simp] theorem admission_pending (n : LineNo) (s : State) : (admission n s).pending = s.pending := by
  unfold admission
  split
  · rfl
  · dsimp only
    split
    · simp
    · split
      · simp
      · rename_i t m ht
        have e := takeSlot_pending _ _ ht
        split <;> (rename_i heq; have f := congrArg (fun q => q.1.pending) heq; simp at e f; simp [e, ← f])
@[simp] theorem admission_part (n : LineNo) (s : State) : (admission n s).part = s.part := by
  unfold admission
  split
  · rfl
  · dsimp only
    split
    · simp
    · split
      · simp
      · rename_i t m ht
        have e := takeSlot_part _ _ ht
        split <;> (rename_i heq; have f := congrArg (fun q => q.1.part) heq; simp at e f; simp [e, ← f])
@[simp] theorem admission_policy (n : LineNo) (s : State) : (admission n s).policy = s.policy := by
  unfold admission
  split
  · rfl
  · dsimp only
    split
    · simp
    · split
      · simp
      · rename_i t m ht
        have e := takeSlot_policy _ _ ht
        split <;> (rename_i heq; have f := congrArg (fun q => q.1.policy) heq; simp at e f; simp [e, ← f])
@[simp] theorem admission_routes (n : LineNo) (s : State) : (admission n s).routes = s.routes := by
  unfold admission
  split
  · rfl
  · dsimp only
    split
    · simp
    · split
      · simp
      · rename_i t m ht
        have e := takeSlot_routes _ _ ht
        split <;> (rename_i heq; have f := congrArg (fun q => q.1.routes) heq; simp at e f; simp [e, ← f])
@[simp] theorem admission_mem (n : LineNo) (s : State) : (admission n s).mem = s.mem := by
  unfold admission
  split
  · rfl
  · dsimp only
    split
    · simp
    · split
      · simp
      · rename_i t m ht
        have e := takeSlot_mem _ _ ht
        split <;> (rename_i heq; have f := congrArg (fun q => q.1.mem) heq; simp at e f; simp [e, ← f])
@[simp] theorem admission_collect (n : LineNo) (s : State) : (admission n s).collect = s.collect := by
  unfold admission
  split
  · rfl
  · dsimp only
    split
    · simp
    · split
      · simp
      · rename_i t m ht
        have e := takeSlot_collect _ _ ht
        split <;> (rename_i heq; have f := congrArg (fun q => q.1.collect) heq; simp at e f; simp [e, ← f])

@[simp] theorem testAdmission_pending (n : LineNo) (s : State) : (testAdmission n s).pending = s.pending := by
  unfold testAdmission; (repeat' split) <;> simp
@[simp] theorem testAdmission_part (n : LineNo) (s : State) : (testAdmission n s).part = s.part := by
  unfold testAdmission; (repeat' split) <;> simp
@[simp] theorem testAdmission_policy (n : LineNo) (s : State) : (testAdmission n s).policy = s.policy := by
  unfold testAdmission; (repeat' split) <;> simp
@[simp] theorem testAdmission_routes (n : LineNo) (s : State) : (testAdmission n s).routes = s.routes := by
  unfold testAdmission; (repeat' split) <;> simp
@[simp] theorem testAdmission_mem (n : LineNo) (s : State) : (testAdmission n s).mem = s.mem := by
  unfold testAdmission; (repeat' split) <;> simp
@[simp] theorem testAdmission_collect (n : LineNo) (s : State) : (testAdmission n s).collect = s.collect := by
  unfold testAdmission; (repeat' split) <;> simp

@[simp] theorem sendNext_pending (n : LineNo) (s : State) : (sendNext n s).pending = s.pending := by
  unfold sendNext
  (repeat' split) <;> (try simp) <;>
    (rename_i heq; have e := congrArg (fun q => q.1.pending) heq; simpa using e.symm)
@[simp] theorem sendNext_part (n : LineNo) (s : State) : (sendNext n s).part = s.part := by
  unfold sendNext
  (repeat' split) <;> (try simp) <;>
    (rename_i heq; have e := congrArg (fun q => q.1.part) heq; simpa using e.symm)
@[simp] theorem sendNext_policy (n : LineNo) (s : State) : (sendNext n s).policy = s.policy := by
  unfold sendNext
  (repeat' split) <;> (try simp) <;>
    (rename_i heq; have e := congrArg (fun q => q.1.policy) heq; simpa using e.symm)
@[simp] theorem sendNext_routes (n : LineNo) (s : State) : (sendNext n s).routes = s.routes := by
  unfold sendNext
  (repeat' split) <;> (try simp) <;>
    (rename_i heq; have e := congrArg (fun q => q.1.routes) heq; simpa using e.symm)
@[simp] theorem sendNext_mem (n : LineNo) (s : State) : (sendNext n s).mem = s.mem := by
  unfold sendNext
  (repeat' split) <;> (try simp) <;>
    (rename_i heq; have e := congrArg (fun q => q.1.mem) heq; simpa using e.symm)
@[simp] theorem sendNext_collect (n : LineNo) (s : State) : (sendNext n s).collect = s.collect := by
  unfold sendNext
  (repeat' split) <;> (try simp) <;>
    (rename_i heq; have e := congrArg (fun q => q.1.collect) heq; simpa using e.symm)

@[simp] theorem beginPage_pending (n : LineNo) (s : State) : (beginPage n s).pending = s.pending := by
  unfold beginPage; (try dsimp only); (repeat' split) <;> simp
@[simp] theorem beginPage_part (n : LineNo) (s : State) : (beginPage n s).part = s.part := by
  unfold beginPage; (try dsimp only); (repeat' split) <;> simp
@[simp] theorem beginPage_policy (n : LineNo) (s : State) : (beginPage n s).policy = s.policy := by
  unfold beginPage; (try dsimp only); (repeat' split) <;> simp
@[simp] theorem beginPage_routes (n : LineNo) (s : State) : (beginPage n s).routes = s.routes := by
  unfold beginPage; (try dsimp only); (repeat' split) <;> simp
@[simp] theorem beginPage_mem (n : LineNo) (s : State) : (beginPage n s).mem = s.mem := by
  unfold beginPage; (try dsimp only); (repeat' split) <;> simp
@[simp] theorem beginPage_collect (n : LineNo) (s : State) : (beginPage n s).collect = s.collect := by
  unfold beginPage; (try dsimp only); (repeat' split) <;> simp

@[simp] theorem trainAt_pending (n : LineNo) (step : Nat) (res : Resolution) (s : State) : (trainAt n step res s).pending = s.pending := by
  unfold trainAt; (try dsimp only); simp
@[simp] theorem trainAt_part (n : LineNo) (step : Nat) (res : Resolution) (s : State) : (trainAt n step res s).part = s.part := by
  unfold trainAt; (try dsimp only); simp
@[simp] theorem trainAt_policy (n : LineNo) (step : Nat) (res : Resolution) (s : State) : (trainAt n step res s).policy = s.policy := by
  unfold trainAt; (try dsimp only); simp
@[simp] theorem trainAt_routes (n : LineNo) (step : Nat) (res : Resolution) (s : State) : (trainAt n step res s).routes = s.routes := by
  unfold trainAt; (try dsimp only); simp
@[simp] theorem trainAt_mem (n : LineNo) (step : Nat) (res : Resolution) (s : State) : (trainAt n step res s).mem = s.mem := by
  unfold trainAt; (try dsimp only); simp
@[simp] theorem trainAt_callers (n : LineNo) (step : Nat) (res : Resolution) (s : State) : (trainAt n step res s).callers = s.callers := by
  unfold trainAt; (try dsimp only); simp
@[simp] theorem trainAt_collect (n : LineNo) (step : Nat) (res : Resolution) (s : State) : (trainAt n step res s).collect = s.collect := by
  unfold trainAt; (try dsimp only); simp

theorem expireWait_pending (n : LineNo) (k : WaitKind) (s t : State) (h : expireWait n k s = some t) : t.pending = s.pending := by
  unfold expireWait at h; simp at h
  obtain ⟨w, _, rfl⟩ := h; simp
theorem expireWait_part (n : LineNo) (k : WaitKind) (s t : State) (h : expireWait n k s = some t) : t.part = s.part := by
  unfold expireWait at h; simp at h
  obtain ⟨w, _, rfl⟩ := h; simp
theorem expireWait_policy (n : LineNo) (k : WaitKind) (s t : State) (h : expireWait n k s = some t) : t.policy = s.policy := by
  unfold expireWait at h; simp at h
  obtain ⟨w, _, rfl⟩ := h; simp
theorem expireWait_routes (n : LineNo) (k : WaitKind) (s t : State) (h : expireWait n k s = some t) : t.routes = s.routes := by
  unfold expireWait at h; simp at h
  obtain ⟨w, _, rfl⟩ := h; simp
theorem expireWait_mem (n : LineNo) (k : WaitKind) (s t : State) (h : expireWait n k s = some t) : t.mem = s.mem := by
  unfold expireWait at h; simp at h
  obtain ⟨w, _, rfl⟩ := h; simp
theorem expireWait_callers (n : LineNo) (k : WaitKind) (s t : State) (h : expireWait n k s = some t) : t.callers = s.callers := by
  unfold expireWait at h; simp at h
  obtain ⟨w, _, rfl⟩ := h; simp
theorem expireWait_collect (n : LineNo) (k : WaitKind) (s t : State) (h : expireWait n k s = some t) : t.collect = s.collect := by
  unfold expireWait at h; simp at h
  obtain ⟨w, _, rfl⟩ := h; simp

@[simp] theorem completeFrame_pending (f : Frame) (s : State) : (completeFrame f s).pending = s.pending := by
  unfold completeFrame; (try dsimp only); (repeat' split) <;> simp
@[simp] theorem completeFrame_policy (f : Frame) (s : State) : (completeFrame f s).policy = s.policy := by
  unfold completeFrame; (try dsimp only); (repeat' split) <;> simp
@[simp] theorem completeFrame_routes (f : Frame) (s : State) : (completeFrame f s).routes = s.routes := by
  unfold completeFrame; (try dsimp only); (repeat' split) <;> simp
@[simp] theorem completeFrame_mem (f : Frame) (s : State) : (completeFrame f s).mem = s.mem := by
  unfold completeFrame; (try dsimp only); (repeat' split) <;> simp
@[simp] theorem completeFrame_lines (f : Frame) (s : State) : (completeFrame f s).lines = s.lines := by
  unfold completeFrame; (try dsimp only); (repeat' split) <;> simp
@[simp] theorem completeFrame_callers (f : Frame) (s : State) : (completeFrame f s).callers = s.callers := by
  unfold completeFrame; (try dsimp only); (repeat' split) <;> simp
@[simp] theorem completeFrame_collect (f : Frame) (s : State) : (completeFrame f s).collect = s.collect := by
  unfold completeFrame; (try dsimp only); (repeat' split) <;> simp

@[simp] theorem scan_pending (fuel : Nat) (buf : List Byte) (s : State) : (scan fuel buf s).pending = s.pending := by
  induction fuel generalizing buf s with
  | zero => rfl
  | succ k ih => unfold scan; (repeat' split) <;> (try dsimp only) <;> (repeat' split) <;> simp_all
@[simp] theorem scan_policy (fuel : Nat) (buf : List Byte) (s : State) : (scan fuel buf s).policy = s.policy := by
  induction fuel generalizing buf s with
  | zero => rfl
  | succ k ih => unfold scan; (repeat' split) <;> (try dsimp only) <;> (repeat' split) <;> simp_all
@[simp] theorem scan_routes (fuel : Nat) (buf : List Byte) (s : State) : (scan fuel buf s).routes = s.routes := by
  induction fuel generalizing buf s with
  | zero => rfl
  | succ k ih => unfold scan; (repeat' split) <;> (try dsimp only) <;> (repeat' split) <;> simp_all
@[simp] theorem scan_mem (fuel : Nat) (buf : List Byte) (s : State) : (scan fuel buf s).mem = s.mem := by
  induction fuel generalizing buf s with
  | zero => rfl
  | succ k ih => unfold scan; (repeat' split) <;> (try dsimp only) <;> (repeat' split) <;> simp_all
@[simp] theorem scan_lines (fuel : Nat) (buf : List Byte) (s : State) : (scan fuel buf s).lines = s.lines := by
  induction fuel generalizing buf s with
  | zero => rfl
  | succ k ih => unfold scan; (repeat' split) <;> (try dsimp only) <;> (repeat' split) <;> simp_all
@[simp] theorem scan_callers (fuel : Nat) (buf : List Byte) (s : State) : (scan fuel buf s).callers = s.callers := by
  induction fuel generalizing buf s with
  | zero => rfl
  | succ k ih => unfold scan; (repeat' split) <;> (try dsimp only) <;> (repeat' split) <;> simp_all
@[simp] theorem scan_collect (fuel : Nat) (buf : List Byte) (s : State) : (scan fuel buf s).collect = s.collect := by
  induction fuel generalizing buf s with
  | zero => rfl
  | succ k ih => unfold scan; (repeat' split) <;> (try dsimp only) <;> (repeat' split) <;> simp_all

@[simp] theorem prepareFrame_pending (fuel : Nat) (s : State) : (prepareFrame fuel s).pending = s.pending := by
  induction fuel generalizing s with
  | zero => rfl
  | succ k ih => unfold prepareFrame; (try dsimp only); (repeat' split) <;> (try simp_all) <;>
      (first
      | (rename_i heq; have e := congrArg (fun q : State × Option (List Byte) => q.1.pending) heq; simpa using e.symm)
      | (rename_i heq _; have e := congrArg (fun q : State × Option (List Byte) => q.1.pending) heq; simpa using e.symm))
@[simp] theorem prepareFrame_part (fuel : Nat) (s : State) : (prepareFrame fuel s).part = s.part := by
  induction fuel generalizing s with
  | zero => rfl
  | succ k ih => unfold prepareFrame; (try dsimp only); (repeat' split) <;> (try simp_all) <;>
      (first
      | (rename_i heq; have e := congrArg (fun q : State × Option (List Byte) => q.1.part) heq; simpa using e.symm)
      | (rename_i heq _; have e := congrArg (fun q : State × Option (List Byte) => q.1.part) heq; simpa using e.symm))
@[simp] theorem prepareFrame_policy (fuel : Nat) (s : State) : (prepareFrame fuel s).policy = s.policy := by
  induction fuel generalizing s with
  | zero => rfl
  | succ k ih => unfold prepareFrame; (try dsimp only); (repeat' split) <;> (try simp_all) <;>
      (first
      | (rename_i heq; have e := congrArg (fun q : State × Option (List Byte) => q.1.policy) heq; simpa using e.symm)
      | (rename_i heq _; have e := congrArg (fun q : State × Option (List Byte) => q.1.policy) heq; simpa using e.symm))
@[simp] theorem prepareFrame_routes (fuel : Nat) (s : State) : (prepareFrame fuel s).routes = s.routes := by
  induction fuel generalizing s with
  | zero => rfl
  | succ k ih => unfold prepareFrame; (try dsimp only); (repeat' split) <;> (try simp_all) <;>
      (first
      | (rename_i heq; have e := congrArg (fun q : State × Option (List Byte) => q.1.routes) heq; simpa using e.symm)
      | (rename_i heq _; have e := congrArg (fun q : State × Option (List Byte) => q.1.routes) heq; simpa using e.symm))
@[simp] theorem prepareFrame_mem (fuel : Nat) (s : State) : (prepareFrame fuel s).mem = s.mem := by
  induction fuel generalizing s with
  | zero => rfl
  | succ k ih => unfold prepareFrame; (try dsimp only); (repeat' split) <;> (try simp_all) <;>
      (first
      | (rename_i heq; have e := congrArg (fun q : State × Option (List Byte) => q.1.mem) heq; simpa using e.symm)
      | (rename_i heq _; have e := congrArg (fun q : State × Option (List Byte) => q.1.mem) heq; simpa using e.symm))
@[simp] theorem prepareFrame_lines (fuel : Nat) (s : State) : (prepareFrame fuel s).lines = s.lines := by
  induction fuel generalizing s with
  | zero => rfl
  | succ k ih => unfold prepareFrame; (try dsimp only); (repeat' split) <;> (try simp_all) <;>
      (first
      | (rename_i heq; have e := congrArg (fun q : State × Option (List Byte) => q.1.lines) heq; simpa using e.symm)
      | (rename_i heq _; have e := congrArg (fun q : State × Option (List Byte) => q.1.lines) heq; simpa using e.symm))
@[simp] theorem prepareFrame_callers (fuel : Nat) (s : State) : (prepareFrame fuel s).callers = s.callers := by
  induction fuel generalizing s with
  | zero => rfl
  | succ k ih => unfold prepareFrame; (try dsimp only); (repeat' split) <;> (try simp_all) <;>
      (first
      | (rename_i heq; have e := congrArg (fun q : State × Option (List Byte) => q.1.callers) heq; simpa using e.symm)
      | (rename_i heq _; have e := congrArg (fun q : State × Option (List Byte) => q.1.callers) heq; simpa using e.symm))

@[simp] theorem prepareNext_pending (s : State) : (prepareNext s).pending = s.pending := by
  unfold prepareNext; (repeat' split) <;> simp
@[simp] theorem prepareNext_part (s : State) : (prepareNext s).part = s.part := by
  unfold prepareNext; (repeat' split) <;> simp
@[simp] theorem prepareNext_policy (s : State) : (prepareNext s).policy = s.policy := by
  unfold prepareNext; (repeat' split) <;> simp
@[simp] theorem prepareNext_routes (s : State) : (prepareNext s).routes = s.routes := by
  unfold prepareNext; (repeat' split) <;> simp
@[simp] theorem prepareNext_mem (s : State) : (prepareNext s).mem = s.mem := by
  unfold prepareNext; (repeat' split) <;> simp
@[simp] theorem prepareNext_lines (s : State) : (prepareNext s).lines = s.lines := by
  unfold prepareNext; (repeat' split) <;> simp
@[simp] theorem prepareNext_callers (s : State) : (prepareNext s).callers = s.callers := by
  unfold prepareNext; (repeat' split) <;> simp

end Sys2Proof.Machine
end

