-- ==== Sys2Proof/Laws/Specs.lean ====
section
/-! SUPPORT. Laws/Specs.lean: for the shared operations, one lemma each that says once what they do, in the words of Safety.lean. -/

namespace Sys2Proof.Machine

open Sys2Proof

/-! ## Requests -/

/-- A request that carries arguments and is handed to its owner acts as its owner's operation, on the state its frame has left (R210). -/
theorem takeRequest_of_takes {s : State} {r : Envelope} (h : Takes s r) (k : ReqKind) (own : State → State) (hk : bareKind k = false := by rfl) :
    takeRequest r k own s = own (takeFrame r.tag s) := by
  obtain ⟨h1, h2, h3, h4, h5⟩ := h
  have : takesRequests r.tag s = true := by simp [takesRequests, h1, h2, h4]
  simp [takeRequest, this, lengthFits, hk, h3, h5, takeFrame, h1]

/-- The same of a request that carries no argument. -/
theorem takeRequest_of_takesBare {s : State} {r : Envelope} (h : TakesBare s r) (k : ReqKind) (own : State → State)
    (hk : bareKind k = true := by rfl) : takeRequest r k own s = own (takeFrame r.tag s) := by
  obtain ⟨h1, h2, h4, h5⟩ := h
  have : takesRequests r.tag s = true := by simp [takesRequests, h1, h2, h4]
  simp [takeRequest, this, lengthFits, hk, h5, takeFrame, h1]

/-! ## Marks -/

theorem Marked.none {s t : State} (h : t.link.notices = s.link.notices) : Marked s t (fun _ => False) := by
  simp [Marked, h]

theorem Marked.trans {s t u : State} {P Q : Subject → Prop} (h1 : Marked s t P) (h2 : Marked t u Q)
    (hc : t.link.classes = s.link.classes) : Marked s u (fun x => P x ∨ Q x) := by
  refine ⟨h1.1.trans h2.1, fun x => ?_⟩
  rw [h2.2, h1.2, hc]; tauto

theorem Marked.congr {s t : State} {P Q : Subject → Prop} (h : Marked s t P) (e : ∀ x, P x ↔ Q x) : Marked s t Q :=
  ⟨h.1, fun x => by rw [h.2, e]⟩

/-- Marks look only at the notice set and the classes. -/
theorem Marked.of_link {s t s' t' : State} {P : Subject → Prop} (h : Marked s t P) (hs : s'.link.notices = s.link.notices)
    (ht : t'.link.notices = t.link.notices) (hc : s'.link.classes = s.link.classes) : Marked s' t' P := by
  unfold Marked at *; rw [hs, ht, hc]; exact h

/-- Marking one subject (R215). -/
theorem mark_marked (x : Subject) (s : State) : Marked s (mark x s) (fun y => y = x) := by
  unfold Marked mark
  cases h : s.link.classes.enables x <;> cases h2 : s.link.notices.contains x <;> simp_all
  · intro y hy e; subst e; simp_all
  · intro y
    refine or_congr Iff.rfl ⟨?_, fun k => k.2⟩
    rintro rfl; exact ⟨h, rfl⟩

/-! ## The pressure state -/

/-- An evaluation of the pressure state writes that state and the notice set only (R21). -/
theorem evalPressure_frame (s : State) : evalPressure s =
    { s with store.pressure := (evalPressure s).store.pressure, link.notices := (evalPressure s).link.notices } := by
  unfold evalPressure; dsimp only; repeat' split
  all_goals simp [mark]

/-- What an evaluation leaves (R21). -/
theorem evalPressure_pressure (s : State) : (evalPressure s).store.pressure = pressureAfter s.store.pressure s := by
  unfold evalPressure pressureAfter; dsimp only
  cases hp : s.store.pressure <;> simp <;> split <;> simp_all

/-- An evaluation marks STORE exactly when the state changes (R21). -/
theorem evalPressure_marked (s : State) :
    Marked s (evalPressure s) (fun x => x = .store ∧ (evalPressure s).store.pressure ≠ s.store.pressure) := by
  unfold evalPressure; dsimp only
  split
  · rename_i h; refine (Marked.of_link (mark_marked .store _) rfl rfl rfl).congr (fun x => ?_)
    simp at h; simp [mark, h]
  · split
    · rename_i h; refine (Marked.of_link (mark_marked .store _) rfl rfl rfl).congr (fun x => ?_)
      simp at h; simp [mark, h]
    · exact (Marked.none rfl).congr (by simp)

/-! ## The journal -/

/-- Writing an entry (R168, R172, R173): the journal, and the notice set when high water is reached. -/
theorem writeEntry_eq (content : JournalContent) (s : State) : writeEntry content s =
    (fun t : State => if s.journal.unreleased = 8127 then mark .journal t else t)
      { s with journal := s.journal.written content s.clock.cal s.clock.trusted } := by
  have key : ∀ t : State, t.journal.unreleased = s.journal.unreleased + 1 →
      ((!atHighWater s && atHighWater t) = true ↔ s.journal.unreleased = 8127) := by
    intro t ht
    have e (u : State) : atHighWater u = decide (8128 ≤ u.journal.unreleased) := rfl
    rw [e, e, ht, Bool.and_eq_true, Bool.not_eq_true', decide_eq_false_iff_not, decide_eq_true_iff]
    omega
  unfold writeEntry
  by_cases h : s.journal.unreleased = 8127
  · dsimp only; rw [if_pos ((key _ rfl).2 h), if_pos h]
    simp only [Journal.written, List.drop_one]; rfl
  · dsimp only; rw [if_neg (fun k => h ((key _ rfl).1 k)), if_neg h]
    simp only [Journal.written, List.drop_one]; rfl

/-- An append as one of two cases (R173). -/
theorem append_cases (content : JournalContent) (s : State) :
    (s.journal.unreleased < 8192 ∧ append content s = (writeEntry content s, some s.journal.nextSeq)) ∨
    (8192 ≤ s.journal.unreleased ∧ append content s = (mark .journal { s with journal.overrun := true }, none)) := by
  unfold append
  by_cases h : s.journal.unreleased < ringPlaces
  · rw [if_pos h]; exact Or.inl ⟨h, rfl⟩
  · rw [if_neg h]; exact Or.inr ⟨Nat.not_lt.1 h, rfl⟩

/-- An append writes its entry, or drops it with the overrun indicator set (R173); nothing but the journal and the notice set changes. -/
theorem append_frame (content : JournalContent) (s : State) : (append content s).1 =
    { s with
      journal := s.journal.offered content s.clock.cal s.clock.trusted
      link.notices := (append content s).1.link.notices } := by
  obtain ⟨h, e⟩ | ⟨h, e⟩ := append_cases content s
  · rw [e]; simp only [writeEntry_eq, Journal.offered, if_pos h]; split <;> rfl
  · rw [e]; simp only [Journal.offered, if_neg (Nat.not_lt.2 h)]; rfl

/-- The sequence number an append answers (R173). -/
theorem append_seq (content : JournalContent) (s : State) :
    (append content s).2 = if s.journal.unreleased < 8192 then some s.journal.nextSeq else none := by
  obtain ⟨h, e⟩ | ⟨h, e⟩ := append_cases content s
  · rw [e, if_pos h]
  · rw [e, if_neg (Nat.not_lt.2 h)]

/-- What an append marks (R179, R181). -/
theorem append_marked (content : JournalContent) (s : State) : Marked s (append content s).1
    (fun x => x = .journal ∧ (s.journal.unreleased = 8127 ∨ 8192 ≤ s.journal.unreleased)) := by
  obtain ⟨h, e⟩ | ⟨h, e⟩ := append_cases content s
  · rw [e]; simp only [writeEntry_eq]
    split
    · rename_i k
      exact (Marked.of_link (mark_marked .journal _) rfl rfl rfl).congr (fun x => by simp [k])
    · rename_i k
      exact (Marked.none rfl).congr (fun x => by simp [k]; omega)
  · rw [e]
    exact (Marked.of_link (mark_marked .journal _) rfl rfl rfl).congr (fun x => by simp; omega)

/-! ## Reads of the store -/

theorem errorGroups_clean (b : Block) (g k : Nat) : errorGroups [] b g k = [] := by
  induction k generalizing g with
  | zero => rfl
  | succ k ih => simp [errorGroups, groupError, wrongBits, ih]

theorem readBytes_length (mem : List Host.Cell) (a n : Nat) : (readBytes mem a n).length = n := by
  induction n generalizing a with
  | zero => rfl
  | succ n ih => simp [readBytes, ih]

theorem readBytes_get (mem : List Host.Cell) (a n i : Nat) (h : i < n) : (readBytes mem a n)[i]? = some (readByte mem (a + i)) := by
  induction n generalizing a i with
  | zero => omega
  | succ n ih =>
    cases i with
    | zero => rfl
    | succ i => simp only [readBytes, List.getElem?_cons_succ]; rw [ih _ _ (by omega)]; congr 2; omega

/-- With no bit error in the DRAM a read gives the bytes of its span and does nothing else (R191, R192). -/
theorem readSpan_clean (reader : Reader) (doc : Nat) (pg : Page) (off size : Nat) (s : State) (h : s.dram.faults = []) :
    readSpan reader doc pg off size s =
      (s, some (match pg.blocks[off / 8192]? with
        | none => []
        | some b => readBytes s.mem (b.val * 8192 + off % 8192) (min size (pg.length - off)))) := by
  unfold readSpan
  simp only [blockBytes]
  cases hb : pg.blocks[off / 8192]? with
  | none => rfl
  | some b => simp [h, errorGroups_clean, blockBase, blockBytes]

/-! ## Lines -/

/-- A change of one line touches the lines alone, and no other line. -/
theorem modLine_only (n : LineNo) (f : Line → Line) (s : State) :
    modLine n f s = { s with lines := (modLine n f s).lines } ∧ OtherLines s (modLine n f s) n :=
  ⟨rfl, fun _ h => lineAt_modLine_ne h f s⟩

theorem modLine_modLine (n : LineNo) (f g : Line → Line) (s : State) : modLine n f (modLine n g s) = modLine n (fun l => f (g l)) s := by
  simp [modLine]

/-- RELEASE or REJECT as a change of the line (R92). -/
theorem releaseWith_eq (n : LineNo) (c : PortCommand) (s : State) :
    releaseWith n c s = modLine n (fun l => l.releases s.clock.run c) s := by
  simp [releaseWith, startWait, setWait, setChan, sendCmd, modLine_modLine, Line.releases, Line.sends, signalWaitMs, ackLimitMs]

/-- A command as a change of the line (R72). -/
theorem sendCmd_eq (n : LineNo) (c : PortCommand) (s : State) : sendCmd n c s = modLine n (fun l => l.sends s.clock.run c) s := rfl

/-- The line after its return to IDLE (R71, R92). -/
theorem returnToIdle_line (n : LineNo) (s : State) : lineAt (returnToIdle n s) n = (lineAt s n).idles s.clock.run := by
  simp only [returnToIdle, applyPending, reportRun, lineAt_modLine_self]
  unfold Line.idles
  cases hp : (lineAt s n).pendingService with
  | none => simp [lineAt, oweRun, report, modLine, show s.lines[n.val].pendingService = none from hp]
  | some p =>
    cases p <;>
      simp [lineAt, oweRun, report, sendCmd, modLine, mark, presentOf, Line.sends, ackLimitMs]

end Sys2Proof.Machine
end

