-- ==== Sys2Proof/Laws/Documents.lean ====
section
/-! SUPPORT. Laws/Documents.lean: what the shared operations on documents, blocks and ready queues do, in the words of Safety.lean. -/

namespace Sys2Proof.Machine

open Sys2Proof

/-! ## Records -/

theorem findDoc_number {s : State} {n : Nat} {d : Document} (h : findDoc s n = some d) : d.number = n := by
  have := List.find?_some h; simpa using this

/-- A record after a change of one, when the change keeps its number. -/
theorem findDoc_modDoc (n m : Nat) (f : Document → Document) (hf : ∀ d, (f d).number = d.number) (s : State) :
    findDoc (modDoc n f s) m = if m = n then (findDoc s m).map f else findDoc s m := by
  unfold findDoc modDoc
  dsimp only
  induction s.dir.docs with
  | nil => simp
  | cons x xs ih =>
    simp only [List.map_cons, List.find?_cons]
    by_cases hx : x.number = n
    · by_cases hm : m = n
      · subst hm; simp [hx, hf]
      · have : ¬ n = m := fun e => hm e.symm
        simp [hx, hf, this, hm] at ih ⊢; exact ih
    · by_cases hm : m = n
      · subst hm; simp [hx] at ih ⊢; exact ih
      · simp only [if_neg hx]
        by_cases hxm : x.number = m
        · simp [hxm, hm]
        · simp [hxm, hm] at ih ⊢; exact ih

/-- The changed record itself. -/
theorem findDoc_modDoc_self {n : Nat} {f : Document → Document} {s : State} {d : Document} (h : findDoc s n = some d)
    (hf : ∀ d, (f d).number = d.number) : findDoc (modDoc n f s) n = some (f d) := by
  rw [findDoc_modDoc n n f hf, if_pos rfl, h]; rfl

/-- A change of one record leaves the others (when it keeps its number). -/
theorem modDoc_others (n : Nat) (f : Document → Document) (hf : ∀ d, (f d).number = d.number) (s : State) :
    OtherDocs s (modDoc n f s) n := by
  refine ⟨fun m hm => by rw [findDoc_modDoc n m f hf]; simp [hm], ?_⟩
  simp only [modDoc, List.map_map]
  apply List.map_congr_left
  intro d _; simp only [Function.comp]; split <;> simp [hf]

/-- A record after one has been dropped. -/
theorem findDoc_dropped (n m : Nat) (s : State) (ds : List Document)
    (h : ds = s.dir.docs.filter (fun e => decide (e.number ≠ n))) :
    ds.find? (fun d => decide (d.number = m)) = if m = n then none else findDoc s m := by
  subst h; unfold findDoc
  rw [List.find?_filter]
  by_cases hm : m = n
  · subst hm; rw [if_pos rfl]; rw [List.find?_eq_none]; intro x _; simp
  · rw [if_neg hm]; congr 1; funext x
    by_cases hx : x.number = m <;> simp [hx, hm]

/-! ## Blocks given back -/

/-- What the retirement check touches (R197, R198, R199). -/
theorem retireCheck_frame (b : Block) (s : State) : retireCheck b s =
    { s with
      store := { s.store with
        free := (retireCheck b s).store.free, spares := (retireCheck b s).store.spares, retired := (retireCheck b s).store.retired }
      integrity := { s.integrity with exhausted := (retireCheck b s).integrity.exhausted }
      link := { s.link with notices := (retireCheck b s).link.notices } } := by
  unfold retireCheck
  split
  · rfl
  · rfl
  · dsimp only; split <;> rfl

/-- A block joins the free list, and spares and retired blocks only change places (R6, R197). -/
theorem retireCheck_lists (b : Block) (s : State) :
    (∃ x, (retireCheck b s).store.free = s.store.free ++ [x]) ∧ (retireCheck b s).store.spares <:+ s.store.spares ∧
    s.store.retired <+: (retireCheck b s).store.retired ∧
    (retireCheck b s).store.spares.length + (retireCheck b s).store.retired.length = s.store.spares.length + s.store.retired.length := by
  unfold retireCheck
  split
  · exact ⟨⟨b, rfl⟩, List.suffix_refl _, List.prefix_refl _, rfl⟩
  · rename_i sp rest h _
    refine ⟨⟨sp, rfl⟩, ?_, ⟨[b], rfl⟩, ?_⟩
    · simp [h]
    · simp [h]; omega
  · refine ⟨⟨b, ?_⟩, ?_, ?_, ?_⟩ <;> (dsimp only; split) <;> simp

/-- What giving one block back touches. -/
theorem freeBlock_frame (d : Dept) (b : Block) (s : State) : ∃ fr sp rt ac ex nt, freeBlock d s b =
    { s with
      store := { s.store with free := fr, spares := sp, retired := rt, accounts := ac }
      integrity := { s.integrity with exhausted := ex }
      link := { s.link with notices := nt } } := by
  refine ⟨(retireCheck b s).store.free, (retireCheck b s).store.spares, (retireCheck b s).store.retired,
    (freeBlock d s b).store.accounts, (retireCheck b s).integrity.exhausted, (retireCheck b s).link.notices, ?_⟩
  unfold freeBlock
  rw [retireCheck_frame]
  rfl

/-- What giving a page's blocks back touches. -/
theorem freeBlocks_frame (d : Dept) (bs : List Block) (s : State) : freeBlocks d bs s =
    { s with
      store := { s.store with
        free := (freeBlocks d bs s).store.free, spares := (freeBlocks d bs s).store.spares
        retired := (freeBlocks d bs s).store.retired, accounts := (freeBlocks d bs s).store.accounts }
      integrity := { s.integrity with exhausted := (freeBlocks d bs s).integrity.exhausted }
      link := { s.link with notices := (freeBlocks d bs s).link.notices } } := by
  unfold freeBlocks
  induction bs generalizing s with
  | nil => rfl
  | cons b bs ih =>
    rw [List.foldl_cons, ih]
    generalize List.foldl (freeBlock d) (freeBlock d s b) bs = t
    obtain ⟨fr, sp, rt, ac, ex, nt, e⟩ := freeBlock_frame d b s
    rw [e]

/-- What giving a page's blocks back does (R6): one use less for each block, and one free block more. -/
theorem freeBlocks_spec (d : Dept) (bs : List Block) (s : State) :
    acct (freeBlocks d bs s) d = { acct s d with used := (acct s d).used - bs.length } ∧
    (∀ e : Dept, e ≠ d → acct (freeBlocks d bs s) e = acct s e) ∧
    (freeBlocks d bs s).store.free.length = s.store.free.length + bs.length ∧ s.store.free <+: (freeBlocks d bs s).store.free ∧
    (freeBlocks d bs s).store.spares <:+ s.store.spares ∧ s.store.retired <+: (freeBlocks d bs s).store.retired ∧
    (freeBlocks d bs s).store.spares.length + (freeBlocks d bs s).store.retired.length =
      s.store.spares.length + s.store.retired.length := by
  unfold freeBlocks
  induction bs generalizing s with
  | nil => simp
  | cons b bs ih =>
    rw [List.foldl_cons]
    obtain ⟨h1, h2, h3, h4, h5, h6, h7⟩ := ih (freeBlock d s b)
    obtain ⟨⟨x, r1⟩, r2, r3, r4⟩ := retireCheck_lists b s
    have ra : ∀ e, acct (retireCheck b s) e = acct s e := by
      intro e; rw [retireCheck_frame]; rfl
    have fa : ∀ e, acct (freeBlock d s b) e = if e = d then { acct s d with used := (acct s d).used - 1 } else acct s e := by
      intro e; simp only [freeBlock, acct_setAcct, ra]
    have f1 : (freeBlock d s b).store.free = s.store.free ++ [x] := r1
    have f2 : (freeBlock d s b).store.spares = (retireCheck b s).store.spares := rfl
    have f3 : (freeBlock d s b).store.retired = (retireCheck b s).store.retired := rfl
    refine ⟨?_, ?_, ?_, ?_, ?_, ?_, ?_⟩
    · rw [h1, fa, if_pos rfl]; simp; omega
    · intro e he; rw [h2 e he, fa, if_neg he]
    · rw [h3, f1]; simp; omega
    · exact (List.prefix_append _ _).trans (f1 ▸ h4)
    · exact (f2 ▸ h5).trans r2
    · exact r3.trans (f3 ▸ h6)
    · rw [h7, f2, f3, r4]

/-! ## Ready queues -/

/-- An URGENT document's place: behind the last URGENT one, or at the head (R39). -/
theorem insertUrgent_place (urgent : Nat → Bool) (n : Nat) (q : List Nat) : ∃ front back, q = front ++ back ∧
    insertUrgent urgent n q = front ++ n :: back ∧ (∀ x, front.getLast? = some x → urgent x = true) ∧ ∀ x ∈ back, urgent x = false := by
  induction q with
  | nil => exact ⟨[], [], rfl, rfl, by simp, by simp⟩
  | cons y ys ih =>
    obtain ⟨front, back, e1, e2, h1, h2⟩ := ih
    unfold insertUrgent
    split
    · rename_i hu
      refine ⟨y :: front, back, by simp [e1], by simp [e2], ?_, h2⟩
      intro x hx
      cases front with
      | nil =>
        simp at hx; subst hx
        simp only [List.any_cons, Bool.or_eq_true, List.any_eq_true] at hu
        rcases hu with hu | ⟨z, hz, hu⟩
        · exact hu
        · simp at e1; subst e1; rw [h2 z hz] at hu; exact absurd hu (by simp)
      | cons a as => rw [List.getLast?_cons_cons] at hx; exact h1 x hx
    · rename_i hu
      refine ⟨[], y :: ys, rfl, rfl, by simp, ?_⟩
      intro x hx
      by_contra hc
      apply hu
      exact List.any_eq_true.2 ⟨x, hx, by simpa using hc⟩

end Sys2Proof.Machine
end

