-- ==== Sys2Proof/Laws/Calls.lean ====
section
/-! SUPPORT. Laws/Calls.lean: what purges and the ends of documents, calls and verifications do, each shared operation once,
in the words of Safety.lean. -/

namespace Sys2Proof.Machine

open Sys2Proof

/-! ## Numbers and records of calls -/

theorem satSucc_counter (n : Nat) : satSucc counterTop n = min 65535 (n + 1) := by
  have : counterTop = 65535 := rfl
  unfold satSucc; rw [this]; split <;> omega

theorem takesEvents_of_hears {s : State} {n : LineNo} (h : Hears s n) : takesEvents s n = true := by
  obtain ⟨h1 | h1, h2, h3⟩ := h <;> simp [takesEvents, isOpen, h1, h2, h3]

theorem txOf_sender {l : Line} {w : Option Wait} {u : TxCall} (h : l.call = some ⟨w, .sender u⟩) : txOf l = some u := by simp [txOf, h]
theorem rxOf_sender {l : Line} {w : Option Wait} {u : TxCall} (h : l.call = some ⟨w, .sender u⟩) : rxOf l = none := by simp [rxOf, h]
theorem rxOf_receiver {l : Line} {w : Option Wait} {c : RxCall} (h : l.call = some ⟨w, .receiver c⟩) : rxOf l = some c := by simp [rxOf, h]
theorem txOf_receiver {l : Line} {w : Option Wait} {c : RxCall} (h : l.call = some ⟨w, .receiver c⟩) : txOf l = none := by simp [txOf, h]

/-! ## The end of an attempt -/

/-- An attempt that ends (R135), with or without RELEASE: outcome and classification are handed and the line's subject marked. -/
theorem endAttempt_spec {s : State} {n : LineNo} {w : Option Wait} {u : TxCall} (h : (lineAt s n).call = some ⟨w, .sender u⟩)
    (o : AttemptOutcome) (cause : TxCause) (release : Bool) :
    TxEnded s (endAttempt n o cause release s) n u o (txClass u (lineAt s n).chan cause o) ∧
    OtherLines s (endAttempt n o cause release s) n ∧
    lineAt (endAttempt n o cause release s) n =
      (if release then (lineAt s n).releases s.clock.run .release else lineAt s n) := by
  simp only [endAttempt, txOf_sender h, releaseWith_eq]
  cases release
  · refine ⟨⟨rfl, ⟨rfl, rfl⟩, ?_, ⟨(List.append_nil _).symm, fun _ => rfl⟩, rfl, ⟨rfl, rfl⟩⟩, ?_, rfl⟩
    · exact Marked.of_link (mark_marked (.line n) _) rfl rfl rfl
    · intro m _; rfl
  · simp only [if_true]
    refine ⟨⟨rfl, ⟨rfl, rfl⟩, ?_, ⟨(List.append_nil _).symm, fun _ => rfl⟩, rfl, ⟨rfl, rfl⟩⟩, ?_, ?_⟩
    · exact Marked.of_link (mark_marked (.line n) _) rfl rfl rfl
    · intro m hm; exact lineAt_modLine_ne hm (fun l => l.releases s.clock.run .release) s
    · exact lineAt_modLine_self n (fun l => l.releases s.clock.run .release) s

/-! ## Purge -/

/-- An evaluation of the pressure state at the end of an event that gave blocks back. -/
theorem purgeDoc_eq {s : State} {n : Nat} {d : Document} (h : findDoc s n = some d) : purgeDoc n s =
    mark (.department d.dept)
      (let t := freeBlocks d.dept (docBlocks d)
        (setReady d.dept (fun q => q.filter (· ≠ n)) { s with dir.reclaim := s.dir.reclaim.filter (· ≠ n) })
       { t with dir.docs := t.dir.docs.filter (fun e => e.number ≠ n) }) := by
  simp only [purgeDoc, h]

/-- A purge that is an event of its own (R45, R21). -/
theorem purgeEvent_purged {s : State} {n : Nat} {d : Document} (h : findDoc s n = some d) : Purged s (purgeEvent n s) d := by
  have hn := findDoc_number h
  subst hn
  have pr := evalPressure_pressure (purgeDoc d.number s)
  unfold purgeEvent
  rw [evalPressure_frame, pr, purgeDoc_eq h]
  generalize hs0 : setReady d.dept (fun q => q.filter (fun x => decide (x ≠ d.number)))
    { s with dir.reclaim := s.dir.reclaim.filter (fun x => decide (x ≠ d.number)) } = s0
  obtain ⟨f1, f2, f3, f4, f5, f6, f7⟩ := freeBlocks_spec d.dept (docBlocks d) s0
  have fr := freeBlocks_frame d.dept (docBlocks d) s0
  have a0 : ∀ e : Dept, acct s0 e = acct s e := by intro e; rw [← hs0]; rfl
  have st0 : s0.store = s.store := by rw [← hs0]; rfl
  have d0 : s0.dir.docs = s.dir.docs := by rw [← hs0]; rfl
  have r0 : s0.dir.reclaim = s.dir.reclaim.filter (fun x => decide (x ≠ d.number)) := by rw [← hs0]; rfl
  have q0 : ∀ e : Dept, readyQueue s0 e =
      if e = d.dept then (readyQueue s e).filter (fun x => decide (x ≠ d.number)) else readyQueue s e := by
    intro e; rw [← hs0, readyQueue_setReady]; split
    · rename_i he; rw [he]; rfl
    · rfl
  generalize freeBlocks d.dept (docBlocks d) s0 = t at *
  rw [a0] at f1
  have td : t.dir = s0.dir := by rw [fr]
  have tp : t.store.pressure = s.store.pressure := by rw [fr, ← st0]
  rw [st0] at f3 f4 f5 f6 f7
  refine ⟨⟨?_, ⟨f3, f4⟩, ⟨f5, f6, f7⟩, ?_⟩, ?_, ?_, ?_, ?_, ?_⟩
  · show (acct t d.dept).used = _
    rw [f1]
  · show pressureAfter t.store.pressure t = pressureAfter s.store.pressure t
    rw [tp]
  · show t.dir.docs.filter _ = _
    rw [td, d0]
  · show t.dir.reclaim = _
    rw [td, r0]
  · intro e; show readyQueue t e = _
    unfold readyQueue at *; rw [td, q0]
  · show acct t d.dept = { acct s d.dept with used := (acct t d.dept).used }
    rw [f1]
  · intro e he; show acct t e = _
    rw [f2 e he, a0]

/-! ## Joining a ready queue -/

theorem isUrgent_modDoc (n : Nat) (f : Document → Document) (hf : ∀ d, (f d).number = d.number) (hp : ∀ d, (f d).priority = d.priority)
    (s : State) (m : Nat) : isUrgent (modDoc n f s) m = isUrgent s m := by
  unfold isUrgent; rw [findDoc_modDoc n m f hf]
  by_cases hm : m = n
  · rw [if_pos hm]; cases findDoc s m <;> simp [hp]
  · rw [if_neg hm]

/-- The parts of the state that a document's joining its ready queue may change. -/
theorem joinReady_frame (n : Nat) (s : State) : joinReady n s =
    { s with
      dir := { s.dir with docs := (joinReady n s).dir.docs, ready := (joinReady n s).dir.ready }
      collect := { s.collect with queue := (joinReady n s).collect.queue, offers := (joinReady n s).collect.offers }
      link := { s.link with responses := (joinReady n s).link.responses, notices := (joinReady n s).link.notices } } := by
  unfold joinReady matchDoc
  split
  · rfl
  · dsimp only
    split <;> split <;> rfl

/-- The first element that passes a test, found and removed. -/
theorem find?_first {α : Type} (p : α → Bool) (front rest : List α) (w : α) (hw : p w = true) (hf : ∀ v ∈ front, p v = false) :
    (front ++ w :: rest).find? p = some w ∧ (front ++ w :: rest).eraseP p = front ++ rest := by
  induction front with
  | nil => simp [hw]
  | cons x xs ih =>
    have hx := hf x (by simp)
    have := ih (fun v hv => hf v (by simp [hv]))
    simp [hx, this]

/-- A DUE document that is handed to its department's queue (R39, R148), from a state in which it does not stand there. -/
theorem joinReady_joined {s : State} {d : Document} (h : findDoc s d.number = some d) (hq : d.number ∉ readyQueue s d.dept) :
    ∃ answers now, Joined s (joinReady d.number s) d s.collect.offers answers now ∧
      findDoc (joinReady d.number s) d.number = some { d with disposition := if now = .due then d.disposition else now } ∧
      OtherDocs s (joinReady d.number s) d.number ∧ (now = .due ∨ now = .offered) ∧
      (joinReady d.number s).link.responses = s.link.responses ++ answers ∧
      Marked s (joinReady d.number s) (fun x => x = .department d.dept ∧ now = .due) := by
  have hc : (readyQueue s d.dept).contains d.number = false := by simpa using hq
  have hp : ∀ e : Dept, e ≠ d.dept → readyQueue (setReady d.dept (joinQueue s d) s) e = readyQueue s e := by
    intro e he; rw [readyQueue_setReady, if_neg he]
  have hs : readyQueue (setReady d.dept (joinQueue s d) s) d.dept = joinQueue s d (readyQueue s d.dept) := by
    rw [readyQueue_setReady, if_pos rfl]
  have hfilter : (joinQueue s d (readyQueue s d.dept)).filter (fun x => decide (x ≠ d.number)) = readyQueue s d.dept := by
    have keep : ∀ l : List Nat, d.number ∉ l → l.filter (fun x => decide (x ≠ d.number)) = l := by
      intro l hl; rw [List.filter_eq_self]; intro x hx; simp only [ne_eq, decide_eq_true_eq]; rintro rfl; exact hl hx
    unfold joinQueue
    split
    · obtain ⟨front, back, e1, e2, _, _⟩ := insertUrgent_place (isUrgent s) d.number (readyQueue s d.dept)
      rw [e2, List.filter_append, List.filter_cons]
      simp only [ne_eq, not_true, decide_false, Bool.false_eq_true, if_false]
      rw [keep front (fun k => hq (by rw [e1]; simp [k])), keep back (fun k => hq (by rw [e1]; simp [k])), e1]
    · rw [List.filter_append, keep _ hq]; simp
  have hplace : (d.priority = .normal → joinQueue s d (readyQueue s d.dept) = readyQueue s d.dept ++ [d.number]) ∧
      (d.priority = .urgent → ∃ front back, readyQueue s d.dept = front ++ back ∧
        joinQueue s d (readyQueue s d.dept) = front ++ d.number :: back ∧
        (∀ x, front.getLast? = some x → isUrgent s x = true) ∧ ∀ x ∈ back, isUrgent s x = false) := by
    unfold joinQueue
    refine ⟨fun e => by simp [e], fun e => ?_⟩
    rw [if_pos e]; exact insertUrgent_place (isUrgent s) d.number (readyQueue s d.dept)
  simp only [joinReady, h, hc, matchDoc, Bool.false_eq_true, if_false]
  cases hw : (setReady d.dept (joinQueue s d) s).collect.queue.find? (fun w => decide (w.dept = d.dept)) with
  | none =>
    rw [setReady_collect] at hw
    refine ⟨[], .due, ⟨hp, ?_, ?_⟩, ?_, ?_, Or.inl rfl, ?_, ?_⟩
    · intro _
      exact ⟨rfl, rfl, rfl, rfl, fun e => hs.trans (hplace.1 e), fun e => by
        obtain ⟨f, b, e1, e2, e3, e4⟩ := hplace.2 e
        exact ⟨f, b, e1, hs.trans e2, e3, e4⟩⟩
    · intro front w rest e hd _
      rw [List.find?_eq_none] at hw
      exact absurd hd (by simpa using hw w (by rw [e]; simp))
    · exact h
    · exact ⟨fun _ _ => rfl, rfl⟩
    · simp
    · exact (Marked.of_link (mark_marked (.department d.dept) _) rfl rfl rfl).congr (by simp)
  | some w =>
    rw [setReady_collect] at hw
    dsimp only
    have hwd : w.dept = d.dept := by simpa using List.find?_some hw
    refine ⟨[⟨w.tag, .collect, .done, .offer (offerSummary d w.timeout s.policy.offerWindow)⟩], .offered, ⟨?_, ?_, ?_⟩, ?_, ?_,
      Or.inr rfl, ?_, ?_⟩
    · intro e he
      show readyQueue (setReady d.dept _ (setReady d.dept (joinQueue s d) s)) e = _
      rw [readyQueue_setReady, if_neg he, hp e he]
    · intro hno
      exact absurd hwd (hno w (List.mem_of_find?_eq_some hw))
    · intro front v rest e hd hf
      obtain ⟨e1, e2⟩ := find?_first (fun w : WaitingCollect => decide (w.dept = d.dept)) front rest v (by simpa using hd)
        (fun x hx => by simpa using hf x hx)
      rw [e, e1] at hw
      obtain rfl := Option.some.inj hw
      refine ⟨rfl, rfl, ?_, rfl, ?_⟩
      · show s.collect.queue.eraseP _ = _
        rw [e]; exact e2
      · show readyQueue (setReady d.dept _ (setReady d.dept (joinQueue s d) s)) d.dept = _
        rw [readyQueue_setReady, if_pos rfl, hs]; exact hfilter
    · exact findDoc_modDoc_self (f := fun e => { e with disposition := .offered }) h (fun _ => rfl)
    · exact modDoc_others d.number (fun e => { e with disposition := .offered }) (fun _ => rfl) s
    · rfl
    · exact (Marked.none rfl).congr (by simp)

/-- A document whose disposition becomes DUE (R37, R39, R148), from a state in which it does not stand in its queue. -/
theorem becomeDue_joined {s : State} {d : Document} (h : findDoc s d.number = some d) (hq : d.number ∉ readyQueue s d.dept) :
    ∃ answers now, Joined s (becomeDue d.number s) d s.collect.offers answers now ∧
      findDoc (becomeDue d.number s) d.number = some { d with disposition := now } ∧
      OtherDocs s (becomeDue d.number s) d.number ∧ (now = .due ∨ now = .offered) ∧
      (becomeDue d.number s).link.responses = s.link.responses ++ answers ∧
      Marked s (becomeDue d.number s) (fun x => x = .department d.dept ∧ now = .due) := by
  have h1 : findDoc (modDoc d.number (fun e => { e with disposition := .due }) s) d.number =
      some { d with disposition := .due } := findDoc_modDoc_self (f := fun e => { e with disposition := .due }) h (fun _ => rfl)
  obtain ⟨answers, now, j, f, o, two, r, m⟩ := joinReady_joined (d := { d with disposition := .due }) h1 hq
  have ho := modDoc_others d.number (fun e => { e with disposition := .due }) (fun _ => rfl) s
  have hu := isUrgent_modDoc d.number (fun e => { e with disposition := .due }) (fun _ => rfl) (fun _ => rfl) s
  refine ⟨answers, now, ⟨j.others, fun k => ?_, j.meets⟩, ?_, ?_, two, r, m.of_link rfl rfl rfl⟩
  · obtain ⟨a, b, c, e, n, u⟩ := j.waits k
    refine ⟨a, b, c, e, n, fun hp => ?_⟩
    obtain ⟨front, back, e1, e2, e3, e4⟩ := u hp
    exact ⟨front, back, e1, e2, fun x hx => by rw [← hu]; exact e3 x hx, fun x hx => by rw [← hu]; exact e4 x hx⟩
  · unfold becomeDue; dsimp only at f; rw [f]; rcases two with rfl | rfl <;> rfl
  · exact ⟨fun m hm => (o.1 m hm).trans (ho.1 m hm), o.2.trans ho.2⟩

/-- The parts of the state that a document's becoming DUE may change. -/
theorem becomeDue_frame (n : Nat) (s : State) : becomeDue n s =
    { s with
      dir := { s.dir with docs := (becomeDue n s).dir.docs, ready := (becomeDue n s).dir.ready }
      collect := { s.collect with queue := (becomeDue n s).collect.queue, offers := (becomeDue n s).collect.offers }
      link := { s.link with responses := (becomeDue n s).link.responses, notices := (becomeDue n s).link.notices } } := by
  unfold becomeDue; rw [joinReady_frame]; rfl

/-! ## Entries, fallback and settling -/

/-- A settling whose retention is above 0 (R41). -/
theorem settle_kept {s : State} {d : Document} (h : findDoc s d.number = some d) (hs : settles d = true)
    (hr : 0 < (acct s d.dept).retention) :
    settle d.number s = { modDoc d.number (fun e => { e with
        life := .settled, settleTime := some s.clock.cal
        deadline := some (s.clock.run + (acct s d.dept).retention * 3600000) }) s with
      dir.reclaim := s.dir.reclaim ++ [d.number] } := by
  unfold settle
  simp only [h, hs, if_true]
  rw [if_neg (by omega)]; rfl

/-- A document that does not settle stays. -/
theorem settle_not {s : State} {n : Nat} {d : Document} (h : findDoc s n = some d) (hs : settles d = false) : settle n s = s := by
  simp [settle, h, hs]

theorem fallback_not {s : State} {n : Nat} {d : Document} (h : findDoc s n = some d) (hs : fallsBack d = false) : fallback n s = s := by
  simp [fallback, h, hs]

/-! ### What only grows -/

theorem mark_grows (x : Subject) (s : State) : s.link.notices <+: (mark x s).link.notices := (mark_marked x s).1

theorem evalPressure_grows (s : State) : s.link.notices <+: (evalPressure s).link.notices := (evalPressure_marked s).1

theorem retireCheck_grows (b : Block) (s : State) : s.link.notices <+: (retireCheck b s).link.notices := by
  unfold retireCheck
  split
  · exact List.prefix_refl _
  · exact mark_grows _ _
  · dsimp only; split
    · exact List.prefix_refl _
    · exact mark_grows _ _

theorem freeBlocks_grows (d : Dept) (bs : List Block) (s : State) : s.link.notices <+: (freeBlocks d bs s).link.notices := by
  unfold freeBlocks
  induction bs generalizing s with
  | nil => exact List.prefix_refl _
  | cons b bs ih => rw [List.foldl_cons]; exact (retireCheck_grows b s).trans (ih (freeBlock d s b))

theorem purgeDoc_frame (n : Nat) (s : State) : purgeDoc n s =
    { s with
      store := { (purgeDoc n s).store with allotments := s.store.allotments, pressure := s.store.pressure }
      dir := { s.dir with
        docs := (purgeDoc n s).dir.docs, ready := (purgeDoc n s).dir.ready, reclaim := (purgeDoc n s).dir.reclaim }
      integrity := { s.integrity with exhausted := (purgeDoc n s).integrity.exhausted }
      link := { s.link with notices := (purgeDoc n s).link.notices } } := by
  unfold purgeDoc
  cases h : findDoc s n with
  | none => rfl
  | some d => dsimp only; rw [freeBlocks_frame]; rfl

theorem purgeDoc_grows (n : Nat) (s : State) : s.link.notices <+: (purgeDoc n s).link.notices := by
  unfold purgeDoc
  cases h : findDoc s n with
  | none => exact List.prefix_refl _
  | some d =>
    dsimp only
    refine (freeBlocks_grows d.dept (docBlocks d)
      (setReady d.dept (fun q => q.filter (· ≠ n)) { s with dir.reclaim := s.dir.reclaim.filter (· ≠ n) })).trans ?_
    exact mark_grows (.department d.dept) _

/-- The parts of the state that a purge may change (R45). -/
theorem purgeEvent_frame (n : Nat) (s : State) : purgeEvent n s =
    { s with
      store := { (purgeEvent n s).store with allotments := s.store.allotments }
      dir := { s.dir with
        docs := (purgeEvent n s).dir.docs, ready := (purgeEvent n s).dir.ready, reclaim := (purgeEvent n s).dir.reclaim }
      integrity := { s.integrity with exhausted := (purgeEvent n s).integrity.exhausted }
      link := { s.link with notices := (purgeEvent n s).link.notices } } := by
  unfold purgeEvent
  rw [evalPressure_frame, purgeDoc_frame]

theorem purgeEvent_grows (n : Nat) (s : State) : s.link.notices <+: (purgeEvent n s).link.notices :=
  (purgeDoc_grows n s).trans (evalPressure_grows _)

/-- The parts of the state that an evaluation of settling may change (R41). -/
theorem settle_frame (n : Nat) (s : State) : settle n s =
    { s with
      store := { (settle n s).store with allotments := s.store.allotments }
      dir := { s.dir with docs := (settle n s).dir.docs, ready := (settle n s).dir.ready, reclaim := (settle n s).dir.reclaim }
      integrity := { s.integrity with exhausted := (settle n s).integrity.exhausted }
      link := { s.link with notices := (settle n s).link.notices } } := by
  unfold settle
  split
  · rfl
  · dsimp only
    split
    · split
      · rw [purgeEvent_frame]; rfl
      · rfl
    · rfl

theorem settle_grows (n : Nat) (s : State) : s.link.notices <+: (settle n s).link.notices := by
  unfold settle
  split
  · exact List.prefix_refl _
  · dsimp only
    split
    · split
      · refine List.IsPrefix.trans ?_ (purgeEvent_grows n _)
        exact List.prefix_refl _
      · exact List.prefix_refl _
    · exact List.prefix_refl _

theorem joinReady_grows (n : Nat) (s : State) : s.link.notices <+: (joinReady n s).link.notices := by
  unfold joinReady matchDoc
  split
  · exact List.prefix_refl _
  · dsimp only
    split <;> split
    · exact List.prefix_refl _
    · exact List.prefix_refl _
    · exact mark_grows _ s
    · refine List.IsPrefix.trans ?_ (mark_grows _ _)
      exact List.prefix_refl _

theorem becomeDue_grows (n : Nat) (s : State) : s.link.notices <+: (becomeDue n s).link.notices := by
  unfold becomeDue
  refine List.IsPrefix.trans ?_ (joinReady_grows n _)
  exact List.prefix_refl _

theorem fallback_frame (n : Nat) (s : State) : fallback n s =
    { s with
      dir := { s.dir with docs := (fallback n s).dir.docs, ready := (fallback n s).dir.ready }
      collect := { s.collect with queue := (fallback n s).collect.queue, offers := (fallback n s).collect.offers }
      link := { s.link with responses := (fallback n s).link.responses, notices := (fallback n s).link.notices } } := by
  unfold fallback
  split
  · rfl
  · split
    · rw [becomeDue_frame]; rfl
    · rfl

theorem fallback_grows (n : Nat) (s : State) : s.link.notices <+: (fallback n s).link.notices := by
  unfold fallback
  split
  · exact List.prefix_refl _
  · split
    · exact (becomeDue_grows n s).trans (mark_grows _ _)
    · exact List.prefix_refl _

/-! ### The end of an entry -/

theorem modify_found {α : Type} (l : List α) (i : Nat) (f : α → α) (x : α) (h : l[i]? = some x) : l.modify i f = l.set i (f x) := by
  apply List.ext_getElem?
  intro k
  rw [List.getElem?_modify, List.getElem?_set]
  by_cases hk : i = k
  · subst hk
    rw [h]; simp
    by_contra hi; rw [List.getElem?_eq_none (by omega)] at h; simp at h
  · simp [hk]

theorem append_grows (content : JournalContent) (s : State) : s.link.notices <+: (append content s).1.link.notices :=
  (append_marked content s).1

theorem findDoc_dir {s t : State} (h : t.dir.docs = s.dir.docs) (n : Nat) : findDoc t n = findDoc s n := by
  unfold findDoc; rw [h]

theorem append_dir (content : JournalContent) (s : State) : (append content s).1.dir = s.dir := by rw [append_frame]

/-- What an evaluation of settling leaves of the other records. -/
theorem settle_others (n m : Nat) (hm : m ≠ n) (s : State) : findDoc (settle n s) m = findDoc s m := by
  unfold settle
  split
  · rfl
  · rename_i d hd
    dsimp only
    have hn := findDoc_number hd
    have e1 := (modDoc_others n (fun e : Document => { e with
      life := .settled, settleTime := some s.clock.cal, deadline := some (s.clock.run + (acct s d.dept).retention * hourMs) })
      (fun _ => rfl) s).1 m hm
    split
    · split
      · refine Eq.trans ?_ e1
        have hp := purgeEvent_purged (n := n) (d := { d with
          life := .settled, settleTime := some s.clock.cal, deadline := some (s.clock.run + (acct s d.dept).retention * hourMs) })
          (s := { (modDoc n (fun e : Document => { e with
            life := .settled, settleTime := some s.clock.cal, deadline := some (s.clock.run + (acct s d.dept).retention * hourMs) }) s) with
            dir.reclaim := (modDoc n (fun e : Document => { e with
            life := .settled, settleTime := some s.clock.cal, deadline := some (s.clock.run + (acct s d.dept).retention * hourMs) }) s).dir.reclaim ++ [n] })
          (findDoc_modDoc_self (f := fun e : Document => { e with
            life := .settled, settleTime := some s.clock.cal, deadline := some (s.clock.run + (acct s d.dept).retention * hourMs) }) hd (fun _ => rfl))
        have hdocs := hp.docs
        unfold findDoc; rw [hdocs]
        rw [findDoc_dropped n m _ _ (by dsimp only; rw [hn]), if_neg hm]; rfl
      · exact e1
    · rfl

theorem fallback_others (n m : Nat) (hm : m ≠ n) (s : State) : findDoc (fallback n s) m = findDoc s m := by
  unfold fallback
  split
  · rfl
  · split
    · show findDoc (becomeDue n s) m = _
      unfold becomeDue joinReady matchDoc
      have e1 := (modDoc_others n (fun e : Document => { e with disposition := .due }) (fun _ => rfl) s).1 m hm
      split
      · exact e1
      · rename_i d hd
        have hn := findDoc_number hd
        dsimp only
        have e2 := (modDoc_others d.number (fun e : Document => { e with disposition := .offered }) (fun _ => rfl)
          (modDoc n (fun e : Document => { e with disposition := .due }) s)).1 m (by rw [hn]; exact hm)
        split <;> split
        · exact e2.trans e1
        · exact e2.trans e1
        · exact e1
        · exact e1
    · rfl

theorem joinReady_answers (n : Nat) (s : State) : ∃ answers, (joinReady n s).link.responses = s.link.responses ++ answers := by
  unfold joinReady matchDoc
  split
  · exact ⟨[], by simp⟩
  · dsimp only
    split <;> split
    · exact ⟨_, rfl⟩
    · exact ⟨_, rfl⟩
    · exact ⟨[], by simp⟩
    · exact ⟨[], by simp⟩

/-- The end of a forward entry (R120, R121, R40, R41). -/
theorem endEntry_ended {s : State} {d : Document} {i : Nat} {e : ForwardEntry} (h : findDoc s d.number = some d)
    (hi : d.forwards[i]? = some e) (ho : d.life = .opened) (st : ForwardState) (result : ForwardResult) :
    ∃ answers, EntryEnded s (endEntry d.number i st result s) d i { e with state := st } result answers ∧
      (endEntry d.number i st result s).link.responses = s.link.responses ++ answers := by
  have hlen : i < d.forwards.length := by
    by_contra k; rw [List.getElem?_eq_none (by omega)] at hi; simp at hi
  generalize he' : ({ e with state := st } : ForwardEntry) = e'
  generalize hd1 : ({ d with forwards := d.forwards.set i e' } : Document) = d1
  have n1 : d1.number = d.number := by rw [← hd1]
  have h1 : findDoc (modForward d.number i (fun e => { e with state := st }) s) d.number = some d1 := by
    unfold modForward
    rw [findDoc_modDoc_self (f := fun d => { d with forwards := d.forwards.modify i (fun e => { e with state := st }) }) h (fun _ => rfl),
      ← hd1, modify_found _ _ _ _ hi, he']
  have hen : entryOf (modForward d.number i (fun e => { e with state := st }) s) d.number i = some e' := by
    simp only [entryOf, h1, Option.bind_some, ← hd1]
    rw [List.getElem?_set]; simp [hlen]
  unfold endEntry
  simp only [hen]
  generalize hs3 : mark Subject.forward (append (.forward d.number i e'.destination result e'.attempts e'.pages)
    (modForward d.number i (fun e => { e with state := st }) s)).1 = s3
  have fr := append_frame (.forward d.number i e'.destination result e'.attempts e'.pages)
    (modForward d.number i (fun e => { e with state := st }) s)
  have hdir : s3.dir = (modForward d.number i (fun e => { e with state := st }) s).dir := by rw [← hs3, mark_dir, append_dir]
  have h3 : findDoc s3 d.number = some d1 := (findDoc_dir (by rw [hdir]) _).trans h1
  have hj : s3.journal = s.journal.offered (.forward d.number i e'.destination result e'.attempts e'.pages) s.clock.cal s.clock.trusted := by
    rw [← hs3, mark_journal, fr]; rfl
  have hfw : s.link.classes.forward = true → Subject.forward ∈ s3.link.notices := by
    intro hc
    rw [← hs3]
    refine ((mark_marked .forward _).2 .forward).2 (Or.inr ⟨?_, rfl⟩)
    rw [fr]; exact hc
  have hres : s3.link.responses = s.link.responses := by rw [← hs3, mark_link_responses, fr]; rfl
  have hst : s3.store = s.store := by rw [← hs3, mark_store, fr]; rfl
  have hcol : s3.collect = s.collect := by rw [← hs3, mark_collect, fr]; rfl
  have hpol : s3.policy = s.policy := by rw [← hs3, mark_policy, fr]; rfl
  have hclk : s3.clock = s.clock := by rw [← hs3, mark_clock, fr]; rfl
  have hrdy : ∀ x, readyQueue s3 x = readyQueue s x := by intro x; unfold readyQueue; rw [hdir]; rfl
  have hrec : s3.dir.reclaim = s.dir.reclaim := by rw [hdir]; rfl
  have hoth : ∀ m, m ≠ d.number → findDoc s3 m = findDoc s m := by
    intro m hm
    refine (findDoc_dir (s := modForward d.number i (fun e => { e with state := st }) s) (t := s3) (by rw [hdir]) _).trans ?_
    exact (modDoc_others d.number (fun d => { d with forwards := d.forwards.modify i (fun e => { e with state := st }) })
      (fun _ => rfl) s).1 m hm
  have hurg : ∀ x, isUrgent s3 x = isUrgent s x := by
    intro x
    refine Eq.trans ?_ (isUrgent_modDoc d.number (fun d => { d with forwards := d.forwards.modify i (fun e => { e with state := st }) })
      (fun _ => rfl) (fun _ => rfl) s x)
    have hx := findDoc_dir (s := modForward d.number i (fun e => { e with state := st }) s) (t := s3) (by rw [hdir]) x
    unfold isUrgent; rw [hx]; rfl
  clear hs3 fr
  have jt : (settle d.number (fallback d.number s3)).journal = s3.journal := by rw [settle_frame, fallback_frame]
  have ot : ∀ m, m ≠ d.number → findDoc (settle d.number (fallback d.number s3)) m = findDoc s m := fun m hm =>
    (settle_others _ m hm _).trans ((fallback_others _ m hm _).trans (hoth m hm))
  have gt : s3.link.notices <+: (settle d.number (fallback d.number s3)).link.notices := (fallback_grows _ _).trans (settle_grows _ _)
  have lf : d1.life = .opened := by rw [← hd1]; exact ho
  have ff : d1.forwards = d.forwards.set i e' := by rw [← hd1]
  have fd : d1.disposition = d.disposition := by rw [← hd1]
  have fdep : d1.dept = d.dept := by rw [← hd1]
  have fpr : d1.priority = d.priority := by rw [← hd1]
  have fsum : ∀ a b, offerSummary d1 a b = offerSummary d a b := by intro a b; rw [← hd1]; rfl
  have hne : (d.forwards.set i e') ≠ [] := by
    intro k; rw [List.set_eq_nil_iff] at k; rw [k] at hlen; simp at hlen
  have h3' : findDoc s3 d1.number = some d1 := by rw [n1]; exact h3
  have jt0 := jt.trans hj
  have mk : s.link.classes.forward = true → Subject.forward ∈ (settle d.number (fallback d.number s3)).link.notices :=
    fun hc => gt.subset (hfw hc)
  have final : ∀ x : ForwardEntry, x.isFinal = true ↔ x.state ≠ .pending := by
    intro x; unfold ForwardEntry.isFinal; cases x.state <;> simp
  by_cases hfb : fallsBack d1 = true
  · have parts : d1.forwards.all ForwardEntry.isFinal = true ∧ d1.disposition = .none ∧ ∃ x ∈ d1.forwards, x.state = .failed := by
      unfold fallsBack at hfb
      simp only [Bool.and_eq_true, beq_iff_eq, List.any_eq_true] at hfb
      exact ⟨hfb.1.1.2, hfb.2, hfb.1.2⟩
    obtain ⟨pall, pdisp, x, hx, hxf⟩ := parts
    rw [ff] at hx pall
    rw [fd] at pdisp
    have hfall : fallback d.number s3 = mark (.department d1.dept) (becomeDue d.number s3) := by
      simp [fallback, h3, hfb]
    by_cases hq : d.number ∈ readyQueue s d.dept
    · have hb := joinReady_answers d.number (modDoc d.number (fun e => { e with disposition := .due }) s3)
      obtain ⟨answers, ha⟩ := hb
      refine ⟨answers, ⟨jt0, ot, mk, ?_, ?_, ?_⟩, ?_⟩
      · rintro (⟨y, hy, hyp⟩ | ⟨h1, _⟩)
        · exact absurd hyp ((final y).1 (List.all_eq_true.1 pall y hy))
        · exact absurd pdisp h1
      · intro _ _ _ k; exact absurd hq k
      · rintro _ (k | ⟨_, k⟩)
        · rw [pdisp] at k; cases k
        · exact absurd hxf (k x hx)
      · rw [settle_frame]
        show (fallback d.number s3).link.responses = _
        rw [hfall, mark_link_responses, ← hres]; exact ha
    · have hq3 : d1.number ∉ readyQueue s3 d1.dept := by rw [n1, fdep, hrdy]; exact hq
      obtain ⟨answers, now, j, f, o, two, r, m⟩ := becomeDue_joined h3' hq3
      rw [n1] at j f o r m
      have hset : settle d.number (fallback d.number s3) = fallback d.number s3 := by
        have hx := (findDoc_dir (s := becomeDue d.number s3) (t := mark (.department d1.dept) (becomeDue d.number s3))
          (by rw [mark_dir]) _).trans f
        rw [← hfall] at hx
        exact settle_not hx (by unfold settles; rcases two with rfl | rfl <;> simp)
      rw [hset, hfall] at jt0 ot mk ⊢
      have hdirm := mark_dir (.department d1.dept) (becomeDue d.number s3)
      have hcolm := mark_collect (.department d1.dept) (becomeDue d.number s3)
      have hclkm := mark_clock (.department d1.dept) (becomeDue d.number s3)
      have hrdm : ∀ x, readyQueue (mark (.department d1.dept) (becomeDue d.number s3)) x = readyQueue (becomeDue d.number s3) x := by
        intro x; unfold readyQueue; rw [hdirm]
      refine ⟨answers, ⟨jt0, ot, mk, ?_, ?_, ?_⟩, ?_⟩
      · rintro (⟨y, hy, hyp⟩ | ⟨h1, _⟩)
        · exact absurd hyp ((final y).1 (List.all_eq_true.1 pall y hy))
        · exact absurd pdisp h1
      · intro _ _ _ _
        refine ⟨now, ?_, ⟨?_, ?_, ?_⟩, ?_, ?_⟩
        · refine (findDoc_dir (s := becomeDue d.number s3) (t := mark (.department d1.dept) (becomeDue d.number s3))
            (by rw [hdirm]) _).trans (f.trans ?_)
          rw [← hd1]
        · intro k hk; rw [hrdm, j.others k (by rw [fdep]; exact hk), hrdy]
        · intro k
          obtain ⟨a, b, c, g, n, u⟩ := j.waits (by rw [hcol, fdep]; exact k)
          rw [fdep] at n u
          rw [hcolm, hrdm, c, g, hcol]
          refine ⟨a, b, rfl, rfl, fun hp => ?_, fun hp => ?_⟩
          · rw [n (fpr.trans hp), hrdy, n1]
          · obtain ⟨front, back, e1, e2, e3, e4⟩ := u (fpr.trans hp)
            rw [n1] at e2
            exact ⟨front, back, by rw [← hrdy]; exact e1, e2, fun x hx => by rw [← hurg]; exact e3 x hx,
              fun x hx => by rw [← hurg]; exact e4 x hx⟩
        · intro front w rest e1 e2 e3
          obtain ⟨a, b, c, g, n⟩ := j.meets front w rest (by rw [hcol]; exact e1) (by rw [fdep]; exact e2) (by rw [fdep]; exact e3)
          rw [fdep] at n
          rw [hcolm, hclkm, hrdm, c, g, hcol, ← hpol, ← hrdy, n, n1, fdep]
          refine ⟨a, ?_, rfl, rfl, rfl⟩
          rw [b, fsum]
        · rw [mark_dir, becomeDue_frame]; exact hrec
        · rw [mark_store, becomeDue_frame]; exact hst
      · rintro _ (k | ⟨_, k⟩)
        · rw [pdisp] at k; cases k
        · exact absurd hxf (k x hx)
      · rw [mark_link_responses, r, hres]
  · rw [Bool.not_eq_true] at hfb
    have hf : fallback d.number s3 = s3 := fallback_not h3 hfb
    rw [hf] at jt0 ot mk ⊢
    have reason : (∀ x ∈ d.forwards.set i e', x.state ≠ .pending) → (∃ x ∈ d.forwards.set i e', x.state = .failed) →
        d.disposition ≠ .none := by
      intro k1 k2 k3
      have : fallsBack d1 = true := by
        unfold fallsBack
        simp only [Bool.and_eq_true, beq_iff_eq, List.any_eq_true, List.all_eq_true, ff, fd, lf, k3, Bool.not_eq_true',
          List.isEmpty_eq_false_iff]
        exact ⟨⟨⟨⟨trivial, hne⟩, fun x hx => (final x).2 (k1 x hx)⟩, k2⟩, trivial⟩
      rw [hfb] at this; cases this
    refine ⟨[], ⟨jt0, ot, mk, ?_, ?_, ?_⟩, ?_⟩
    · intro k
      have hs : settles d1 = false := by
        by_contra hs; rw [Bool.not_eq_false] at hs
        unfold settles at hs
        simp only [Bool.and_eq_true, Bool.or_eq_true, beq_iff_eq, List.all_eq_true, ff, fd] at hs
        rcases k with ⟨y, hy, hyp⟩ | ⟨a, b⟩
        · exact (final y).1 (hs.2 y hy) hyp
        · rcases hs.1.2 with c | c
          · exact a c
          · exact b c
      rw [settle_not h3 hs]
      refine ⟨h3.trans (by rw [← hd1]), rfl, ?_, hrec, hcol, hst⟩
      rw [hdir]; rfl
    · intro k1 k2 k3; exact absurd k3 (reason k1 k2)
    · intro k1 k2 kr
      have hs : settles d1 = true := by
        unfold settles
        simp only [Bool.and_eq_true, Bool.or_eq_true, beq_iff_eq, List.all_eq_true, ff, fd, lf]
        exact ⟨⟨trivial, k2.elim .inr (fun k => .inl k.1)⟩, fun x hx => (final x).2 (k1 x hx)⟩
      have hacct : acct s3 d1.dept = acct s d.dept := by unfold acct; rw [hst, fdep]
      have e1 := settle_kept h3' hs (by rw [hacct]; exact kr)
      rw [n1] at e1
      rw [e1, hacct, hclk]
      refine ⟨?_, ?_, rfl, ?_, ?_, ?_⟩
      · refine (findDoc_modDoc_self (f := fun e : Document => { e with
          life := .settled, settleTime := some s.clock.cal
          deadline := some (s.clock.run + (acct s d.dept).retention * 3600000) }) h3 (fun _ => rfl)).trans ?_
        rw [← hd1]
      · show s3.dir.reclaim ++ _ = _; rw [hrec]
      · show s3.dir.ready = _; rw [hdir]; rfl
      · exact hcol
      · exact hst
    · rw [settle_frame]
      show s3.link.responses = _
      rw [hres, List.append_nil]

/-! ### What a purge marks -/

/-- Along a list that only grows, a change from the first to the last is a change in one of two stretches. -/
theorem changed_of_prefix {α : Type} {a b c : List α} (h1 : a <+: b) (h2 : b <+: c) : c ≠ a ↔ b ≠ a ∨ c ≠ b := by
  obtain ⟨x, rfl⟩ := h1
  obtain ⟨y, rfl⟩ := h2
  cases x <;> cases y <;> simp

/-- What the retirement check marks: INTEGRITY when a block retires (R197), STORE when the spares are first found exhausted (R198). -/
theorem retireCheck_marked (b : Block) (s : State) :
    Marked s (retireCheck b s) (fun x => (x = .integrity ∧ (retireCheck b s).store.retired ≠ s.store.retired) ∨
      (x = .store ∧ (retireCheck b s).integrity.exhausted ≠ s.integrity.exhausted)) ∧
    (s.integrity.exhausted = true → (retireCheck b s).integrity.exhausted = true) := by
  unfold retireCheck
  split
  · exact ⟨(Marked.none rfl).congr (by simp), id⟩
  · exact ⟨(Marked.of_link (mark_marked .integrity _) rfl rfl rfl).congr (by simp), id⟩
  · dsimp only
    split
    · exact ⟨(Marked.none rfl).congr (by simp), id⟩
    · rename_i h
      exact ⟨(Marked.of_link (mark_marked .store _) rfl rfl rfl).congr (by simp_all), fun _ => rfl⟩

/-- What giving a page's blocks back marks (R6, R197, R198). -/
theorem freeBlocks_marked (d : Dept) (bs : List Block) (s : State) :
    Marked s (freeBlocks d bs s) (fun x => (x = .integrity ∧ (freeBlocks d bs s).store.retired ≠ s.store.retired) ∨
      (x = .store ∧ (freeBlocks d bs s).integrity.exhausted ≠ s.integrity.exhausted)) ∧
    (s.integrity.exhausted = true → (freeBlocks d bs s).integrity.exhausted = true) := by
  induction bs generalizing s with
  | nil => exact ⟨(Marked.none rfl).congr (by simp [freeBlocks]), id⟩
  | cons b bs ih =>
    obtain ⟨m1, e1⟩ := retireCheck_marked b s
    obtain ⟨m2, e2⟩ := ih (freeBlock d s b)
    have grows1 : s.store.retired <+: (freeBlock d s b).store.retired := (retireCheck_lists b s).2.2.1
    have grows2 := (freeBlocks_spec d bs (freeBlock d s b)).2.2.2.2.2.1
    have kept : (freeBlock d s b).link.classes = s.link.classes := by
      show (retireCheck b s).link.classes = _
      rw [retireCheck_frame]
    have chain : freeBlocks d (b :: bs) s = freeBlocks d bs (freeBlock d s b) := rfl
    rw [chain]
    have both := Marked.trans (Marked.of_link m1 (s' := s) (t' := freeBlock d s b) rfl rfl rfl) m2 kept
    refine ⟨both.congr (fun x => ?_), fun h => e2 (e1 h)⟩
    rw [changed_of_prefix grows1 grows2]
    have e1' : s.integrity.exhausted = true → (freeBlock d s b).integrity.exhausted = true := e1
    have r1 : (retireCheck b s).store.retired = (freeBlock d s b).store.retired := rfl
    have r2 : (retireCheck b s).integrity.exhausted = (freeBlock d s b).integrity.exhausted := rfl
    rw [r1, r2]
    generalize (freeBlock d s b).integrity.exhausted = y at *
    generalize (freeBlocks d bs (freeBlock d s b)).integrity.exhausted = z at *
    generalize s.integrity.exhausted = w at *
    cases w <;> cases y <;> cases z <;> simp_all <;> tauto

/-- What a purge that is an event of its own marks (R45, R197, R198, R21). -/
theorem purgeEvent_marked {s : State} {n : Nat} {d : Document} (h : findDoc s n = some d) : Marked s (purgeEvent n s) (fun x =>
    x = .department d.dept ∨ (x = .integrity ∧ (purgeEvent n s).store.retired ≠ s.store.retired) ∨
      (x = .store ∧ ((purgeEvent n s).store.pressure ≠ s.store.pressure ∨
        (purgeEvent n s).integrity.exhausted ≠ s.integrity.exhausted))) := by
  have fr := evalPressure_frame (purgeDoc n s)
  have r : (purgeEvent n s).store.retired = (purgeDoc n s).store.retired := by unfold purgeEvent; rw [fr]
  have e : (purgeEvent n s).integrity.exhausted = (purgeDoc n s).integrity.exhausted := by unfold purgeEvent; rw [fr]
  have p : (purgeDoc n s).store.pressure = s.store.pressure := by rw [purgeDoc_frame]
  have c : (purgeDoc n s).link.classes = s.link.classes := by rw [purgeDoc_frame]
  have m3 := evalPressure_marked (purgeDoc n s)
  rw [p] at m3
  rw [r, e]
  have m12 : Marked s (purgeDoc n s) (fun x => ((x = .integrity ∧ (purgeDoc n s).store.retired ≠ s.store.retired) ∨
      (x = .store ∧ (purgeDoc n s).integrity.exhausted ≠ s.integrity.exhausted)) ∨ x = .department d.dept) := by
    rw [purgeDoc_eq h]
    generalize hs0 : setReady d.dept (fun q => q.filter (fun x => decide (x ≠ n)))
      { s with dir.reclaim := s.dir.reclaim.filter (fun x => decide (x ≠ n)) } = s0
    have m1 := (freeBlocks_marked d.dept (docBlocks d) s0).1
    have c1 : (freeBlocks d.dept (docBlocks d) s0).link.classes = s0.link.classes := by rw [freeBlocks_frame]
    have link0 : s0.link = s.link := by rw [← hs0]; rfl
    have store0 : s0.store = s.store := by rw [← hs0]; rfl
    have int0 : s0.integrity = s.integrity := by rw [← hs0]; rfl
    rw [store0, int0] at m1
    have m1' := Marked.of_link m1 (s' := s) (t' := freeBlocks d.dept (docBlocks d) s0) (by rw [link0]) rfl (by rw [link0])
    generalize freeBlocks d.dept (docBlocks d) s0 = t at *
    have m2 := mark_marked (.department d.dept) { t with dir.docs := t.dir.docs.filter (fun e => e.number ≠ n) }
    exact Marked.trans (Marked.of_link m1' (s' := s) (t' := { t with dir.docs := t.dir.docs.filter (fun e => e.number ≠ n) }) rfl rfl rfl)
      m2 (c1.trans (by rw [link0]))
  refine (Marked.trans m12 m3 c).congr (fun x => ?_)
  show _ ↔ _ ∨ _ ∨ (x = .store ∧ ((evalPressure (purgeDoc n s)).store.pressure ≠ _ ∨ _))
  tauto

/-! ### The end of a verification -/

/-- The state in which a verification has ended with its response and its mark, before a deadline is looked at (R50). -/
theorem endVerification_eq {s : State} {v : Verification} {e : Document} (h : findDoc s v.doc = some e) :
    endVerification v s = purgeIfPassed v.doc (modDoc v.doc (fun e => { e with verifying := false })
      (respond v.tag .verifyDocument .done (.verified (verifyResult e (crc32Final v.crc)) e.digest
        (if verifyResult e (crc32Final v.crc) = .damaged then none else some (crc32Final v.crc)) (damagedPages e))
        { s with dir.verifications := s.dir.verifications.filter (fun x => x.doc ≠ v.doc) })) := by
  have h' : findDoc { s with dir.verifications := s.dir.verifications.filter (fun x => x.doc ≠ v.doc) } v.doc = some e := h
  unfold endVerification
  simp only [h']

/-- A verification whose document is not SETTLED, or whose deadline lies ahead, ends with the document kept (R50). -/
theorem endVerification_kept {s : State} {v : Verification} {e : Document} (h : findDoc s v.doc = some e)
    (early : ¬ (e.life = .settled ∧ ∃ x, e.deadline = some x ∧ x ≤ s.clock.run)) :
    findDoc (endVerification v s) v.doc = some { e with verifying := false } ∧ OtherDocs s (endVerification v s) v.doc ∧
    endVerification v s = { s with
      dir := { s.dir with docs := (endVerification v s).dir.docs, verifications := (endVerification v s).dir.verifications }
      link := { s.link with responses := (endVerification v s).link.responses } } := by
  rw [endVerification_eq h]
  have mark : ∀ d : Document, ({ d with verifying := false } : Document).number = d.number := fun _ => rfl
  generalize hu : respond v.tag .verifyDocument .done _ _ = u
  have hd : findDoc u v.doc = some e := by rw [← hu]; exact h
  have hk : u.clock = s.clock := by rw [← hu]; rfl
  have ho : u.dir.docs = s.dir.docs := by rw [← hu]; rfl
  have same : purgeIfPassed v.doc (modDoc v.doc (fun e => { e with verifying := false }) u) =
      modDoc v.doc (fun e => { e with verifying := false }) u := by
    unfold purgeIfPassed
    rw [findDoc_modDoc_self hd mark]
    dsimp only
    cases hx : e.deadline with
    | none => rfl
    | some x =>
      dsimp only
      rw [if_neg]
      rintro ⟨hl, hr, -⟩
      exact early ⟨hl, x, hx, by rw [← hk]; exact hr⟩
  rw [same]
  refine ⟨findDoc_modDoc_self hd mark, ?_⟩
  obtain ⟨o1, o2⟩ := modDoc_others v.doc (fun e : Document => { e with verifying := false }) mark u
  exact ⟨⟨fun m hm => (o1 m hm).trans (findDoc_dir ho m), o2.trans (by rw [ho])⟩, by rw [← hu]; rfl⟩

/-- A verification whose SETTLED document's deadline has passed ends with the document purged (R44, R45). -/
theorem endVerification_purges {s : State} {v : Verification} {e : Document} {x : Nat} (h : findDoc s v.doc = some e)
    (settled : e.life = .settled) (deadline : e.deadline = some x) (passed : x ≤ s.clock.run) :
    Purged s (endVerification v s) e ∧ Marked s (endVerification v s) (fun y => y = .department e.dept ∨
      (y = .integrity ∧ (endVerification v s).store.retired ≠ s.store.retired) ∨
      (y = .store ∧ ((endVerification v s).store.pressure ≠ s.store.pressure ∨
        (endVerification v s).integrity.exhausted ≠ s.integrity.exhausted))) := by
  rw [endVerification_eq h]
  have mark : ∀ d : Document, ({ d with verifying := false } : Document).number = d.number := fun _ => rfl
  generalize hu : respond v.tag .verifyDocument .done _ _ = u
  have hd : findDoc u v.doc = some e := by rw [← hu]; exact h
  have hn := findDoc_number h
  have found := findDoc_modDoc_self hd mark
  have purged : purgeIfPassed v.doc (modDoc v.doc (fun e => { e with verifying := false }) u) =
      purgeEvent v.doc (modDoc v.doc (fun e => { e with verifying := false }) u) := by
    unfold purgeIfPassed
    rw [found]
    dsimp only
    rw [deadline]
    dsimp only
    rw [if_pos ⟨settled, by rw [modDoc_clock, ← hu]; exact passed, rfl⟩]
  rw [purged]
  have p := purgeEvent_purged found
  have m := purgeEvent_marked found
  have store : (modDoc v.doc (fun e => { e with verifying := false }) u).store = s.store := by rw [← hu]; rfl
  have int : (modDoc v.doc (fun e => { e with verifying := false }) u).integrity = s.integrity := by rw [← hu]; rfl
  have link : (modDoc v.doc (fun e => { e with verifying := false }) u).link.notices = s.link.notices ∧
    (modDoc v.doc (fun e => { e with verifying := false }) u).link.classes = s.link.classes := by rw [← hu]; exact ⟨rfl, rfl⟩
  have dropped : (modDoc v.doc (fun e => { e with verifying := false }) u).dir.docs.filter (fun y => decide (y.number ≠ e.number)) =
      s.dir.docs.filter (fun y => decide (y.number ≠ e.number)) := by
    have ho : u.dir.docs = s.dir.docs := by rw [← hu]; rfl
    simp only [modDoc, ho, hn]
    induction s.dir.docs with
    | nil => rfl
    | cons y ys ih =>
      rw [List.map_cons]
      by_cases hy : y.number = v.doc
      · rw [if_pos hy, List.filter_cons_of_neg (by simp [hy]), List.filter_cons_of_neg (by simp [hy]), ih]
      · rw [if_neg hy, List.filter_cons_of_pos (by simp [hy]), List.filter_cons_of_pos (by simp [hy]), ih]
  have reclaim : (modDoc v.doc (fun e => { e with verifying := false }) u).dir.reclaim = s.dir.reclaim := by rw [← hu]; rfl
  have ready : (modDoc v.doc (fun e => { e with verifying := false }) u).dir.ready = s.dir.ready := by rw [← hu]; rfl
  generalize modDoc v.doc (fun e => { e with verifying := false }) u = w at *
  obtain ⟨⟨p1, p2, p3, p4⟩, p5, p6, p7, p8, p9⟩ := p
  unfold acct at p1 p8 p9
  unfold readyQueue at p7
  rw [store] at p1 p2 p3 p4 p8 p9
  rw [ready] at p7
  rw [store, int] at m
  exact ⟨⟨⟨p1, p2, p3, p4⟩, p5.trans dropped, p6.trans (by rw [reclaim]), p7, p8, p9⟩, m.of_link link.1.symm rfl link.2.symm⟩

end Sys2Proof.Machine
end

