-- ==== Sys2Proof/Laws/Memory.lean ====
section
/-! SUPPORT. Laws/Memory.lean: the laws of the store memory: a read after a write, the canonical form every memory operation keeps,
and what the wider operations of the store write. -/

namespace Sys2Proof.Machine

open Sys2Proof

/-! ## The canonical form -/

/-- A cell in front of a list in canonical form keeps the form, when its byte is listed and its address lies below the first. -/
theorem memoryWf_cons (k : Nat) (b : Byte) (rest : List Host.Cell) :
    memoryWf ((k, b) :: rest) = true ↔ b ≠ unwritten ∧ (∀ c, rest.head? = some c → k < c.1) ∧ memoryWf rest = true := by
  cases rest with
  | nil => simp [memoryWf]
  | cons c cs => obtain ⟨k', b'⟩ := c; simp [memoryWf, and_assoc]

/-- In the canonical form every later address lies above the first. -/
theorem memoryWf_above {k : Nat} {b : Byte} {rest : List Host.Cell} (h : memoryWf ((k, b) :: rest) = true) :
    ∀ c ∈ rest, k < c.1 := by
  induction rest generalizing k b with
  | nil => simp
  | cons c cs ih =>
    obtain ⟨k', b'⟩ := c
    obtain ⟨_, h2, h3⟩ := (memoryWf_cons _ _ _).1 h
    have hk : k < k' := h2 _ rfl
    intro e he
    rcases List.mem_cons.1 he with rfl | he
    · exact hk
    · exact Nat.lt_trans hk (ih h3 e he)

/-- An address below every listed one reads as unlisted. -/
theorem readByte_below {mem : List Host.Cell} {a : Nat} (h : ∀ c ∈ mem, a < c.1) : readByte mem a = unwritten := by
  induction mem with
  | nil => rfl
  | cons c cs ih =>
    obtain ⟨k, b⟩ := c
    have hk : a < k := h _ (List.mem_cons_self ..)
    have : ¬ k = a := by omega
    rw [readByte, if_neg this]
    exact ih (fun e he => h e (List.mem_cons_of_mem _ he))

/-- The first address after a write is the written one or the first before. -/
theorem writeByte_head (mem : List Host.Cell) (a : Nat) (v : Byte) (n : Nat) (ha : n < a) (h : ∀ c, mem.head? = some c → n < c.1)
    (hr : ∀ c ∈ mem, n < c.1) : ∀ c, (writeByte mem a v).head? = some c → n < c.1 := by
  intro c hc
  cases mem with
  | nil =>
    unfold writeByte at hc
    split at hc
    · simp at hc
    · simp at hc; subst hc; exact ha
  | cons e es =>
    obtain ⟨k, b⟩ := e
    have hk : n < k := h _ rfl
    unfold writeByte at hc
    split at hc
    · simp at hc; subst hc; exact hk
    · split at hc
      · split at hc
        · exact hr c (List.mem_cons_of_mem _ (List.mem_of_mem_head? hc))
        · simp at hc; subst hc; exact ha
      · split at hc
        · simp at hc; subst hc; exact hk
        · simp at hc; subst hc; exact ha

/-- A write keeps the canonical form. -/
theorem memoryWf_writeByte {mem : List Host.Cell} (a : Nat) (v : Byte) (h : memoryWf mem = true) :
    memoryWf (writeByte mem a v) = true := by
  induction mem with
  | nil =>
    unfold writeByte
    split
    · rfl
    · rename_i hv; simp [memoryWf, hv]
  | cons e es ih =>
    obtain ⟨k, b⟩ := e
    obtain ⟨hb, h2, h3⟩ := (memoryWf_cons _ _ _).1 h
    have hab := memoryWf_above h
    unfold writeByte
    split
    · rename_i hk
      exact (memoryWf_cons _ _ _).2 ⟨hb, writeByte_head es a v k hk h2 hab, ih h3⟩
    · split
      · rename_i hk
        split
        · exact h3
        · rename_i hv
          exact (memoryWf_cons _ _ _).2 ⟨hv, fun c hc => hk ▸ h2 c hc, h3⟩
      · rename_i hk1 hk2
        split
        · exact h
        · rename_i hv
          refine (memoryWf_cons _ _ _).2 ⟨hv, ?_, h⟩
          intro c hc; simp at hc; subst hc; show a < k; omega

/-- Writing bytes keeps the canonical form. -/
theorem memoryWf_writeBytes {mem : List Host.Cell} (a : Nat) (vs : List Byte) (h : memoryWf mem = true) :
    memoryWf (writeBytes mem a vs) = true := by
  induction vs generalizing mem a with
  | nil => exact h
  | cons v vs ih => exact ih (a + 1) (memoryWf_writeByte a v h)

/-- Memory at reset has the canonical form. -/
theorem memoryWf_reset : memoryWf State.reset.mem = true := rfl

/-! ## Read after write -/

/-- The written address reads as the value written. -/
theorem readByte_writeByte_same {mem : List Host.Cell} (a : Nat) (v : Byte) (h : memoryWf mem = true) :
    readByte (writeByte mem a v) a = v := by
  induction mem with
  | nil =>
    unfold writeByte
    split
    · rename_i hv; rw [hv]; rfl
    · simp [readByte]
  | cons e es ih =>
    obtain ⟨k, b⟩ := e
    have hab := memoryWf_above h
    obtain ⟨_, _, h3⟩ := (memoryWf_cons _ _ _).1 h
    unfold writeByte
    split
    · rename_i hk
      have : ¬ k = a := by omega
      rw [readByte, if_neg this]; exact ih h3
    · split
      · rename_i hk
        subst hk
        split
        · rename_i hv; rw [hv]; exact readByte_below hab
        · simp [readByte]
      · rename_i hk1 hk2
        split
        · rename_i hv
          rw [hv]
          apply readByte_below
          intro c hc
          rcases List.mem_cons.1 hc with rfl | hc
          · show a < k; omega
          · have := hab c hc; omega
        · simp [readByte]

/-- A write leaves every other address as it reads. -/
theorem readByte_writeByte_other (mem : List Host.Cell) (a a' : Nat) (v : Byte) (h : a' ≠ a) :
    readByte (writeByte mem a v) a' = readByte mem a' := by
  have ha : ¬ a = a' := fun e => h e.symm
  induction mem with
  | nil =>
    unfold writeByte
    split
    · rfl
    · simp [readByte, ha]
  | cons e es ih =>
    obtain ⟨k, b⟩ := e
    unfold writeByte
    split
    · simp only [readByte, ih]
    · split
      · rename_i hk
        subst hk
        split <;> simp [readByte, ha]
      · split
        · rfl
        · rw [readByte, if_neg ha]

/-- Writing bytes leaves every address outside them as it reads. -/
theorem readByte_writeBytes_other (mem : List Host.Cell) (a a' : Nat) (vs : List Byte) (h : a' < a ∨ a + vs.length ≤ a') :
    readByte (writeBytes mem a vs) a' = readByte mem a' := by
  induction vs generalizing mem a with
  | nil => rfl
  | cons v vs ih =>
    rw [List.length_cons] at h
    rw [writeBytes, ih _ _ (by omega), readByte_writeByte_other _ _ _ _ (by omega)]

/-- The bytes written read back. -/
theorem readByte_writeBytes {mem : List Host.Cell} (a : Nat) (vs : List Byte) (h : memoryWf mem = true) (i : Nat) (hi : i < vs.length) :
    readByte (writeBytes mem a vs) (a + i) = vs[i] := by
  induction vs generalizing mem a i with
  | nil => simp at hi
  | cons v vs ih =>
    rw [writeBytes]
    cases i with
    | zero =>
      rw [readByte_writeBytes_other _ _ _ _ (by omega), Nat.add_zero, readByte_writeByte_same a v h]; rfl
    | succ i =>
      have := ih (a + 1) (memoryWf_writeByte a v h) i (by simpa using hi)
      rw [show a + (i + 1) = a + 1 + i by omega, this]; rfl

/-! ## The store's writers -/

/-- A group write keeps the canonical form (R190). -/
theorem memoryWf_writeGroup (blocks : List Block) (off : Nat) (bytes : List Byte) (s : State) (h : memoryWf s.mem = true) :
    memoryWf (writeGroup blocks off bytes s).mem = true := by
  unfold writeGroup
  split
  · exact h
  · exact memoryWf_writeBytes _ _ h

/-- What a group write touches (R190): the memory and the bit errors of the group. -/
theorem writeGroup_frame (blocks : List Block) (off : Nat) (bytes : List Byte) (s : State) :
    writeGroup blocks off bytes s =
      { s with mem := (writeGroup blocks off bytes s).mem, dram := (writeGroup blocks off bytes s).dram } := by
  unfold writeGroup
  split <;> rfl

/-- Page data written keeps the canonical form. -/
theorem memoryWf_putBytes (bs : List Byte) (l : Landing) (s : State) (h : memoryWf s.mem = true) :
    memoryWf (putBytes bs l s).2.mem = true := by
  induction bs generalizing l s with
  | nil => exact h
  | cons b bs ih =>
    unfold putBytes
    dsimp only
    split
    · exact ih _ _ h
    · exact ih _ _ (memoryWf_writeGroup _ _ _ _ h)

/-- What page data written touches. -/
theorem putBytes_frame (bs : List Byte) (l : Landing) (s : State) :
    (putBytes bs l s).2 = { s with mem := (putBytes bs l s).2.mem, dram := (putBytes bs l s).2.dram } := by
  induction bs generalizing l s with
  | nil => rfl
  | cons b bs ih =>
    unfold putBytes
    dsimp only
    split
    · exact ih _ _
    · rw [ih, writeGroup_frame]

/-- A landing page after page data has joined it (R85, R32): its length and running CRC, with the blocks as they were. -/
theorem putBytes_landing (bs : List Byte) (l : Landing) (s : State) :
    (putBytes bs l s).1 = { l with
      length := l.length + bs.length, crc := crc32Run l.crc bs, held := (putBytes bs l s).1.held } := by
  induction bs generalizing l s with
  | nil => rfl
  | cons b bs ih =>
    unfold putBytes
    dsimp only
    split <;> (rw [ih]; simp [crc32Run]; omega)

/-- The end of a page keeps the canonical form. -/
theorem memoryWf_closeGroup (l : Landing) (s : State) (h : memoryWf s.mem = true) : memoryWf (closeGroup l s).mem = true := by
  unfold closeGroup
  split
  · exact h
  · exact memoryWf_writeGroup _ _ _ _ h

end Sys2Proof.Machine
end

