-- ==== Sys2Proof/Tests/Slice0.lean ====
section
/-! SUPPORT. Tests/Slice0.lean: the ill-formed commands that WellFormed refuses, for every command one step whose outcome the manual or a
calculation by hand gives, and for every statement that has hypotheses a state that meets them. -/

namespace Sys2Proof.Tests

open Sys2Proof Sys2Proof.Machine

-- One after another: each test waits for the kernel, and waiting side by side would hold a thread for each.
set_option Elab.async false

/-! ## Small states -/

/-- The state after a command. -/
def run (c : Instr) (s : State) : State :=
  match exec c s with
  | .next t => t
  | _ => State.reset

/-- A request with tag 9 whose length fits. -/
def env : Envelope := ⟨9, true⟩

/-- A part in phase READY, with a few free blocks and one spare, and a frame with tag 9 and some body at the head of the intake queue. -/
def ready : State :=
  { State.reset with
    part := { State.reset.part with phase := some .ready }
    store := { State.reset.store with free := [10, 11, 12, 13, 14, 15, 16, 17, 18, 19, 20, 21], spares := [32704] }
    link := { State.reset.link with rts := true, intake := [⟨0x20, 9, [0]⟩], classes := ⟨true, true, true, true, true, true⟩ } }

/-- The frame at the head is one with no body. -/
def bare (s : State) : State := { s with link := { s.link with intake := [⟨0x20, 9, []⟩] } }

/-- The part in another phase. -/
def inPhase (p : Option Phase) (s : State) : State := { s with part := { s.part with phase := p } }

/-- One page of a document. -/
def page (number length : Nat) (block : Block) (damaged : Bool) : Page :=
  ⟨number, .standard, 3, length, [block], 100, 0, .accept, damaged⟩

/-- An OPEN document of department 0 with one page in block 5. -/
def doc (number : Nat) : Document :=
  { newDocument number ⟨0, none, ⟨false, true, []⟩, .normal⟩ 0 ['1', '2'] none ⟨100, 0⟩ with
    life := .opened, disposition := .due, pages := [page 1 100 5 false] }

/-- The directory holds these documents. -/
def holding (ds : List Document) (s : State) : State := { s with dir := { s.dir with docs := ds, nextNumber := 50 } }

/-- Department 0's ready queue. -/
def queued (q : List Nat) (s : State) : State := setReady 0 (fun _ => q) s

/-- A request of department 0 waits. -/
def waiting (s : State) : State := { s with collect := { s.collect with queue := [⟨4, 0, 60, 60000⟩] } }

/-- A document's offer is open. -/
def offered (n : Nat) (s : State) : State := { s with collect := { s.collect with offers := [⟨n, 0, 5000⟩] } }

/-- A document's transfer is open at the start of its page 1. -/
def sending (n : Nat) (s : State) : State := { s with collect := { s.collect with transfer := some (Transfer.opened n) } }

/-- The count of unreleased entries. -/
def unreleased (n : Nat) (s : State) : State := { s with journal := { s.journal with unreleased := n } }

/-- A job of document 7. -/
def job (number : Nat) (line : Option LineNo) : Job := ⟨number, 7, 0, ['5', '5'], line.isSome, 0, 0, false, false, line⟩

/-- The job list, and the arbiter's view of line 0. -/
def withJobs (js : List Job) (s : State) : State := { s with fwd := { s.fwd with jobs := js, nextJob := 5 } }

/-- Line 0 as given. -/
def withLine (l : Line) (s : State) : State := modLine 0 (fun _ => l) s

/-- A line in service in a state of a call. -/
def line (c : Chan) (call : Option Call) : Line := { Line.fresh with service := .inService, chan := c, call := call }

/-- The record of a receiving call whose document is 3. -/
def rx : RxCall := { RxCall.ringing with closed := true, document := some 3, offeredMax := some 5, fineAllowed := some true, step := some 4 }

/-- The record of a sending call of job 2 and document 7. -/
def tx : TxCall := { TxCall.seized (job 2 (some 0)) with step := 4 }

/-- A receiving call in a state, with its wait. -/
def inbound (c : Chan) (w : Option Wait) (r : RxCall) : State := withLine (line c (some ⟨w, .receiver r⟩)) ready

/-- A sending call in a state, with its wait; it sends document 7. -/
def outbound (c : Chan) (w : Option Wait) (t : TxCall) : State :=
  holding [{ doc 7 with forwards := [⟨['5', '5'], .pending, 0, none, 0⟩] }]
    (withJobs [job 2 (some 0)] (withLine { line c (some ⟨w, .sender t⟩) with outbound := true } ready))

/-- The LANDING document of a receiving call. -/
def landingDoc : Document :=
  newDocument 3 ⟨0, none, ⟨true, true, []⟩, .normal⟩ 0 ['1', '2'] none ⟨100, 0⟩

/-- A receiving call that holds 16 blocks of department 0, with its document. -/
def receiving (c : Chan) (w : Option Wait) (r : RxCall) (d : Document) : State :=
  holding [d] (setAllotment 0 ⟨some 0, 16⟩ (setAcct 0 (fun a => { a with resv := 16 }) (inbound c w r)))

/-! ## WellFormed refuses -/

theorem test_wf_frame_without_bytes : (Instr.frameReceived []).wf = false := by decide +kernel
theorem test_wf_page_data_empty : (Instr.pageData 0 []).wf = false := by decide +kernel
theorem test_wf_page_data_long : (Instr.pageData 0 (List.replicate 257 1)).wf = false := by decide +kernel
theorem test_wf_outcome_of_job_0 : (Instr.attemptOutcome ⟨0, 0, .busy, 0⟩).wf = false := by decide +kernel
theorem test_wf_outcome_of_job_65536 : (Instr.attemptOutcome ⟨65536, 0, .busy, 0⟩).wf = false := by decide +kernel
theorem test_wf_outcome_of_501_pages : (Instr.attemptOutcome ⟨1, 0, .busy, 501⟩).wf = false := by decide +kernel
theorem test_wf_classification_of_no_number : (Instr.callerClassification [] .clean).wf = false := by decide +kernel
theorem test_wf_classification_of_a_letter : (Instr.callerClassification ['1', 'a'] .clean).wf = false := by decide +kernel
theorem test_wf_job_0_due : (Instr.jobDue 0).wf = false := by decide +kernel
theorem test_wf_job_65536_due : (Instr.jobDue 65536).wf = false := by decide +kernel
theorem test_wf_verify_step_of_0 : (Instr.verifyStep 0).wf = false := by decide +kernel
theorem test_wf_join_of_0 : (Instr.documentJoinsReadyQueue 0).wf = false := by decide +kernel
theorem test_wf_window_of_0 : (Instr.offerWindowExpiry 0).wf = false := by decide +kernel
theorem test_wf_retention_beyond_the_numbers : (Instr.retentionExpiry 4294967296).wf = false := by decide +kernel
theorem test_wf_host_entry_is_not_spontaneous : (Instr.spontaneousAppend (.discard 1)).wf = false := by decide +kernel
theorem test_wf_page_data_full : (Instr.pageData 0 (List.replicate 256 1)).wf = true := by decide +kernel

/-! ## The CRCs: the check values of their generators over the digits 1 to 9 -/

theorem test_crc32_check : crc32Final (crc32Run crc32Ones [0x31, 0x32, 0x33, 0x34, 0x35, 0x36, 0x37, 0x38, 0x39]) = 0xCBF43926 := by
  decide +kernel
theorem test_crc16_check : crc16 [0x31, 0x32, 0x33, 0x34, 0x35, 0x36, 0x37, 0x38, 0x39] = 0x29B1 := by decide +kernel

/-! ## One step of each command -/

/-- R222: the strap selects the rate. -/
theorem test_power_on : (run (.powerOn true) State.reset).link.rate = .fast ∧ (run (.powerOn true) State.reset).part.cause = .powerOn := by
  decide +kernel
theorem test_reset_pin_assert : (run .resetPinAssert ready).part.phase = none := by decide +kernel
theorem test_reset_pin_release : (run (.resetPinRelease false) ready).part.cause = .resetPin := by decide +kernel
theorem test_power_failure : (run .powerFailure ready).part.powerGood = false := by decide +kernel
/-- R2: the lists' ends. -/
theorem test_initialization : (run .storeInitializationComplete State.reset).store.spares.length = 64 ∧
    (run .storeInitializationComplete State.reset).part.phase = some .ready := by decide +kernel
/-- R205: a fault that persists outlives the pin, the initialization and a write of its group; another does not. -/
theorem test_persisting_fault :
    let s : State := { ready with dram := ⟨[⟨5, 0, false, true⟩, ⟨5, 0, false, false⟩], 3⟩ }
    (run .storeInitializationComplete (run (.resetPinRelease false) (run .resetPinAssert s))).dram = ⟨[⟨5, 0, false, true⟩], 3⟩ ∧
    (writeGroup [5] 0 [1, 2, 3, 4, 5, 6, 7, 8] s).dram = ⟨[⟨5, 0, false, true⟩], 3⟩ ∧
    groupError s.dram.faults 5 0 = some true := by decide +kernel

/-- R207: a frame of kind 0x20 and tag 7 with no body; the CRC-16 of 00 00 20 07, calculated apart, is 0xF2C1. -/
theorem test_frame_joins_the_intake_queue :
    (run (.frameReceived [0xC3, 0x3C, 0x00, 0x00, 0x20, 0x07, 0xC1, 0xF2]) ready).link.intake = [⟨0x20, 9, [0]⟩, ⟨0x20, 7, []⟩] := by decide +kernel
/-- R208: after a byte at 5 ms the gap is passed at 26 ms, and the rest of a frame that comes then joins nothing. -/
theorem test_gap_abandons :
    let s : State := { ready with link := { ready.link with rx := [0xC3, 0x3C, 0x00, 0x00], rxTime := 5 } }
    (run .byteGapTimeout s).link.stats.checkErrors = 1 ∧ (run .byteGapTimeout s).clock.run = 26 ∧
    (run (.frameReceived [0x20, 0x07, 0xC1, 0xF2]) { s with clock := ⟨25, ⟨0, 0⟩, false⟩ }).link.intake.length = 2 ∧
    (run (.frameReceived [0x20, 0x07, 0xC1, 0xF2]) { s with clock := ⟨26, ⟨0, 0⟩, false⟩ }).link.intake.length = 1 := by decide +kernel
theorem test_stop_bit_abandons :
    (run .byteWithoutStopBit { ready with link := { ready.link with rx := [0xC3, 0x3C, 0] } }).link.rx = [] := by decide +kernel
theorem test_request_to_send : (run (.requestToSendChange false) ready).link.rts = false := by decide +kernel
theorem test_begin_frame_send_takes_a_response :
    (run .beginFrameSend (respond 1 .readStatus .done .empty (mark .store ready))).link.onLine =
      some (.response ⟨1, .readStatus, .done, .empty⟩) := by decide +kernel
theorem test_unknown_kind :
    let s : State := { ready with link := { ready.link with intake := [⟨2, 1, []⟩] } }
    (run (.unknownKindRequest 1 2) s).link.responses = [⟨1, .unknown 2, .unknownKind, .empty⟩] ∧
    (run (.unknownKindRequest 1 2) s).link.intake = [] ∧ run (.unknownKindRequest 9 2) s = s ∧
    run (.unknownKindRequest 1 3) s = s := by decide +kernel

/-- R23: the cap is brought up to the guarantee. -/
theorem test_set_department : (acct (run (.setDepartment env 3 ['L'] 200 100 500) ready) 3).cap = 200 ∧
    (acct (run (.setDepartment env 3 ['L'] 200 100 500) ready) 3).retention = 168 := by decide +kernel
theorem test_remove_department_0 :
    (run (.removeDepartment env 0) ready).link.responses = [⟨9, .removeDepartment, .badArgument, .empty⟩] := by decide +kernel
/-- Chapter 3's worked example: key 61 with no collection and no destination. -/
theorem test_set_route_refused : (run (.setRoute env ['6', '1'] 0 (some false) (some false) (some .normal) []) ready).routes = [] := by
  decide +kernel
theorem test_remove_route : (run (.removeRoute env ['1', '7']) { ready with routes := [⟨['1', '7'], 0, ⟨false, true, []⟩, .normal⟩] }).routes =
    [] := by decide +kernel
/-- Chapter 3's worked example: 2124417 takes 4417, and 7 the default route. -/
theorem test_lookup : (lookupRoute [⟨['1', '7'], 3, ⟨false, true, []⟩, .normal⟩, ⟨['4', '4', '1', '7'], 3, ⟨false, true, []⟩, .urgent⟩]
    ['2', '1', '2', '4', '4', '1', '7']).key = some ['4', '4', '1', '7'] ∧
    (lookupRoute [⟨['1', '7'], 3, ⟨false, true, []⟩, .normal⟩] ['7']).key = none := by decide +kernel
theorem test_set_line : (lineAt (run (.setLine env 2 (some .inService) (some true) 9 none) ready) 2).maxStep = 5 ∧
    (lineAt (run (.setLine env 2 (some .inService) (some true) 9 none) ready) 2).acks = [⟨.presentIdle, 500⟩] := by decide +kernel
theorem test_reset_line : (lineAt (run (.resetLine env 0) (inbound .releasing none rx)) 0).reset = .awaitReset := by decide +kernel
theorem test_line_statistics_cleared :
    (lineAt (run (.readLineStatistics env 0 true) (withLine { Line.fresh with stats := ⟨1, 2, 3, 4, 5, 6, 7, 8, 9⟩ } ready)) 0).stats =
      LineStats.zero := by decide +kernel
/-- Chapter 5's example: lowering the fail limit from 6 to 3. -/
theorem test_fail_limit_lowered : (clampFails 3 [⟨['1'], 5, 5, 0⟩, ⟨['2'], 4, 3, 0⟩, ⟨['3'], 2, 1, 0⟩, ⟨['4'], 3, 0, 0⟩]).map
    CallerEntry.fails = [2, 2, 1, 0] := by decide +kernel
theorem test_set_policy : (run (.setPolicy env ⟨⟨some true, 100⟩, ⟨some false, 0⟩, ⟨some false, 0⟩, ⟨some false, 0⟩, ⟨some false, 0⟩,
    ⟨some false, 0⟩, ⟨some false, 0⟩, ⟨some true, 1⟩⟩) ready).policy = ⟨64, 4, 60, 3600, 6, 5, 2, 2⟩ := by decide +kernel
theorem test_read_status : (run (.readStatus env) (bare ready)).link.responses.length = 1 ∧
    (run (.readStatus env) ready).link.responses = [⟨9, .readStatus, .badLength, .empty⟩] := by decide +kernel
theorem test_restart : (run (.restart env) (bare ready)).part.phase = some .restarting ∧ (run (.restart env) (bare ready)).fwd.suspended = true ∧
    (run (.restart env) ready).link.responses = [⟨9, .restart, .badLength, .empty⟩] := by decide +kernel
theorem test_restart_end : (run .restartEnd (run (.restart env) (bare ready))).part.restarts = 1 ∧
    (run .restartEnd (run (.restart env) (bare ready))).journal.unreleased = 1 := by decide +kernel
theorem test_set_time : (run (.setTime env 5 2000) ready).clock.cal = ⟨5, 999⟩ ∧ (run (.setTime env 5 2000) ready).clock.trusted = true := by
  decide +kernel
theorem test_read_journal_0 : (run (.readJournal env 0) ready).link.responses = [⟨9, .readJournal, .badArgument, .empty⟩] := by decide +kernel
theorem test_release_journal : (run (.releaseJournal env 1) (run (.spontaneousAppend (.restart 1)) ready)).journal.unreleased = 0 := by
  decide +kernel
/-- Chapter 8's example: the number after 4,294,967,295 is 1. -/
theorem test_sequence_numbers_wrap :
    (run (.spontaneousAppend (.restart 1)) { ready with journal := ⟨[], 4294967295, 0, 0, false⟩ }).journal.nextSeq = 1 := by decide +kernel
theorem test_calendar_limit : (run .calendarClockLimit { ready with clock := ⟨0, ⟨4294967295, 990⟩, true⟩ }).clock.cal =
    ⟨4294967295, 999⟩ := by decide +kernel
theorem test_set_notices : (run (.setNotices env (some .keep) (some .keep) (some .disable) (some .keep) (some .keep) (some .keep))
    (mark .store ready)).link.notices = [] := by decide +kernel
theorem test_link_statistics : (run (.readLinkStatistics env true) { ready with link := { ready.link with stats := ⟨1, 2, 3, 4⟩ } }).link.stats =
    ⟨0, 0, 0, 0⟩ := by decide +kernel

theorem test_release_hold : (findDoc (run (.releaseHold env 7) (holding [{ doc 7 with life := .held, disposition := .none }] ready)) 7).map
    (fun d => (d.life, d.disposition)) = some (.opened, .due) := by decide +kernel
theorem test_discard : (run (.discardDocument env 7) (holding [doc 7] ready)).dir.docs = [] ∧
    (run (.discardDocument env 7) (holding [doc 7] ready)).store.free.getLast? = some 5 := by decide +kernel
/-- R38, R40: with a FAILED entry the cancelling of the last PENDING one falls back, and a waiting Collect is answered first. -/
theorem test_discard_falls_back :
    (run (.discardDocument env 7) (waiting (holding [{ doc 7 with
      disposition := .none, forwards := [⟨['5'], .failed, 1, none, 0⟩, ⟨['6'], .pending, 0, none, 0⟩] }] ready))).link.responses.map
      (fun x => (x.tag, x.kind)) = [(4, .collect), (9, .discardDocument)] := by decide +kernel
theorem test_verify : (run (.verifyDocument env 7) (holding [doc 7] ready)).dir.verifications = [⟨7, 9, 1, 0, 0xFFFFFFFF⟩] := by decide +kernel
theorem test_verify_step :
    (run (.verifyStep 7) (run (.verifyDocument env 7) (holding [{ doc 7 with pages := [page 1 0 5 false] }] ready))).dir.verifications = [] := by
  decide +kernel
theorem test_read_document : (run (.readDocument env 8 1) (holding [doc 7] ready)).link.responses = [⟨9, .readDocument, .noSuch, .empty⟩] := by
  decide +kernel
theorem test_list_documents : (run (.listDocuments env 0 (some .any) 0) (holding [doc 7, doc 9] ready)).link.responses =
    [⟨9, .listDocuments, .done, .documents [7, 9] false⟩] := by decide +kernel
theorem test_retention_expiry : (run (.retentionExpiry 7) (holding [{ doc 7 with life := .settled, deadline := some 3600000 }] ready)).dir.docs =
    [] := by decide +kernel
theorem test_collect_waits : (run (.collect env 0 0) ready).collect.queue = [⟨9, 0, 1, 1000⟩] := by decide +kernel
theorem test_collect_offers : (run (.collect env 0 10) (queued [7] (holding [doc 7] ready))).collect.offers = [⟨7, 0, 5000⟩] := by decide +kernel
theorem test_collect_expiry : (run (.collectExpiry 4) (waiting ready)).link.responses = [⟨4, .collect, .timedOut, .timedOut 0 60⟩] := by decide +kernel
theorem test_join_meets_a_request : (run (.documentJoinsReadyQueue 7) (waiting (holding [doc 7] ready))).collect.queue = [] := by decide +kernel
theorem test_accept : (run (.acceptOffer env 7) (offered 7 (holding [doc 7] ready))).collect.transfer.map Transfer.bytesSent = some 100 := by decide +kernel
theorem test_decline : (findDoc (run (.declineOffer env 7) (offered 7 (holding [doc 7] ready))) 7).map (fun d => d.declines) = some 1 := by decide +kernel
theorem test_offer_window : (run (.offerWindowExpiry 7) (offered 7 (holding [doc 7] ready))).clock.run = 5000 := by decide +kernel
theorem test_abort : (run (.abortTransfer env 7) (sending 7 (holding [doc 7] ready))).collect.transfer.map Transfer.ending =
    some (some .aborted) := by decide +kernel
theorem test_confirm : (findDoc (run (.confirmCollected env 7) (holding [{ doc 7 with disposition := .sent }] ready)) 7).map
    (fun d => d.life) = some .settled := by decide +kernel

theorem test_add_forward : (run (.addForward env 7 ['5']) (holding [doc 7] ready)).fwd.jobs.map Job.destination = [['5']] := by decide +kernel
theorem test_cancel_forward : (run (.cancelForward env 7 0) (outbound .dialling none tx)).fwd.jobs = [] := by decide +kernel
theorem test_resume : (run (.resumeForwarding env) { bare ready with fwd := { ready.fwd with suspended := true } }).fwd.runOwed = true := by decide +kernel
theorem test_read_jobs : (run (.readJobs env 5 1) ready).link.responses = [⟨9, .readJobs, .noSuch, .empty⟩] := by decide +kernel
/-- R137 and chapter 6's example: the delays of a base of 60 s are 60, 120, 240, 480 and 960 s. -/
theorem test_backoff : (List.range' 1 5).map (backoff 60 3600) = [60, 120, 240, 480, 960] := by decide +kernel
theorem test_attempt_outcome : (run (.attemptOutcome ⟨2, 0, .busy, 0⟩) (outbound .releasing none tx)).fwd.jobs.map Job.nextDue = [60000] := by
  decide +kernel
theorem test_job_due : (run (.jobDue 2) (withJobs [{ job 2 none with nextDue := 700 }] ready)).clock.run = 700 := by decide +kernel
theorem test_arbiter_keeps_the_reserve : (run .arbiterRun (withJobs [job 2 none] ready)).fwd.jobs = [job 2 none] := by decide +kernel

theorem test_read_caller_memory : (run (.readCallerMemory env 600) ready).link.responses =
    [⟨9, .readCallerMemory, .done, .callers 0 5 512 []⟩] := by decide +kernel
theorem test_forget_caller : (run (.forgetCaller env ['1']) { ready with callers := ⟨[⟨['1'], 3, 1, 0⟩], []⟩ }).link.responses =
    [⟨9, .forgetCaller, .done, .forgotten 3 1⟩] := by decide +kernel
/-- Chapter 5's example: the wrap at the bottom. -/
theorem test_classification_wraps :
    (run (.callerClassification ['3'] .failed)
      { ready with callers := ⟨[⟨['3'], 0, 1, 0⟩], []⟩, policy := { ready.policy with failLimit := 2 } }).callers.table = [] := by decide +kernel
theorem test_read_error_records : (run (.readErrorRecords env 0) ready).link.responses.length = 1 := by decide +kernel

theorem test_ring : (lineAt (run (.ring 0) (withLine (line .idle none) ready)) 0).chan = .alerted := by decide +kernel
theorem test_ring_end : (lineAt (run (.ringEnd 0) (inbound .alerted none rx)) 0).chan = .idle := by decide +kernel
theorem test_digits_stop_at_16 :
    (rxOf (lineAt (run (.digits 0 (List.replicate 20 '1') false) (inbound .alerted none RxCall.ringing)) 0)).map
      (fun c => (c.digits.length, c.closed)) = some (16, true) := by decide +kernel
theorem test_calling_number :
    (rxOf (lineAt (run (.callingNumber 0 ['0', '2']) (inbound .alerted none RxCall.ringing)) 0)).map (fun c => c.calling) =
      some (some ['0', '2']) := by decide +kernel
theorem test_digit_window : (rxOf (lineAt (run (.digitWindowExpiry 0) (inbound .alerted (some ⟨.digitWindow, 4000⟩) RxCall.ringing)) 0)).map
    (fun c => c.closed) = some true := by decide +kernel
theorem test_command_ack : (lineAt (run (.commandAck 0 .other)
    (withLine { line .seized (some ⟨none, .sender tx⟩) with acks := [⟨.dial ['5'], 500⟩] } ready)) 0).chan = .dialling := by decide +kernel
/-- R72: the late acknowledgment of a RESET that was abandoned, and that of the RESET now awaited. -/
theorem test_abandoned_ack :
    let s := withLine { line .releasing none with reset := .awaitReset, acks := [⟨.reset, 500⟩] } ready
    run (.commandAck 0 .abandoned) s = s ∧ (lineAt (run (.commandAck 0 .reset) s) 0).reset = .awaitPresent := by decide +kernel
theorem test_ack_limit : (lineAt (run (.ackLimitExpiry 0) (withLine { line .idle none with acks := [⟨.presentIdle, 500⟩] } ready)) 0).faultCause =
    some .ackTimeout := by decide +kernel
theorem test_front_end_fault : (lineAt (run (.frontEndFault 0) (withLine (line .idle none) ready)) 0).service = .fault := by decide +kernel
theorem test_remote_choice : (lineAt (run (.remoteChoice 0 4 .fine []) (receiving .negotiating none rx landingDoc)) 0).chan = .training := by
  decide +kernel
theorem test_training_done : (lineAt (run (.trainingDone 0 4 true) (receiving .training none rx landingDoc)) 0).chan = .receiving := by decide +kernel
theorem test_page_data : (run (.pageData 0 [1, 2, 3, 4, 5, 6, 7, 8, 9]) (receiving .receiving none rx landingDoc)).mem =
    [(81920, 1), (81921, 2), (81922, 3), (81923, 4), (81924, 5), (81925, 6), (81926, 7), (81927, 8)] := by decide +kernel
/-- Chapter 4's example: of 2,200 scan lines, 35 bad ones. -/
theorem test_judge : judge none 100 2200 35 = (.acceptRetrain, none) ∧ judge none 100 2200 34 = (.accept, none) ∧
    judge none 100 0 0 = (.reject, some .quality) ∧ judge none 0 2200 0 = (.reject, some .empty) := by decide +kernel
theorem test_page_end : (lineAt (run (.pageEnd 0 2200 0 true) (receiving .receiving none rx landingDoc)) 0).acks =
    [⟨.sendVerdict .reject, 500⟩] := by decide +kernel
theorem test_carrier_lost : (run (.carrierLost 0) (receiving .receiving none rx landingDoc)).dir.docs = [] := by decide +kernel
theorem test_released : (lineAt (run (.released 0) (outbound .releasing none tx)) 0).chan = .idle := by decide +kernel
theorem test_receiver_signal_wait : (lineAt (run (.receiverSignalWaitExpiry 0)
    (receiving .negotiating (some ⟨.receiverSignal, 6000⟩) rx landingDoc)) 0).acks = [⟨.release, 6500⟩] := by decide +kernel
theorem test_page_wait : (run (.pageWaitExpiry 0) (receiving .receiving (some ⟨.page, 12000⟩) rx landingDoc)).clock.run = 12000 := by decide +kernel
theorem test_release_wait : (lineAt (run (.releaseWaitExpiry 0) (outbound .releasing (some ⟨.release, 6000⟩) tx)) 0).faultCause =
    some .releaseTimeout := by decide +kernel
theorem test_connected : (lineAt (run (.connected 0) (outbound .dialling none tx)) 0).chan = .offeringWait := by decide +kernel
theorem test_dial_failed : (run (.dialFailed 0 .noTone) (outbound .dialling none tx)).fwd.handed = [⟨2, 0, .lineLost, 0⟩] := by decide +kernel
theorem test_dial_wait : (run (.dialWaitExpiry 0) (outbound .dialling (some ⟨.dial, 60000⟩) tx)).callers.handed = [⟨['5', '5'], .neutral⟩] := by
  decide +kernel
theorem test_remote_offer : (lineAt (run (.remoteOffer 0 3 false []) (outbound .offeringWait none tx)) 0).acks =
    [⟨.choose 3 .standard, 500⟩, ⟨.train 3, 500⟩] := by decide +kernel
theorem test_verdict : (run (.verdict 0 .accept) (outbound .awaitingVerdict none tx)).fwd.handed = [⟨2, 0, .delivered, 1⟩] := by decide +kernel
theorem test_sender_wait : (run (.senderWaitExpiry 0) (outbound .awaitingVerdict (some ⟨.sender, 6000⟩) tx)).callers.handed =
    [⟨['5', '5'], .failed⟩] := by decide +kernel

/-! ## States that meet the hypotheses of the statements, clause by clause -/

theorem witness_StepRunsTheFrontCommand : { ready with pending := [Instr.arbiterRun] }.pending = Instr.arbiterRun :: [] := rfl

theorem witness_IdleLetsAMillisecondPass : ready.pending = [] ∧ ready.part.phase ≠ none ∧ owed ready = [] ∧
    (0 * 1000 + 0 + 1 < 4294967295999) ∧ owed { ready with clock := ⟨0, ⟨4294967295, 998⟩, true⟩ } = [] ∧
    owed { ready with clock := ⟨18446744073709551615, ⟨0, 0⟩, false⟩ } = [] ∧
    owed { ready with fwd := { ready.fwd with runOwed := true } } = .arbiterRun :: [] := by decide +kernel

/-- With no command waiting a step answers: with this, the states below meet all the hypotheses of the statements about every step. -/
theorem witness_step (s : State) (h : s.pending = []) : step s = .next (idle s) := by
  simp [step, h]

theorem witness_StepKeepsMemoryCanonical : MemoryCanonical { ready with mem := [(0, 1), (5, 2)] } ∧
    step { ready with mem := [(0, 1), (5, 2)] } = .next (idle { ready with mem := [(0, 1), (5, 2)] }) := by
  refine ⟨?_, rfl⟩; unfold MemoryCanonical; decide +kernel

theorem witness_StepKeepsSparesConserved : SparesConserved { ready with store :=
    { ready.store with spares := List.replicate 63 0, retired := [1] } } := by
  intro; decide +kernel

/-- The store that initialization leaves. -/
def opened : State := initializedStore ready

theorem all_blocks : blocksFrom 0 poolBlocks ++ blocksFrom poolBlocks spareBlocks = List.finRange 32768 := by
  unfold blocksFrom poolBlocks spareBlocks
  rw [← List.map_append]
  apply List.ext_getElem
  · simp
  · intro i h _
    simp only [List.length_map, List.length_append, List.length_range'] at h
    have all : List.range' 0 32704 ++ List.range' 32704 64 = List.range' 0 32768 := by
      simpa using List.range'_append (s := 0) (m := 32704) (n := 64) (step := 1)
    simp only [all, List.getElem_map, List.getElem_range', List.getElem_finRange]
    apply Fin.ext
    simp
    omega

theorem witness_StepKeepsTheStoresBooks : StoreOk opened ∧ LinesOk opened ∧ isOpen opened = true := by
  refine ⟨?_, ⟨?_, ?_⟩, rfl⟩
  · constructor
    · exact ⟨.nil, fun _ h => nomatch h⟩
    · intro; rfl
    · intro _
      show (blocksFrom 0 poolBlocks ++ blocksFrom poolBlocks spareBlocks ++ [] ++ []).Perm _
      simp [all_blocks]
    · intro _
      have used : ((List.finRange 32).map (fun e => (acct opened e).used)).sum = 0 := by decide +kernel
      rw [used]
      simp [opened, initializedStore, blocksFrom, poolBlocks]
    · decide +kernel
    · decide +kernel
    · decide +kernel
    · decide +kernel
    · decide +kernel
    · refine ⟨.nil, fun m => Iff.intro (fun h => nomatch h) (fun ⟨_, h, _⟩ => nomatch h)⟩
    · exact fun _ h => nomatch h
    · intro n c h
      have none : ∀ n, rxOf (lineAt opened n) = none := by decide +kernel
      rw [none] at h; cases h
    · decide +kernel
    · decide +kernel
  · unfold Line.ok Line.quiet; decide +kernel
  · intro h; exact absurd h (by decide +kernel)

theorem witness_StepKeepsCollectMet : CollectMet (waiting ready) ∧ CollectMet (queued [7] ready) := by
  unfold CollectMet; decide +kernel

theorem witness_StepKeepsCallersOk : CallersOk { ready with callers := ⟨[⟨['1'], 5, 4, 0⟩, ⟨['1', '0'], 0, 0, 0⟩], []⟩ } := by
  unfold CallersOk; decide +kernel

theorem witness_StepKeepsLinesOk : LinesOk (withLine (line .alerted (some ⟨none, .receiver rx⟩)) ready) ∧
    LinesOk (withLine { line .idle none with service := .fault, returnState := some .busyOut, faultCause := some .frontEndFault } ready) := by
  unfold LinesOk Line.ok Line.quiet
  refine ⟨⟨fun n => ⟨?_, ?_, ?_, ?_, ?_⟩, fun h => ?_⟩, fun n => ⟨?_, ?_, ?_, ?_, ?_⟩, fun h => ?_⟩
  all_goals first
    | (revert n; decide +kernel)
    | exact absurd h (by decide +kernel)

theorem witness_StepKeepsTablesFit : TablesFit (waiting (holding [doc 7] ready)) := by
  constructor <;> decide +kernel

theorem witness_StepKeepsJobsOk : JobsOk (withJobs [job 1 (some 0), { job 65535 none with destination := ['5'] }] ready) := by
  unfold JobsOk; decide +kernel

theorem witness_StepKeepsJournalOk : JournalOk { ready with journal := ⟨[⟨4294967295, .restart 1, ⟨0, 0⟩, false⟩], 1, 0, 1, false⟩ } := by
  refine ⟨by decide, by decide, by decide, ?_, ?_⟩
  · intro i e f _ h; cases i <;> simp at h
  · intro e h; simp at h; subst h; rfl

/-- Each kind of state that changes only by its own commands does change by one of them. -/
theorem witness_OnlyTheirCommandsChangeThem :
    (run (.setPolicy env ⟨⟨some true, 9⟩, ⟨some false, 0⟩, ⟨some false, 0⟩, ⟨some false, 0⟩, ⟨some false, 0⟩, ⟨some false, 0⟩, ⟨some false, 0⟩,
      ⟨some false, 0⟩⟩) ready).policy ≠ ready.policy ∧
    (run (.setRoute env ['1', '7'] 0 (some true) (some true) (some .normal) []) ready).routes ≠ ready.routes ∧
    (run (.setNotices env (some .disable) (some .keep) (some .keep) (some .keep) (some .keep) (some .keep)) ready).link.classes ≠
      ready.link.classes ∧
    (run (.setTime env 5 0) ready).clock.trusted ≠ ready.clock.trusted ∧
    (run .restartEnd (inPhase (some .restarting) ready)).part.restarts ≠ ready.part.restarts ∧
    (run (.pageData 0 (List.replicate 8 1)) (receiving .receiving none rx landingDoc)).mem ≠ [] ∧
    (run (.jobDue 2) (withJobs [{ job 2 none with nextDue := 1 }] ready)).clock.run ≠ ready.clock.run := by decide +kernel

theorem witness_LeavingResetEmptiesThePart : ready.part.pinAsserted = false ∧ ready.part.powerGood = true ∧
    (run .resetPinAssert ready).part.pinAsserted = true ∧ (run .powerFailure ready).part.powerGood = false := by decide +kernel

theorem witness_InitializationOpensTheStore : State.reset.part.phase = some .starting ∧ ready.part.phase ≠ some .starting := by decide +kernel

/-- The responses that wait stand at 7 and at 8. -/
theorem witness_LinkTestsComeFirst :
    takesRequests 9 { ready with link := { ready.link with responses := List.replicate 7 ⟨1, .restart, .done, .empty⟩ } } = true ∧
    takesRequests 9 { ready with link := { ready.link with responses := List.replicate 8 ⟨1, .restart, .done, .empty⟩ } } = false ∧
    takesRequests 9 (inPhase (some .starting) ready) = true ∧ takesRequests 9 (inPhase (some .restarting) ready) = false ∧
    takesRequests 1 ready = false ∧ ready.link.intake = ⟨0x20, 9, [0]⟩ :: [] ∧ lengthFits ⟨9, false⟩ .restart (bare ready) = true ∧
    lengthFits env .restart ready = false ∧ lengthFits env .setLine ready = true ∧ lengthFits env .setLine (bare ready) = false ∧
    requestOf (.restart ⟨9, false⟩) = some (⟨9, false⟩, .restart) := by decide +kernel

theorem witness_ReadsChangeNothing : isReading (.readStatus env) = true ∧ requestOf (.readStatus env) = some (env, .readStatus) ∧
    takesRequests 9 ready = true := by decide +kernel

theorem witness_ReadStatusReportsTheFigures : (inPhase (some .starting) ready).part.phase = some .starting ∧
    ready.part.phase = some .ready ∧ ready.link.responses.length < 8 ∧
    atHead 9 (inPhase (some .starting) (bare ready)) = true ∧ emptyBody (bare ready) = true := by decide +kernel

/-- A request handed to its owner; every statement about a request has it among its hypotheses. -/
theorem witness_takes : Takes ready env := ⟨rfl, by decide, rfl, rfl, rfl⟩
theorem witness_takes_bare : TakesBare (bare ready) env := ⟨rfl, by decide, rfl, rfl⟩

theorem witness_ReadLineStatisticsAnswers : Takes ready env ∧ 15 < 16 ∧ (15 : LineNo).val = 15 := ⟨witness_takes, by decide, rfl⟩

theorem witness_DirectoryReadsAnswer : Takes (holding [doc 7] ready) env ∧ findDoc (holding [doc 7] ready) 7 = some (doc 7) ∧
    findDoc (holding [doc 7] ready) 8 = none ∧ (acct ready 0).configured = true ∧ (acct ready 31).configured = false := by
  unfold Takes; decide +kernel

theorem witness_TableReadsAnswer : Takes ready env ∧ findDoc (holding [doc 7] ready) 7 ≠ none ∧ findDoc ready 7 = none ∧
    (1 : Nat) = ready.integrity.nextSerial := by unfold Takes; decide +kernel

/-- A number held, the number not yet written next to it, and one far before them. -/
theorem witness_ReadJournalAnswers :
    let s : State := { ready with journal := ⟨[⟨5, .restart 1, ⟨0, 0⟩, false⟩], 6, 0, 1, false⟩ }
    Takes s env ∧ s.journal.ring.head? = some ⟨5, .restart 1, ⟨0, 0⟩, false⟩ ∧ 5 - 5 < s.journal.ring.length ∧
    s.journal.ring.length ≤ 6 - 5 ∧ 6 - 5 ≤ 2147483648 ∧ 2147483648 < 4 + 4294967295 - 5 ∧ ready.journal.ring = [] := by
  unfold Takes; decide +kernel

/-- A department that passes every test at the top guarantee; one whose cap lies below its blocks; one whose guarantee is too much; and
the raise of the manual's example, from 2,000 to 3,500 (chapter 1). -/
theorem witness_SetDepartmentFollowsItsTests :
    let set (c : Nat) (g : Nat) (u : Nat) : Account := ⟨true, [], g, c, 0, u, 0, none⟩
    let worked := setAcct 3 (fun _ => set 32704 12000 13434) (setAcct 2 (fun _ => set 32704 8000 15972) (setAcct 0 (fun _ => set 32704 2000 916) ready))
    Takes ready env ∧ isName ['L'] = true ∧ isName (List.replicate 13 'L') = false ∧ guarantees ready + 31680 ≤ 31680 ∧
    31680 < guarantees (setAcct 0 (fun _ => set 32704 1 0) ready) + 31680 ∧ 0 < (acct (setAcct 3 (fun _ => set 9 0 1) ready) 3).used ∧
    sharedPool worked = 10704 ∧ sharedCommitted worked = 9406 ∧
    departmentCheck worked 0 (set 32704 3500 916) = some .limit ∧ departmentCheck worked 3 (set 32704 13000 13434) = none := by
  unfold Takes; decide +kernel

theorem witness_RemoveDepartmentFollowsItsTests :
    let s := setAcct 31 (fun _ => ⟨true, [], 0, 9, 0, 0, 0, none⟩) ready
    Takes s env ∧ (acct s 31).configured = true ∧ departmentInUse s 31 = false ∧ (acct s 1).configured = false ∧
    departmentInUse (setAcct 31 (fun a => { a with resv := 1 }) s) 31 = true := by unfold Takes; decide +kernel

theorem witness_RoutesFollowTheirRequests : Takes ready env ∧ isKey ['1'] = false ∧ isKey ['1', '7'] = true ∧
    isKey (List.replicate 6 '0') = true ∧ isKey (List.replicate 7 '0') = false ∧ (acct ready 0).configured = true ∧
    (acct ready 3).configured = false ∧ findRoute ready.routes ['1', '7'] = none ∧
    256 ≤ { ready with routes := List.replicate 256 ⟨['1', '8'], 0, ⟨false, true, []⟩, .normal⟩ }.routes.length ∧
    findRoute { ready with routes := [⟨['1', '7'], 0, ⟨false, true, []⟩, .normal⟩] }.routes ['1', '7'] ≠ none := by
  unfold Takes; decide +kernel

theorem witness_LookupTakesTheLongestKey :
    ([⟨['1', '7'], 3, ⟨false, true, []⟩, .normal⟩, ⟨['4', '4', '1', '7'], 3, ⟨false, true, []⟩, .urgent⟩] : List RouteEntry).map
      RouteEntry.key |>.Nodup := by decide +kernel

/-- On an IDLE line in the state asked for and in another, on one that is not IDLE, and on one in FAULT. -/
theorem witness_SetLineFollowsItsRequest : Takes ready env ∧ (lineAt ready 0).chan = .idle ∧ (lineAt ready 0).service = .busyOut ∧
    (lineAt (withLine (line .dialling none) ready) 0).chan ≠ .idle ∧
    (lineAt (withLine { line .idle none with service := .fault } ready) 0).service = .fault := by unfold Takes; decide +kernel

/-- One ringing line that stays one ring short of 9, and two that have the 2 rings a policy asks for. -/
theorem witness_SetPolicyAppliesMarkedSettings :
    let s := inbound .alerted none { rx with rings := 8 }
    let t := modLine 5 (fun _ => line .alerted (some ⟨none, .receiver { rx with rings := 2 }⟩)) s
    Takes s env ∧ (∀ n, ∀ x ∈ rxOf (lineAt s n), (lineAt s n).chan = .alerted → x.closed = true → x.rings < 9) ∧
    Takes t env ∧ ([0, 5] : List LineNo).Pairwise (· < ·) ∧
    ∀ n, n ∈ ([0, 5] : List LineNo) ↔ ∃ x ∈ rxOf (lineAt t n), (lineAt t n).chan = .alerted ∧ x.closed = true ∧ 2 ≤ x.rings := by
  unfold Takes; decide +kernel

theorem witness_SetTimeAndTheClocksLimit : Takes (unreleased 8127 ready) env ∧ Takes (unreleased 8128 ready) env ∧
    ready.part.phase ≠ none := by unfold Takes; decide +kernel

/-- A release of all that is unreleased, of one step more, and over the end of the cycle. -/
theorem witness_ReleaseJournalMovesThePoint :
    let s : State := { ready with journal := ⟨[⟨5, .restart 1, ⟨0, 0⟩, false⟩], 6, 4, 1, true⟩ }
    Takes s env ∧ s.journal.releasePoint ≤ 4294967295 ∧ forward s.journal.releasePoint 5 = 1 ∧ forward s.journal.releasePoint 6 = 2 ∧
    s.journal.ring.getLast? = some ⟨5, .restart 1, ⟨0, 0⟩, false⟩ ∧ forward 4294967295 1 = 1 ∧ 2147483647 < forward 4 3 := by
  unfold Takes; decide +kernel

theorem witness_AppendsTakeTheirPlace : ready.part.phase ≠ none ∧ isSpontaneous (.restart 1) = true ∧
    (unreleased 8191 ready).journal.unreleased < 8192 ∧ 8192 ≤ (unreleased 8192 ready).journal.unreleased := by decide +kernel

/-- A whole frame, all of it but its last byte, a length of 1,101, and a check with one bit wrong. -/
theorem witness_FramesJoinTheIntakeQueue :
    let f : Frame := ⟨0x20, 7, []⟩
    let off : List Byte := (frameBytes f).dropLast ++ [0]
    ready.part.phase ≠ none ∧ ready.link.intake.length < 8 ∧ ready.link.rx ++ frameBytes f = frameBytes f ∧ f.body.length ≤ 1100 ∧
    (frameBytes f).dropLast <+: frameBytes f ∧ (frameBytes f).dropLast ≠ frameBytes f ∧
    1100 < (0x4D : Byte).toNat + 256 * (0x04 : Byte).toNat ∧ off.length = (frameBytes f).length ∧ off.take 6 = (frameBytes f).take 6 ∧
    off ≠ frameBytes f ∧ (0xC3 : Byte) ∉ (frameBytes ⟨0x21, 7, []⟩).tail ∧ (0xC3 : Byte) ∉ off.tail := by decide +kernel

/-- Two bytes of a frame held: 20 ms and 21 ms after the last; one byte held; and none. -/
theorem witness_FramesAndTheGap :
    let s (rx : List Byte) (now : Nat) : State := { ready with link := { ready.link with rx := rx, rxTime := 5 }, clock := ⟨now, ⟨0, 0⟩, false⟩ }
    ¬ (s [0xC3, 0x3C] 25).link.rxTime + 20 < (s [0xC3, 0x3C] 25).clock.run ∧ 2 ≤ (s [0xC3, 0x3C] 26).link.rx.length ∧
    (s [0xC3, 0x3C] 26).link.rxTime + 20 < (s [0xC3, 0x3C] 26).clock.run ∧ (s [0xC3] 26).link.rx.length < 2 ∧
    (inPhase none (s [] 0)).part.phase = none := by decide +kernel

theorem witness_SetNoticesAndLinkStatistics : Takes ready env := witness_takes

/-- A response, a notice, a Transfer End, and nothing that waits. -/
theorem witness_SchedulerTakesResponsesFirst :
    let s := sending 7 (holding [doc 7] ready)
    s.part.phase ≠ none ∧ s.link.rts = true ∧ s.link.responses = [] ∧ s.link.notices = [] ∧ s.link.waiting = none ∧
    (mark .store s).link.notices = [.store] ∧ s.part.phase ≠ some .restarting ∧ s.link.holdNotices = false ∧
    s.collect.transfer = some (Transfer.opened 7) := by decide +kernel

/-- A Page Data frame of document 7 waits: its page is next, or none is left. -/
theorem witness_TransferSendsPagesInOrder :
    let s : State := { sending 7 (holding [doc 7] ready) with link := { ready.link with waiting := some (.pageData 7 1 0 []) } }
    s.part.phase ≠ none ∧ s.link.rts = true ∧ s.link.responses = [] ∧ s.link.notices = [] ∧
    s.collect.transfer = some (Transfer.opened 7) ∧ findDoc s 7 = some (doc 7) ∧ s.dram.faults = [] ∧ 1 ≤ (Transfer.opened 7).page ∧
    (Transfer.opened 7).offset % 1024 = 0 ∧ ∀ p ∈ (doc 7).pages, p.length ≤ p.blocks.length * 8192 := by decide +kernel

/-- The page next is none, one marked damaged, one whose read is good, and one whose first group has an error that cannot be corrected;
and a frame that begins past a notice in phase RESTARTING. -/
theorem witness_PreparedFrames :
    let s (pages : List Page) (dram : List DramFault) : State := { sending 7 (holding [{ doc 7 with pages := pages }] ready) with dram := ⟨dram, 0⟩ }
    let bad : List DramFault := [⟨5, 0, true, false⟩]
    (s [] []).collect.transfer = some (Transfer.opened 7) ∧ findDoc (s [] []) 7 = some { doc 7 with pages := [] } ∧
    ([] : List Page)[(Transfer.opened 7).page - 1]? = none ∧ (page 1 100 5 true).damaged = true ∧ (page 1 100 5 false).damaged = false ∧
    (readSpan .transfer 7 (page 1 100 5 false) 0 1024 (s [page 1 100 5 false] [])).2.isSome = true ∧
    (readSpan .transfer 7 (page 1 100 5 false) 0 1024 (s [page 1 100 5 false] bad)).2 = none ∧
    (inPhase (some .restarting) (mark .store ready)).part.phase = some .restarting := by decide +kernel

/-- The last span of a block: no error in it, one wrong bit in its last group, a fault of two bits in its first, and two faults of one bit
in one group; and a block of each health with and without a spare. -/
theorem witness_ReadsAndFreedBlocksAreChecked :
    let pg := page 1 8192 5 false
    let f (g : Fin 1024) (double : Bool) : DramFault := ⟨5, g, double, false⟩
    wrongBits [f 1023 false] 5 1023 = 1 ∧ wrongBits [f 1023 false, ⟨5, 1023, false, true⟩] 5 1023 = 2 ∧
    pg.blocks[7168 / 8192]? = some 5 ∧ 0 < min 1024 (pg.length - 7168) ∧ 7168 % 8192 + min 1024 (pg.length - 7168) ≤ 8192 ∧
    7168 / 8 ≤ (f 1023 false).group.val ∧ (f 1023 false).group.val ≤ (7168 + 1024 - 1) / 8 ∧ 7168 / 8 = (f 896 true).group.val ∧
    (healthOf [(5, ⟨.weak, 4⟩)] 5).health ≠ .healthy ∧ (healthOf [] 5).health = .healthy ∧ ready.store.spares = [32704] := by
  decide +kernel

/-- Document 7, SETTLED, of a department, alone on the reclaim list. -/
def reclaimable (d : Dept) (s : State) : State :=
  { s with dir := { s.dir with docs := [{ doc 7 with dept := d, life := .settled }], reclaim := [7], nextNumber := 50 } }

/-- A pool of 1,024 shared blocks of which department 1 has borrowed all but 16. -/
def borrowed : State :=
  setAcct 1 (fun _ => ⟨true, [], 0, 32704, 0, 1008, 0, none⟩) (setAcct 2 (fun _ => ⟨true, [], 31680, 32704, 0, 0, 0, none⟩) ready)

/-- A reservation that just fits by the cap and by the shared pool, and one block more of each. -/
theorem witness_ReservationsFollowTheTest :
    let s := setAcct 0 (fun a => { a with cap := 16 }) ready
    allotment s 0 = ⟨none, 0⟩ ∧ CapPasses s 0 16 ∧ SharedPasses s 0 16 ∧ CapPasses borrowed 0 16 ∧ SharedPasses borrowed 0 16 ∧
    ¬ CapPasses s 0 17 ∧ CapPasses borrowed 0 17 ∧ ¬ SharedPasses borrowed 0 17 ∧
    (reserve 0 0 16 s).2 = true ∧ (reserve 0 0 17 s).2 = false ∧ (reserve 0 0 16 borrowed).2 = true ∧
    (reserve 0 0 17 borrowed).2 = false := by unfold CapPasses SharedPasses; decide +kernel

/-- With nothing on the reclaim list the test fails by the cap, and by the shared pool. -/
theorem witness_TestFails : TestFails (setAcct 0 (fun a => { a with cap := 16 }) ready) 0 17 .cap ∧ TestFails borrowed 0 17 .shared := by
  unfold TestFails NoneLeft CapPasses SharedPasses; decide +kernel

/-- The oldest document of the department itself goes first, and with none of its own that of a department that borrows. -/
theorem witness_Reclaims : Reclaims (reclaimable 0 borrowed) 0 17 7 ∧ Reclaims (reclaimable 1 borrowed) 0 17 7 := by
  have tests : (¬ (CapPasses (reclaimable 0 borrowed) 0 17 ∧ SharedPasses (reclaimable 0 borrowed) 0 17)) ∧
      (¬ (CapPasses (reclaimable 1 borrowed) 0 17 ∧ SharedPasses (reclaimable 1 borrowed) 0 17)) ∧ CapPasses (reclaimable 1 borrowed) 0 17 ∧
      NoneLeft (reclaimable 1 borrowed) (fun x => x.dept = 0) := by unfold NoneLeft CapPasses SharedPasses; decide +kernel
  refine ⟨⟨tests.1, .inl ⟨[], _, [], rfl, rfl, rfl, rfl, by simp⟩⟩, tests.2.1, .inr ⟨tests.2.2.2, tests.2.2.1, [], _, [], rfl, rfl, rfl, ?_, by simp⟩⟩
  decide +kernel

/-- A line that rings, one in a call of each role, and one IDLE. -/
theorem witness_RestartBringsAllToAnEnd : TakesBare (bare (inbound .alerted none rx)) env ∧ (lineAt (inbound .alerted none rx) 0).chan = .alerted ∧
    inReceiving (lineAt (inbound .verdict none rx) 0) = true ∧ inSending (lineAt (outbound .seized none tx) 0) = true ∧
    inReceiving (lineAt ready 1) = false ∧ inSending (lineAt ready 1) = false := by unfold TakesBare; decide +kernel

/-- The state of a Restart: a receiving call on line 0 whose landing page holds 3 bytes of a group, an offer of document 7, and a
verification of document 9, whose deadline has passed. -/
def restarting (deadline : Nat) : State :=
  let l : Landing := ⟨1, .standard, 4, [5], 3, [1, 2, 3], 0⟩
  let s := bare (receiving .receiving none rx { landingDoc with landing := some l })
  { offered 7 s with
    dir := { s.dir with
      docs := [{ landingDoc with landing := some l }, { doc 7 with disposition := .offered },
        { doc 9 with life := .settled, disposition := .done, verifying := true, deadline := some deadline }]
      reclaim := [9], verifications := [⟨9, 1, 1, 0, 0⟩] } }

theorem witness_RestartFits : RestartFits (restarting 100) ∧ TakesBare (restarting 100) env := by
  have lines : receivingLines (restarting 100) = [0] := by decide +kernel
  refine ⟨⟨?_, by decide +kernel, by decide +kernel, ?_, by decide +kernel, by decide +kernel, ?_, ?_⟩, by unfold TakesBare; decide +kernel⟩
  · intro n h
    rw [lines, List.mem_singleton] at h
    subst h
    refine ⟨rx, { landingDoc with landing := some ⟨1, .standard, 4, [5], 3, [1, 2, 3], 0⟩ }, rfl,
      ⟨rfl, rfl, rfl, fun h => absurd h (by decide)⟩, rfl, rfl, rfl, by decide +kernel, ?_⟩
    intro l h
    cases h; rfl
  · refine ⟨by decide +kernel, fun m h => ?_⟩
    have returned : returnedDocs (restarting 100) = [7] := by decide +kernel
    rw [returned, List.mem_singleton] at h
    subst h
    exact ⟨_, rfl, rfl, by decide +kernel⟩
  · unfold MemoryCanonical; decide +kernel
  · intro v h d e x k
    have verified : (restarting 100).dir.verifications = [⟨9, 1, 1, 0, 0⟩] := rfl
    rw [verified, List.mem_singleton] at h
    subst h
    cases e; cases k; decide +kernel

/-- A verification that ends at Restart, its document's deadline passed. -/
theorem witness_RestartPurges : (⟨9, 1, 1, 0, 0⟩ : Verification) ∈ (restarting 0).dir.verifications ∧
    (findDoc (restarting 0) 9).map (fun d => (d.life, d.deadline)) = some (.settled, some 0) ∧ 0 ≤ (restarting 0).clock.run ∧
    ∀ y ∈ callDocuments (restarting 0), y.number ≠ 9 := by decide +kernel

theorem witness_RestartEndAnswers :
    let s := run (.restart env) (bare (holding [{ doc 7 with deadline := some 1 }] ready))
    ready.part.phase ≠ some .restarting ∧ s.part.phase = some .restarting ∧ s.part.tally.isSome = true ∧
    ∀ d ∈ s.dir.docs, ∀ x ∈ d.deadline, s.clock.run < x := by decide +kernel

/-- One document whose deadline has passed in the phase; its purge gives its block back. -/
theorem witness_RestartEndPurges :
    let d : Document := { doc 7 with life := .settled, deadline := some 5 }
    let s : State := { run (.restart env) (bare (reclaimable 0 ready)) with clock := ⟨5, ⟨0, 0⟩, false⟩ }
    let t := holding [d] s
    t.part.phase = some .restarting ∧ t.dir.reclaim.Nodup ∧ [d].map (fun d => some d) =
      ((t.dir.reclaim.map (findDoc t)).filter (fun o => o.any (fun d => decide (d.life = .settled) && !d.verifying &&
        d.deadline.any (fun x => decide (x ≤ t.clock.run))))) ∧ (run .restartEnd t).dir.docs = [] ∧
    (run .restartEnd t).store.free.getLast? = some 5 := by decide +kernel

/-- HELD documents with each plan, the job list as full as it may be. -/
theorem witness_ReleaseHoldOpensTheDocument :
    let d : Document := { doc 7 with life := .held, disposition := .none }
    let e : Document := { d with plan := ⟨true, false, [['5']]⟩ }
    Takes (holding [d] ready) env ∧ findDoc (holding [d] ready) 7 = some d ∧ d.life = .held ∧ d.forwards = [] ∧ d.disposition = .none ∧
    7 ∉ readyQueue (holding [d] ready) 0 ∧ d.plan.collect = true ∧ e.plan.dests ≠ [] ∧
    (withJobs (List.replicate 255 (job 1 none)) (holding [e] ready)).fwd.jobs.length + e.plan.dests.length ≤ 256 ∧
    (doc 7).life ≠ .held ∧ findDoc ready 7 = none := by unfold Takes; decide +kernel

theorem witness_DiscardAndRetentionPurge :
    let d : Document := { doc 7 with life := .settled, deadline := some 5 }
    Takes (holding [doc 7] ready) env ∧ findDoc (holding [doc 7] ready) 7 = some (doc 7) ∧
    discardBlocked (holding [doc 7] ready) (doc 7) = false ∧ discardBlocked ready { doc 7 with life := .landing } = true ∧
    (unreleased 8127 ready).journal.unreleased < 8128 ∧ (doc 7).forwards.length ≤ 4 ∧ findDoc ready 7 = none ∧
    ready.part.phase = some .ready ∧ findDoc (holding [d] ready) 7 = some d ∧ d.life = .settled ∧ d.deadline = some 5 ∧ d.verifying = false ∧
    (inPhase (some .restarting) ready).part.phase ≠ some .ready := by unfold Takes; decide +kernel

/-- A document that falls back as it is discarded, with a Collect of its department waiting and with none. -/
theorem witness_DiscardFallsBack :
    let d : Document := { doc 7 with disposition := .none, forwards := [⟨['5'], .failed, 1, none, 0⟩, ⟨['6'], .pending, 0, none, 0⟩] }
    let s := holding [d] ready
    Takes s env ∧ findDoc s 7 = some d ∧ discardBlocked s d = false ∧ d.life = .opened ∧ d.disposition = .none ∧
    (∃ e ∈ d.forwards, e.state = .pending) ∧ (∃ e ∈ d.forwards, e.state = .failed) ∧ (∀ w ∈ s.collect.queue, w.dept ≠ d.dept) ∧
    (waiting s).collect.queue = [] ++ ⟨4, 0, 60, 60000⟩ :: [] ∧ s.journal.unreleased < 8128 := by unfold Takes; decide +kernel

/-- The request's tests, with 3 and 4 verifications; and a step inside a page, at its end and at the document's. -/
theorem witness_VerificationCarriesTheCrc :
    let d : Document := { doc 7 with verifying := true, pages := [page 1 2000 5 false, page 2 100 6 false] }
    let s (v : Verification) : State := { holding [d] ready with dir := { (holding [d] ready).dir with verifications := [v] } }
    let v : Verification := ⟨7, 9, 1, 0, 0xFFFFFFFF⟩
    Takes (holding [doc 7] ready) env ∧ (doc 7).life ≠ .landing ∧ (doc 7).verifying = false ∧ (s v).dram.faults = [] ∧
    (s v).dir.verifications.find? (fun x => decide (x.doc = 7)) = some v ∧ findDoc (s v) 7 = some d ∧ 1 ≤ v.page ∧
    d.pages[v.page - 1]? = some (page 1 2000 5 false) ∧ ¬ 2000 ≤ v.offset + 1024 ∧ 2000 ≤ 1024 + 1024 ∧
    d.pages[2 - 1]? = some (page 2 100 6 false) ∧ 2 = d.pages.length ∧ d.deadline = none := by unfold Takes; decide +kernel

/-- The last step of a SETTLED document's verification, one millisecond before its deadline and at it: there the document is purged, its
block given back and the response sent, after a good read and after an uncorrectable one. -/
theorem witness_VerificationEndsPastTheDeadline :
    let d : Document := { doc 7 with life := .settled, disposition := .done, verifying := true, deadline := some 60 }
    let v : Verification := ⟨7, 9, 1, 0, 0xFFFFFFFF⟩
    let s (now : Nat) (dram : List DramFault) : State :=
      { holding [d] ready with
        clock := ⟨now, ⟨0, 0⟩, false⟩, dram := ⟨dram, 0⟩
        dir := { (holding [d] ready).dir with reclaim := [7], verifications := [v] } }
    let bad : List DramFault := [⟨5, 0, true, false⟩]
    (s 60 bad).dir.verifications.find? (fun x => decide (x.doc = 7)) = some v ∧ findDoc (s 60 bad) 7 = some d ∧
    d.pages[v.page - 1]? = some (page 1 100 5 false) ∧ 100 ≤ v.offset + 1024 ∧ v.page = d.pages.length ∧
    d.life = .settled ∧ d.deadline = some 60 ∧ 60 ≤ (s 60 bad).clock.run ∧ ¬ 60 ≤ (s 59 bad).clock.run ∧
    (readSpan .verify 7 (page 1 100 5 false) 0 1024 (s 60 [])).2.isSome = true ∧
    (readSpan .verify 7 (page 1 100 5 false) 0 1024 (s 60 bad)).2 = none ∧
    (findDoc (run (.verifyStep 7) (s 59 bad)) 7).map (fun e => (e.verifying, e.deadline)) = some (false, some 60) ∧
    (∀ dram ∈ [[], bad], let t := run (.verifyStep 7) (s 60 dram)
      t.dir.docs = [] ∧ t.dir.reclaim = [] ∧ t.link.responses.map Response.tag = [9] ∧ Subject.department 0 ∈ t.link.notices ∧
      t.store.free.length = 13) := by decide +kernel

/-- A step whose read is uncorrectable, on a page that is not the last and on the last. -/
theorem witness_VerificationMeetsAnError :
    let s (dram : List DramFault) : State := { ready with dram := ⟨dram, 0⟩ }
    (readSpan .verify 7 (page 1 2000 5 false) 0 1024 (s [⟨5, 0, true, false⟩])).2 = none ∧
    (readSpan .verify 7 (page 2 100 6 false) 0 1024 (s [⟨6, 12, true, false⟩])).2 = none ∧
    (readSpan .verify 7 (page 2 100 6 false) 0 1024 (s [⟨6, 13, true, false⟩])).2.isSome = true := by decide +kernel

/-- No document ready with 31 and with 32 requests waiting, and one ready. -/
theorem witness_CollectOffersOrWaits :
    let q (k : Nat) : State := { ready with collect := { ready.collect with queue := List.replicate k ⟨4, 0, 60, 60000⟩ } }
    let s := queued [7] (holding [doc 7] ready)
    Takes (q 31) env ∧ (acct (q 31) 0).configured = true ∧ readyQueue (q 31) 0 = [] ∧ (q 31).collect.queue.length < 32 ∧
    32 ≤ (q 32).collect.queue.length ∧ (acct ready 1).configured = false ∧ readyQueue s 0 = 7 :: [] ∧ findDoc s 7 = some (doc 7) ∧
    (doc 7).dept = 0 ∧ (waiting ready).collect.queue = [] ++ ⟨4, 0, 60, 60000⟩ :: [] := by unfold Takes; decide +kernel

/-- Of two requests with one tag the second falls due first; and no request has tag 5. -/
theorem witness_CollectExpiryNamesTheFirstDue :
    let s : State := { ready with collect := { ready.collect with queue := [⟨4, 0, 60, 60000⟩, ⟨4, 0, 60, 50000⟩, ⟨3, 0, 60, 60000⟩] } }
    s.collect.queue = [⟨4, 0, 60, 60000⟩, ⟨4, 0, 60, 50000⟩] ++ ⟨3, 0, 60, 60000⟩ :: [] ∧
    (∀ v ∈ s.collect.queue.take 2, v.tag ≠ 3) ∧ (∀ v ∈ s.collect.queue, v.tag ≠ 5) ∧
    (run (.collectExpiry 4) s).collect.queue = [⟨4, 0, 60, 60000⟩, ⟨3, 0, 60, 60000⟩] := by decide +kernel

/-- A document that no request waits for and one that meets the first of two; with an open offer and with none. -/
theorem witness_DeclinedOffersReturnToTheQueue :
    let s := offered 7 (holding [doc 7] ready)
    Takes s env ∧ findDoc s 7 = some (doc 7) ∧ 7 ∉ readyQueue s (doc 7).dept ∧ (doc 7).life = .opened ∧ (doc 7).disposition = .due ∧
    (⟨7, 0, 5000⟩ : Offer) ∈ s.collect.offers ∧ (∀ o ∈ ready.collect.offers, o.doc ≠ 7) ∧
    (∀ w ∈ s.collect.queue, w.dept ≠ (doc 7).dept) ∧ (waiting s).collect.queue = [] ++ ⟨4, 0, 60, 60000⟩ :: [] ∧
    s.collect.offers.find? (fun y => decide (y.doc = 7)) = some ⟨7, 0, 5000⟩ ∧ findDoc s 8 = none := by unfold Takes; decide +kernel

theorem witness_AcceptOpensTheTransfer :
    let s := offered 7 (holding [doc 7] ready)
    Takes s env ∧ findDoc s 7 = some (doc 7) ∧ (⟨7, 0, 5000⟩ : Offer) ∈ s.collect.offers ∧ s.collect.transfer = none ∧ s.dram.faults = [] ∧
    (sending 7 s).collect.transfer ≠ none ∧ findDoc s 8 = none ∧ ∀ p ∈ (doc 7).pages, p.length ≤ p.blocks.length * 8192 := by
  unfold Takes; decide +kernel

theorem witness_AbortAndConfirmEndTheTransfer :
    let d : Document := { doc 7 with disposition := .sent }
    let s : State := { holding [d] ready with collect := { ready.collect with sent := [⟨7, 1, 0⟩] } }
    Takes s env ∧ (sending 7 s).collect.transfer = some (Transfer.opened 7) ∧ (Transfer.opened 7).ending ≠ some .aborted ∧
    7 ∉ readyQueue s d.dept ∧ d.disposition = .sent ∧ (unreleased 8127 s).journal.unreleased < 8128 ∧
    s.collect.sent.find? (fun y => decide (y.doc = 7)) = some ⟨7, 1, 0⟩ ∧ (d.life = .opened ∧ ∀ e ∈ d.forwards, e.state ≠ .pending) ∧
    0 < (acct s 0).retention ∧ (acct (setAcct 0 (fun a => { a with retention := 0 }) s) 0).retention = 0 ∧ d.verifying = false ∧
    (doc 7).disposition ≠ .sent := by unfold Takes; decide +kernel

/-- The tests of Add Forward at their limits, and a full job list. -/
theorem witness_AddForwardMakesAJob :
    let e : ForwardEntry := ⟨['5'], .pending, 0, none, 0⟩
    let full := withJobs (List.replicate 256 (job 1 none)) (holding [{ doc 7 with forwards := [e] }] ready)
    Takes (holding [doc 7] ready) env ∧ isNumber (List.replicate 24 '5') = true ∧ isNumber (List.replicate 25 '5') = false ∧
    findDoc (holding [doc 7] ready) 7 = some (doc 7) ∧ (doc 7).life = .opened ∧ (doc 7).forwards.length < 4 ∧ ready.fwd.jobs.length < 256 ∧
    256 ≤ full.fwd.jobs.length ∧ findDoc full 7 = some { doc 7 with forwards := [e] } ∧ ({ doc 7 with forwards := [e] }).forwards[0]? = some e ∧
    findDoc ready 7 = none := by unfold Takes; decide +kernel

theorem witness_CancelForwardEndsTheEntry :
    let s := outbound .dialling none tx
    let d : Document := { doc 7 with forwards := [⟨['5', '5'], .pending, 0, none, 0⟩] }
    Takes s env ∧ findDoc s 7 = some d ∧ d.forwards[0]? = some ⟨['5', '5'], .pending, 0, none, 0⟩ ∧ s.journal.unreleased < 8128 ∧
    d.life = .opened ∧ s.fwd.jobs.find? (fun k => decide (k.document = 7) && decide (k.index = 0)) = some (job 2 (some 0)) ∧
    (job 2 (some 0)).inCall = true ∧ (lineAt s 0).call = some ⟨none, .sender tx⟩ ∧ tx.job = 2 ∧ sendingChan (lineAt s 0).chan = true ∧
    (lineAt (outbound .releasing none tx) 0).chan = .releasing ∧ (job 2 none).inCall = false ∧ d.forwards[3]? = none := by
  unfold Takes; decide +kernel

/-- The last attempt the limit allows, and the one before it. -/
theorem witness_OutcomesDecideTheJob :
    let s := outbound .releasing none tx
    let d : Document := { doc 7 with forwards := [⟨['5', '5'], .pending, 0, none, 0⟩] }
    findJob s 2 = some (job 2 (some 0)) ∧ (job 2 (some 0)).inCall = true ∧ (job 2 (some 0)).line = some 0 ∧ findDoc s 7 = some d ∧
    d.forwards[0]? = some ⟨['5', '5'], .pending, 0, none, 0⟩ ∧ d.life = .opened ∧ ¬ s.policy.attemptLimit ≤ 4 + 1 ∧
    s.policy.attemptLimit ≤ 5 + 1 ∧ findJob s 3 = none := by decide +kernel

/-- One line more than the reserve shown IDLE, and one job that may dial. -/
theorem witness_ArbiterKeepsTheReserve :
    let s : State := withLine { line .idle none with outbound := true }
      { withJobs [job 2 none] ready with
        policy := { ready.policy with inboundReserve := 0 }
        fwd := { (withJobs [job 2 none] ready).fwd with view := (Vector.replicate 16 ⟨false, false⟩).set 0 ⟨true, true⟩ } }
    s.part.phase = some .ready ∧ s.fwd.suspended = false ∧ s.journal.unreleased < 8128 ∧ s.policy.inboundReserve < shown s ∧ JobsOk s ∧
    mayDial s (job 2 none) ∧ s.fwd.view[(0 : LineNo)] = ⟨true, true⟩ ∧ (lineAt s 0).service = .inService ∧
    (lineAt s 0).pendingService = none ∧ (lineAt s 0).outbound = true ∧ (lineAt s 0).chan = .idle ∧
    (lineAt (run .arbiterRun s) 0).chan = .seized ∧ shown ready ≤ ready.policy.inboundReserve ∧ TakesBare (bare s) env ∧
    findJob s 2 = some (job 2 none) ∧ findJob (outbound .dialling none tx) 2 = some (job 2 (some 0)) := by
  unfold JobsOk mayDial TakesBare; decide +kernel

/-- One failure before the limit and at it, and ceilings 0, 3 and 4. -/
theorem witness_ClassificationsTeachTheCallerMemory :
    let s : State := { ready with callers := ⟨[⟨['1'], 0, 4, 0⟩, ⟨['2'], 4, 3, 0⟩, ⟨['3'], 3, 0, 0⟩], []⟩ }
    s.part.phase = some .ready ∧ CallersOk s ∧ findCaller s.callers.table ['9'] = none ∧ findCaller s.callers.table ['1'] = some ⟨['1'], 0, 4, 0⟩ ∧
    s.policy.failLimit ≤ 4 + 1 ∧ 3 + 1 < s.policy.failLimit ∧ findCaller s.callers.table ['2'] = some ⟨['2'], 4, 3, 0⟩ ∧
    findCaller s.callers.table ['3'] = some ⟨['3'], 3, 0, 0⟩ ∧ Takes s env ∧ isNumber ['9'] = true ∧ isNumber [] = false ∧
    State.reset.part.phase = some .starting := by
  unfold CallersOk Takes; decide +kernel

/-- A line IDLE in each service state, dialling, in a receiving call, releasing, and ringing one ring short. -/
theorem witness_RingingGathersTheNumbers :
    let s := inbound .alerted (some ⟨.digitWindow, 4000⟩) { RxCall.ringing with rings := 0 }
    Hears (withLine (line .idle none) ready) 0 ∧ (lineAt (withLine (line .idle none) ready) 0).service = .inService ∧ Hears ready 1 ∧
    (lineAt ready 1).service = .busyOut ∧ Hears (inbound .verdict none rx) 0 ∧ txOf (lineAt (inbound .verdict none rx) 0) = none ∧
    Hears (outbound .seized none tx) 0 ∧ tx.glare = false ∧ sendingChan (lineAt (outbound .seized none tx) 0).chan = true ∧
    Hears (outbound .releasing none tx) 0 ∧ Hears s 0 ∧ (lineAt s 0).chan = .alerted ∧ 0 + 1 < s.policy.answerRings ∧
    isNumber ['5'] = true ∧ allDigits ['a'] = false ∧ Hears (inPhase (some .restarting) s) 0 := by unfold Hears; decide +kernel

/-- At high water; with the numbers run out; with a cap of 15 blocks; and with one of 16. -/
theorem witness_InboundCallsAreAdmitted :
    let c : RxCall := { RxCall.ringing with closed := true }
    let s := inbound .alerted none c
    let capped (k : Nat) := setAcct 0 (fun a => { a with cap := k }) s
    Hears s 0 ∧ (lineAt s 0).chan = .alerted ∧ (lineAt s 0).call = some ⟨none, .receiver c⟩ ∧
    s.policy.answerRings ≤ min 255 (c.rings + 1) ∧ 8128 ≤ (unreleased 8128 s).journal.unreleased ∧ s.journal.unreleased < 8128 ∧
    4294967295 < { s with dir := { s.dir with nextNumber := 4294967296 } }.dir.nextNumber ∧ s.dir.docs.length < 4096 ∧ s.dir.reclaim = [] ∧
    (acct (capped 15) 0).cap < 0 + 0 + s.policy.landingAllotment ∧ 0 + 0 + s.policy.landingAllotment ≤ (acct (capped 16) 0).cap ∧
    allotment s 0 = ⟨none, 0⟩ ∧ (lineAt (run (.ring 0) (capped 16)) 0).chan = .negotiating ∧
    (lineAt (run (.ring 0) (capped 15)) 0).chan = .releasing := by unfold Hears; decide +kernel

/-- Document 7 SETTLED and alone on the reclaim list, and the directory full. -/
def full (s : State) : State :=
  { s with dir := { s.dir with docs := { doc 7 with life := .settled } :: List.replicate 4095 (doc 8), reclaim := [7], nextNumber := 50 } }

/-- With every record in use: the oldest that may be purged, and none left while a verification reads it. -/
theorem witness_Oldest : Oldest (full ready) (fun _ => True) 7 ∧ (full ready).dir.docs.length = 4096 ∧
    NoneLeft (holding [{ doc 7 with verifying := true }] { ready with dir := { ready.dir with reclaim := [7] } }) (fun _ => True) := by
  refine ⟨⟨[], _, [], rfl, rfl, rfl, trivial, by simp⟩, ?_, ?_⟩
  · decide +kernel
  · unfold NoneLeft; decide +kernel

/-- The call is one ring short, by the policy's rings; its reservation fails by the cap, and first reclaims with a document to purge. -/
theorem witness_AdmissionsFail :
    let c : RxCall := { RxCall.ringing with closed := true, rings := 2 }
    let s := setAcct 0 (fun a => { a with cap := 15 }) (inbound .alerted none c)
    Hears s 0 ∧ (lineAt s 0).call = some ⟨none, .receiver c⟩ ∧ s.policy.answerRings ≤ c.rings ∧ c.closed = true ∧
    s.dir.nextNumber ∉ s.dir.reclaim ∧ (lookupRoute s.routes []).dept = 0 ∧ s.policy.landingAllotment = 16 ∧
    TestFails s 0 16 .cap ∧ ¬ CapPasses (reclaimable 0 s) 0 16 ∧ (reclaimable 0 s).dir.nextNumber ∉ (reclaimable 0 s).dir.reclaim ∧
    Oldest (reclaimable 0 s) (fun x => x.dept = 0) 7 := by
  refine ⟨by unfold Hears; decide +kernel, rfl, by decide, rfl, by decide +kernel, by decide +kernel, rfl, ?_, ?_, by decide +kernel,
    [], _, [], rfl, rfl, rfl, rfl, by simp⟩
  · unfold TestFails NoneLeft CapPasses SharedPasses; decide +kernel
  · unfold CapPasses; decide +kernel

theorem rxFits_landing (c : Chan) (w : Option Wait) : RxFits (receiving c w rx landingDoc) 0 rx landingDoc := by
  constructor
  · decide
  · rfl
  · rfl
  · intro h; exact absurd h (by decide)

/-- A choice in NEGOTIATING at the offered maximum and one above it, and the second and third failures. -/
theorem witness_ChoicesAreTrained : Hears (receiving .negotiating none rx landingDoc) 0 ∧
    (lineAt (receiving .negotiating none rx landingDoc) 0).call = some ⟨none, .receiver rx⟩ ∧ landingDoc.landing = none ∧
    rx.offeredMax = some 5 ∧ rx.fineAllowed = some true ∧ ({ rx with trainFails := 1 }).trainFails < 2 ∧ 2 ≤ ({ rx with trainFails := 2 }).trainFails ∧
    Hears (receiving .training none rx landingDoc) 0 ∧ rx.step = some 4 ∧ (lineAt ready 0).chan ≠ .training ∧ (lineAt ready 0).chan ≠ .negotiating ∧
    (lineAt ready 0).chan ≠ .receiving ∧ (lineAt (receiving .receiving none rx landingDoc) 0).chan = .receiving := by
  unfold Hears; decide +kernel

/-- Data that fill a page's block to its last byte, one byte more with and without an allotment, and one byte more on 32 blocks. -/
theorem witness_PageDataReachesTheStore :
    let l (k : Nat) (bs : List Block) : Landing := ⟨1, .standard, 4, bs, k, [], 0⟩
    let s (l : Landing) := receiving .receiving none rx { landingDoc with landing := some l }
    let full : List Block := (List.finRange 32).map (fun i => Fin.ofNat 32768 i.val)
    Hears (s (l 8184 [5])) 0 ∧ (lineAt (s (l 8184 [5])) 0).call = some ⟨none, .receiver rx⟩ ∧ rx.document = some 3 ∧ rx.discard = none ∧
    findDoc (s (l 8184 [5])) 3 = some { landingDoc with landing := some (l 8184 [5]) } ∧ MemoryCanonical (s (l 8184 [5])) ∧
    (l 8184 [5]).held.length = (l 8184 [5]).length % 8 ∧ ¬ 1 * 8192 < 8184 + 8 ∧ 1 * 8192 < 8184 + 9 ∧
    (s (l 8184 [5])).store.free = 10 :: (s (l 8184 [5])).store.free.tail ∧ 0 < (allotment (s (l 8184 [5])) 0).count ∧ ([5, 10] : List Block).Nodup ∧
    (allotment (setAllotment 0 ⟨some 0, 0⟩ (s (l 8184 [5]))) 0).count = 0 ∧ 0 < 0 + 0 + 1 ∧ full.length = 32 ∧ full.Nodup ∧
    32 * 8192 < (l 262144 full).length + 1 := by unfold Hears MemoryCanonical; decide +kernel

/-- A page whose block is full, its line with no allotment left: the test holds; it fails by the cap; and it reclaims. -/
theorem witness_PageDataDrawsDirectly :
    let d : Document := { landingDoc with landing := some ⟨1, .standard, 4, [5], 8192, [], 0⟩ }
    let s := setAllotment 0 ⟨some 0, 0⟩ (setAcct 0 (fun a => { a with resv := 0 }) (receiving .receiving none rx d))
    let t := setAcct 0 (fun a => { a with cap := 0 }) s
    let u : State := { t with dir := { t.dir with docs := [d, { doc 7 with life := .settled }], reclaim := [7] } }
    CapPasses s 0 1 ∧ SharedPasses s 0 1 ∧ TestFails t 0 1 .cap ∧ ¬ CapPasses u 0 1 ∧ Oldest u (fun x => x.dept = 0) 7 ∧
    (allotment u 0).count = 0 ∧ 7 ≠ d.number := by
  refine ⟨?_, ?_, ?_, ?_, ⟨[], _, [], rfl, rfl, rfl, rfl, by simp⟩, by decide +kernel, by decide +kernel⟩
  · unfold CapPasses; decide +kernel
  · unfold SharedPasses; decide +kernel
  · unfold TestFails NoneLeft CapPasses SharedPasses; decide +kernel
  · unfold CapPasses; decide +kernel

/-- Of 1,024 scan lines, 16, 17, 64 and 65 bad ones; an empty page and a page marked. -/
theorem witness_PagesAreJudged :
    let l : Landing := ⟨1, .standard, 4, [5], 8, [], 0⟩
    let s := receiving .receiving none rx { landingDoc with landing := some l }
    Hears s 0 ∧ (lineAt s 0).call = some ⟨none, .receiver rx⟩ ∧ findDoc s 3 = some { landingDoc with landing := some l } ∧
    s.policy.landingAllotment ≤ 2 * (allotment s 0).count ∧ 0 < l.length ∧ 64 * 16 ≤ 1024 ∧ 1024 < 64 * 17 ∧ 16 * 64 ≤ 1024 ∧ 1024 < 16 * 65 ∧
    landingDoc.landing = none ∧ ({ rx with discard := some .oversize }).discard = some .oversize := by unfold Hears; decide +kernel

/-- An allotment of 8 of 16 blocks is not topped up and one of 7 is: the test of the 9 more holds, fails, and reclaims; and a page that
ends with 3 bytes of a group held. -/
theorem witness_PagesAreToppedUp :
    let l : Landing := ⟨1, .standard, 4, [5], 11, [1, 2, 3], 0⟩
    let d : Document := { landingDoc with landing := some l }
    let s (k cap : Nat) := setAllotment 0 ⟨some 0, k⟩ (setAcct 0 (fun a => { a with resv := k, cap := cap }) (receiving .receiving none rx d))
    let u : State := { s 7 15 with dir := { (s 7 15).dir with docs := [d, { doc 7 with life := .settled }], reclaim := [7] } }
    ¬ 2 * (allotment (s 8 16) 0).count < 16 ∧ 2 * (allotment (s 7 16) 0).count < 16 ∧ CapPasses (s 7 16) 0 9 ∧ SharedPasses (s 7 16) 0 9 ∧
    TestFails (s 7 15) 0 9 .cap ∧ ¬ CapPasses u 0 9 ∧ Oldest u (fun x => x.dept = 0) 7 ∧ 7 ≠ d.number ∧ MemoryCanonical u ∧
    l.held ≠ [] ∧ l.held.length = l.length % 8 := by
  refine ⟨by decide +kernel, by decide +kernel, ?_, ?_, ?_, ?_, ⟨[], _, [], rfl, rfl, rfl, rfl, by simp⟩, by decide +kernel, ?_, by decide +kernel,
    by decide +kernel⟩
  · unfold CapPasses; decide +kernel
  · unfold SharedPasses; decide +kernel
  · unfold TestFails NoneLeft CapPasses SharedPasses; decide +kernel
  · unfold CapPasses; decide +kernel
  · unfold MemoryCanonical; decide +kernel

/-- A reset at both stages, and a command of each kind that moves the channel on. -/
theorem witness_AcknowledgmentsMoveTheChannelOn :
    let s (c : Chan) (call : Option Call) (a : PortCommand) := withLine { line c call with acks := [⟨a, 500⟩] } ready
    let t := s .dialling none .reset
    t.part.phase = some .ready ∧ (lineAt t 0).service ≠ .fault ∧ (lineAt t 0).reset = .none ∧
    (lineAt (withLine { line .releasing none with reset := .awaitReset } ready) 0).reset = .awaitReset ∧
    (lineAt (withLine { line .releasing none with reset := .awaitPresent } ready) 0).reset = .awaitPresent ∧
    (lineAt (s .seized (some ⟨none, .sender tx⟩) (.dial ['5'])) 0).acks = ⟨.dial ['5'], 500⟩ :: [] ∧
    (lineAt (s .verdict (some ⟨none, .receiver rx⟩) (.sendVerdict .accept)) 0).chan = .verdict ∧
    (lineAt (withLine { line .idle none with service := .fault } ready) 0).service = .fault ∧
    (lineAt ready 1).acks = [] ∧ tx.offset % 256 = 0 ∧ (doc 7).pages[tx.page - 1]? = some (page 1 100 5 false) := by decide +kernel

/-- A page sent on to its end and one whose read is uncorrectable; and a verdict acknowledged in a call that fits its document: of the
last page, of one before it, of a rejected one, and of page 500. -/
theorem witness_AcknowledgedVerdicts :
    let call (r : RxCall) (d : Document) : State :=
      holding [d] (modLine 0 (fun l => { l with acks := [⟨.sendVerdict .accept, 500⟩] }) (receiving .verdict none r d))
    let last : RxCall := { rx with lastVerdict := some .accept, lastPage := true }
    let more : RxCall := { rx with lastVerdict := some .accept }
    let long : Document := { landingDoc with pages := List.replicate 500 (page 1 0 5 false) }
    RxFits (call last landingDoc) 0 last landingDoc ∧ RxFits (call more long) 0 more long ∧
    (lineAt (call last landingDoc) 0).acks = ⟨.sendVerdict .accept, 500⟩ :: [] ∧ (lineAt (call last landingDoc) 0).chan = .verdict ∧
    last.lastVerdict ≠ some .reject ∧ last.lastPage = true ∧ more.lastPage = false ∧ 500 ≤ long.pages.length ∧
    (call more long).journal.unreleased < 8128 ∧ (call more long).dir.docs.length < 4096 ∧
    findDoc (call more long) (call more long).dir.nextNumber = none ∧ (lineAt (run (.commandAck 0 .other) (call more long)) 0).chan = .receiving ∧
    ({ rx with lastVerdict := some .reject, rejects := 3 }).lastCause ≠ some .storeFull ∧
    (readSpan (.send 0) 7 (page 1 100 5 false) 0 256 { ready with dram := ⟨[⟨5, 0, true, false⟩], 0⟩ }).2 = none ∧
    (readSpan (.send 0) 7 (page 1 100 5 false) 0 256 ready).2.isSome = true := by
  refine ⟨⟨rfl, rfl, rfl, fun h => absurd h (by decide)⟩, ⟨rfl, rfl, rfl, fun h => absurd h (by decide)⟩, ?_⟩
  decide +kernel

/-- A line in each kind of call, in FAULT, in a reset, with a command outstanding and with a release wait. -/
theorem witness_FaultsAndResetsStopTheLine :
    Takes ready env ∧ ready.part.phase = some .ready ∧ (lineAt ready 0).reset = .none ∧
    (lineAt (withLine { line .releasing none with reset := .awaitReset } ready) 0).reset ≠ .none ∧
    receivingChan (lineAt (receiving .verdict none rx landingDoc) 0).chan = true ∧ sendingChan (lineAt (outbound .training none tx) 0).chan = true ∧
    inReceiving (lineAt ready 0) = false ∧ inSending (lineAt ready 0) = false ∧ (lineAt ready 0).service ≠ .fault ∧
    (lineAt (withLine { line .idle none with acks := [⟨.presentIdle, 500⟩] } ready) 0).acks = ⟨.presentIdle, 500⟩ :: [] ∧
    (lineAt (outbound .releasing (some ⟨.release, 6000⟩) tx) 0).call = some ⟨some ⟨.release, 6000⟩, .sender tx⟩ := by
  unfold Takes; decide +kernel

theorem witness_LossesEndTheCall :
    let s := receiving .receiving (some ⟨.page, 12000⟩) rx landingDoc
    Hears s 0 ∧ (lineAt s 0).call = some ⟨some ⟨.page, 12000⟩, .receiver rx⟩ ∧ receivingChan (lineAt s 0).chan = true ∧
    Hears (outbound .dialling (some ⟨.dial, 60000⟩) tx) 0 ∧ sendingChan (lineAt (outbound .dialling (some ⟨.dial, 60000⟩) tx) 0).chan = true ∧
    Hears (outbound .releasing none tx) 0 ∧ Hears ready 0 ∧ (lineAt ready 0).call = none := by unfold Hears; decide +kernel

/-- The sending call in each state, the second and third failures, and the third send of a page. -/
theorem witness_AttemptsFollowTheRemote :
    let d : Document := { doc 7 with forwards := [⟨['5', '5'], .pending, 0, none, 0⟩] }
    Hears (outbound .dialling none tx) 0 ∧ (lineAt (outbound .dialling none tx) 0).call = some ⟨none, .sender tx⟩ ∧
    findDoc (outbound .dialling none tx) 7 = some d ∧ tx.document = 7 ∧ (outbound .dialling none tx).dram.faults = [] ∧
    Hears (outbound .offeringWait none tx) 0 ∧ Hears (outbound .training none tx) 0 ∧ Hears (outbound .awaitingVerdict none tx) 0 ∧
    (∀ p ∈ d.pages, p.resolution ≠ .fine) ∧ ({ tx with trainFails := 1 }).trainFails < 2 ∧ 3 ≤ ({ tx with sends := 3 }).sends ∧
    d.pages[tx.page - 1]? = some (page 1 100 5 false) ∧ d.pages.length ≤ tx.page := by unfold Hears; decide +kernel

end Sys2Proof.Tests
end

section
/-! Start-up, requests that read, and the department requests (O15, O17, O23, O24). -/

namespace Sys2Proof.Machine

open Sys2Proof

/-! ## Store initialization -/

/-- The numbers of consecutive blocks below the store's end. -/
theorem blocksFrom_val {first count : Nat} (h : first + count ≤ 32768) :
    (blocksFrom first count).map Fin.val = List.range' first count := by
  have below : ∀ b ∈ List.range' first count, (Fin.val ∘ Fin.ofNat 32768) b = b := by
    intro b hb
    have := List.mem_range'_1.1 hb
    exact Nat.mod_eq_of_lt (by omega)
  rw [blocksFrom, List.map_map, List.map_congr_left below, List.map_id']

theorem mem_allLines (n : LineNo) : n ∈ allLines := List.mem_finRange n

/-- One command sent on each of some lines touches the lines alone. -/
theorem foldl_sendCmd_frame (c : PortCommand) (ns : List LineNo) (s : State) :
    ns.foldl (fun t n => sendCmd n c t) s =
      { s with lines := (ns.foldl (fun t n => sendCmd n c t) s).lines } := by
  induction ns generalizing s with
  | nil => rfl
  | cons n ns ih => rw [List.foldl_cons, ih]; rfl

/-- One command sent on each of some lines (R72): each of them sends it once. -/
theorem lineAt_foldl_sendCmd (c : PortCommand) (ns : List LineNo) (distinct : ns.Nodup) (s : State) (m : LineNo) :
    lineAt (ns.foldl (fun t n => sendCmd n c t) s) m =
      if m ∈ ns then (lineAt s m).sends s.clock.run c else lineAt s m := by
  induction ns generalizing s with
  | nil => rfl
  | cons n ns ih =>
    obtain ⟨fresh, rest⟩ := List.nodup_cons.1 distinct
    rw [List.foldl_cons, ih rest, sendCmd_eq, modLine_clock]
    by_cases hm : m = n
    · subst hm; simp [fresh]
    · simp only [lineAt_modLine_ne hm, List.mem_cons, hm, false_or]

/-- Settles O15: store initialization, and each channel's PRESENT-BUSY. -/
theorem initializationOpensTheStore : Obligations.InitializationOpensTheStore := by
  intro s
  refine ⟨fun starting => ?_, fun other => ?_⟩
  · have frame := foldl_sendCmd_frame .presentBusy allLines (initializedStore { s with part.phase := some .ready })
    have lines := lineAt_foldl_sendCmd .presentBusy allLines (List.nodup_finRange 16)
      (initializedStore { s with part.phase := some .ready })
    have run : exec .storeInitializationComplete s = .next (allLines.foldl (fun t n => sendCmd n .presentBusy t)
        (initializedStore { s with part.phase := some .ready })) :=
      congrArg Host.Outcome.next (if_pos starting)
    generalize allLines.foldl (fun t n => sendCmd n .presentBusy t) (initializedStore { s with part.phase := some .ready }) = t
      at frame lines run
    refine ⟨t, run, ?_, ?_, ?_, ?_, ?_, ?_, ?_, fun n => ?_, ?_⟩
    · rw [frame]; rfl
    · rw [frame, List.range_eq_range']; exact (blocksFrom_val (first := 0) (count := 32704) (by decide))
    · rw [frame]; exact (blocksFrom_val (first := 32704) (count := 64) (by decide))
    · rw [frame]; rfl
    · rw [frame]; rfl
    · rw [frame]; rfl
    · rw [frame]; rfl
    · rw [lines n, if_pos (mem_allLines n)]; rfl
    · rw [frame]; rfl
  · exact congrArg Host.Outcome.next (if_neg other)

/-! ## Requests that read -/

/-- A request whose owner does no more than answer is answered whatever the link's tests say (R210). -/
theorem takeRequest_answers {r : Envelope} {s : State} (k : ReqKind) (own : State → State) (taken : takesRequests r.tag s = true)
    (answers : s.part.phase ≠ none → ∃ st c, own (takeFrame r.tag s) = respond r.tag k st c (takeFrame r.tag s)) :
    ∃ st c, takeRequest r k own s = answered s r k st c := by
  have phase : s.part.phase ≠ none := by
    intro h; simp [takesRequests, h] at taken
  unfold takeRequest
  rw [if_pos taken]
  dsimp only
  split
  · exact ⟨_, _, rfl⟩
  · split
    · exact ⟨_, _, rfl⟩
    · exact answers phase

/-- Read Journal does no more than answer (R178). -/
theorem readJournal_answers (tag : Byte) (n : Nat) (s : State) :
    ∃ st c, readJournal tag n s = respond tag .readJournal st c s := by
  unfold readJournal
  split
  · exact ⟨_, _, rfl⟩
  · split
    · dsimp only
      split
      · exact ⟨_, _, rfl⟩
      · split <;> exact ⟨_, _, rfl⟩
    · exact ⟨_, _, rfl⟩

/-- List Documents does no more than answer (R53). -/
theorem listDocuments_answers (tag : Byte) (dept : Nat) (filter : Option LifeFilter) (start : Nat) (s : State) :
    ∃ st c, listDocuments tag dept filter start s = respond tag .listDocuments st c s := by
  unfold listDocuments
  split
  · split <;> exact ⟨_, _, rfl⟩
  · exact ⟨_, _, rfl⟩

/-- Read Jobs does no more than answer (R145). -/
theorem readJobs_answers (tag : Byte) (doc start : Nat) (s : State) :
    ∃ st c, readJobs tag doc start s = respond tag .readJobs st c s := by
  unfold readJobs
  split <;> exact ⟨_, _, rfl⟩

/-- Read Line Statistics without the clear flag does no more than answer (R97). -/
theorem readLineStatistics_answers (tag : Byte) (line : Nat) (s : State) :
    ∃ st c, readLineStatistics tag line false s = respond tag .readLineStatistics st c s := by
  unfold readLineStatistics
  split <;> exact ⟨_, _, rfl⟩

/-- Settles O17, by the nine requests that read. -/
theorem readsChangeNothing : Obligations.ReadsChangeNothing := by
  intro c r k s reads request taken
  have lift : ∀ own, (s.part.phase ≠ none → ∃ st x, own (takeFrame r.tag s) = respond r.tag k st x (takeFrame r.tag s)) →
      exec c s = .next (takeRequest r k own s) → ∃ st x, exec c s = .next (answered s r k st x) := by
    intro own answers e
    obtain ⟨st, x, h⟩ := takeRequest_answers k own taken answers
    exact ⟨st, x, by rw [e, h]⟩
  cases c <;> simp only [isReading, requestOf, Bool.false_eq_true] at reads request <;>
    obtain ⟨rfl, rfl⟩ := Prod.mk.inj (Option.some.inj request)
  case readLineStatistics line clear =>
    obtain rfl : clear = false := by simpa using reads
    exact lift _ (fun _ => readLineStatistics_answers _ line _) rfl
  case readStatus =>
    refine lift _ (fun phase => ?_) rfl
    obtain ⟨ph, hp⟩ := Option.ne_none_iff_exists'.1 phase
    simp only [takeFrame_part, hp]
    exact ⟨_, _, rfl⟩
  case readJournal seq => exact lift _ (fun _ => readJournal_answers _ _ _) rfl
  case readLinkStatistics clear =>
    obtain rfl : clear = false := by simpa using reads
    exact lift _ (fun _ => ⟨_, _, rfl⟩) rfl
  case readDocument doc first =>
    refine lift _ (fun _ => ?_) rfl
    cases findDoc (takeFrame _ s) doc <;> exact ⟨_, _, rfl⟩
  case listDocuments dept filter start => exact lift _ (fun _ => listDocuments_answers _ dept filter start _) rfl
  case readJobs doc start => exact lift _ (fun _ => readJobs_answers _ doc start _) rfl
  case readCallerMemory index => exact lift _ (fun _ => ⟨_, _, rfl⟩) rfl
  case readErrorRecords serial => exact lift _ (fun _ => ⟨_, _, rfl⟩) rfl

end Sys2Proof.Machine
end

section
/-! Sums over the accounts, the pressure state after a change of one account, and the department requests (O23, O24). -/

namespace Sys2Proof.Machine

open Sys2Proof

/-! ## Figures of the accounts -/

/-- Sums that differ at one place alone. -/
theorem sum_finRange_update {n : Nat} (d : Fin n) {f g : Fin n → Nat} (same : ∀ e, e ≠ d → f e = g e) :
    ((List.finRange n).map f).sum + g d = ((List.finRange n).map g).sum + f d := by
  have split (h : Fin n → Nat) : ((List.finRange n).map h).sum = h d + ∑ e ∈ Finset.univ.erase d, h e := by
    rw [← Fin.sum_univ_def, Finset.add_sum_erase _ h (Finset.mem_univ d)]
  have rest : ∑ e ∈ Finset.univ.erase d, f e = ∑ e ∈ Finset.univ.erase d, g e :=
    Finset.sum_congr rfl (fun e he => same e (Finset.ne_of_mem_erase he))
  rw [split f, split g, rest]; ac_rfl

/-- A sum over the accounts, department by department. -/
theorem sumAccounts_eq (s : State) (f : Account → Nat) : sumAccounts s f = ((List.finRange 32).map (fun e => f (acct s e))).sum := by
  have list : s.store.accounts.toList = (List.finRange 32).map (acct s) := by
    apply List.ext_getElem <;> simp [acct]
  rw [sumAccounts, list, List.map_map]; rfl

/-- A term of a sum over the accounts is no more than the sum. -/
theorem le_sumAccounts (s : State) (f : Account → Nat) (d : Dept) : f (acct s d) ≤ sumAccounts s f := by
  rw [sumAccounts_eq]
  exact List.single_le_sum (by simp) _ (List.mem_map.2 ⟨d, List.mem_finRange d, rfl⟩)

/-- The figures computed from the accounts look at nothing else. -/
theorem sumAccounts_congr {s t : State} (h : t.store.accounts = s.store.accounts) (f : Account → Nat) :
    sumAccounts t f = sumAccounts s f := by
  unfold sumAccounts; rw [h]

theorem acct_congr {s t : State} (h : t.store.accounts = s.store.accounts) (e : Dept) : acct t e = acct s e := by
  unfold acct; rw [h]

theorem sharedPool_congr {s t : State} (h : t.store.accounts = s.store.accounts) : sharedPool t = sharedPool s := by
  unfold sharedPool guarantees; rw [sumAccounts_congr h]

theorem sharedCommitted_congr {s t : State} (h : t.store.accounts = s.store.accounts) :
    sharedCommitted t = sharedCommitted s := sumAccounts_congr h _

theorem pressureAfter_congr {s t : State} (h : t.store.accounts = s.store.accounts) (was : Bool) :
    pressureAfter was t = pressureAfter was s := by
  unfold pressureAfter pLeave pEnter; rw [sharedPool_congr h, sharedCommitted_congr h]

/-- A sum over the accounts after one account has changed. -/
theorem sumAccounts_setAcct (d : Dept) (g : Account → Account) (s : State) (f : Account → Nat) :
    sumAccounts (setAcct d g s) f + f (acct s d) = sumAccounts s f + f (g (acct s d)) := by
  rw [sumAccounts_eq, sumAccounts_eq]
  have h := sum_finRange_update d (f := fun e => f (acct (setAcct d g s) e)) (g := fun e => f (acct s e))
    (fun e he => by simp only [acct_setAcct, if_neg he])
  simpa only [acct_setAcct, if_true] using h

@[simp] theorem evalPressure_accounts (s : State) : (evalPressure s).store.accounts = s.store.accounts := by
  rw [evalPressure_frame]

@[simp] theorem acct_evalPressure (s : State) (e : Dept) : acct (evalPressure s) e = acct s e :=
  acct_congr (evalPressure_accounts s) e

/-- The pressure state is the one its evaluation leaves (R21). -/
theorem evalPressure_settled (s : State) : (evalPressure s).store.pressure = pressureAfter s.store.pressure (evalPressure s) := by
  rw [evalPressure_pressure, pressureAfter_congr (evalPressure_accounts s)]

/-! ## Set Department and Remove Department -/

/-- The new state of a department whose account a request has changed (R24, R25). -/
def accountChanged (d : Dept) (a : Account) (s : State) : State :=
  markPoolChange s (mark (.department d) (evalPressure (setAcct d (fun _ => a) s)))

theorem markPoolChange_frame (s t : State) :
    markPoolChange s t = { t with link.notices := (markPoolChange s t).link.notices } := by
  unfold markPoolChange; split <;> rfl

/-- STORE is marked when S has changed (R24, R25). -/
theorem markPoolChange_marked (s t : State) : Marked t (markPoolChange s t) (fun x => x = .store ∧ sharedPool t ≠ sharedPool s) := by
  unfold markPoolChange
  split
  · rename_i same; exact (Marked.none rfl).congr (by simp [same])
  · rename_i other; exact (mark_marked .store t).congr (by simp [Ne.symm other])

theorem accountChanged_accounts (d : Dept) (a : Account) (s : State) :
    (accountChanged d a s).store.accounts = (setAcct d (fun _ => a) s).store.accounts := by
  rw [accountChanged, markPoolChange_frame]; exact evalPressure_accounts _

theorem acct_accountChanged (d : Dept) (a : Account) (s : State) (e : Dept) :
    acct (accountChanged d a s) e = if e = d then a else acct s e := by
  rw [acct_congr (accountChanged_accounts d a s), acct_setAcct]

theorem accountChanged_pressure (d : Dept) (a : Account) (s : State) :
    (accountChanged d a s).store.pressure = pressureAfter s.store.pressure (accountChanged d a s) := by
  rw [pressureAfter_congr (accountChanged_accounts d a s), accountChanged, markPoolChange_frame]
  exact evalPressure_pressure _

theorem accountChanged_frame (d : Dept) (a : Account) (s : State) : accountChanged d a s =
    { s with
      store.accounts := (accountChanged d a s).store.accounts, store.pressure := (accountChanged d a s).store.pressure
      link.notices := (accountChanged d a s).link.notices } := by
  have h := accountChanged_accounts d a s
  rw [h, accountChanged, markPoolChange_frame, evalPressure_frame]; rfl

/-- What a changed account marks (R21, R24, R25). -/
theorem accountChanged_marked (d : Dept) (a : Account) (s : State) : Marked s (accountChanged d a s) (fun x => x = .department d ∨
    x = .store ∧ (sharedPool (accountChanged d a s) ≠ sharedPool s ∨ (accountChanged d a s).store.pressure ≠ s.store.pressure)) := by
  have pool : sharedPool (accountChanged d a s) = sharedPool (mark (.department d) (evalPressure (setAcct d (fun _ => a) s))) :=
    sharedPool_congr ((accountChanged_accounts d a s).trans (evalPressure_accounts _).symm)
  have pressure : (accountChanged d a s).store.pressure = (evalPressure (setAcct d (fun _ => a) s)).store.pressure := by
    rw [accountChanged, markPoolChange_frame]; rfl
  have evaluated := (evalPressure_marked (setAcct d (fun _ => a) s)).of_link (s' := s) rfl rfl rfl
  have department := mark_marked (.department d) (evalPressure (setAcct d (fun _ => a) s))
  have changed := markPoolChange_marked s (mark (.department d) (evalPressure (setAcct d (fun _ => a) s)))
  have classes : (evalPressure (setAcct d (fun _ => a) s)).link.classes = s.link.classes := by rw [evalPressure_frame]; rfl
  refine ((evaluated.trans department classes).trans changed classes).congr (fun x => ?_)
  rw [pool, pressure, setAcct_store_pressure]
  tauto

/-- An account changed at a request, whose response follows (R24, R25). -/
theorem accountChanged_answered (s : State) (r : Envelope) (k : ReqKind) (c : Content) (d : Dept) (a : Account) :
    let t := respond r.tag k .done c (accountChanged d a (takeFrame r.tag s))
    acct t d = a ∧ (∀ e : Dept, e ≠ d → acct t e = acct s e) ∧ t.store.pressure = pressureAfter s.store.pressure t ∧
    Responded s t r k .done c ∧
    Marked s t (fun x => x = .department d ∨ x = .store ∧ (sharedPool t ≠ sharedPool s ∨ t.store.pressure ≠ s.store.pressure)) ∧
    t = { s with
      store.accounts := t.store.accounts, store.pressure := t.store.pressure
      link.intake := t.link.intake, link.responses := t.link.responses, link.notices := t.link.notices } := by
  intro t
  have frame := accountChanged_frame d a (takeFrame r.tag s)
  refine ⟨?_, fun e he => ?_, accountChanged_pressure d a (takeFrame r.tag s), ?_, ?_, ?_⟩
  · exact (acct_accountChanged d a _ d).trans (if_pos rfl)
  · exact (acct_accountChanged d a _ e).trans (if_neg he)
  · refine ⟨?_, ?_⟩ <;> (show _ = _; simp only [t, respond]; rw [frame]; rfl)
  · exact (accountChanged_marked d a (takeFrame r.tag s)).of_link rfl rfl rfl
  · simp only [t, respond]; rw [frame]; rfl

/-- The guarantees of the configured departments other than one (R23). -/
theorem guarantees_others (s : State) (d : Dept) :
    ((List.finRange 32).map (fun e => if e ≠ d ∧ (acct s e).configured = true then (acct s e).guarantee else 0)).sum =
      guarantees s - (if (acct s d).configured then (acct s d).guarantee else 0) := by
  have h := sum_finRange_update d
    (f := fun e => if e ≠ d ∧ (acct s e).configured = true then (acct s e).guarantee else 0)
    (g := fun e => if (acct s e).configured then (acct s e).guarantee else 0) (fun e he => by simp [he])
  have e : guarantees s = ((List.finRange 32).map (fun e => if (acct s e).configured then (acct s e).guarantee else 0)).sum :=
    sumAccounts_eq s _
  simp only [ne_eq, not_true, false_and, if_false, add_zero] at h
  rw [e, ← h, Nat.add_sub_cancel]

theorem deptOf_val (d : Dept) : deptOf d.val = some d := by simp [deptOf]

theorem deptOf_above {n : Nat} (h : 31 < n) : deptOf n = none := by
  rw [deptOf, dif_neg (by omega)]

/-- Set Department as one request (R23): refused by its checks, or applied. -/
theorem setDepartment_eq (tag : Byte) (d : Dept) {name : Text} (named : isName name = true) (guarantee cap retention : Nat) (s : State) :
    setDepartment tag d.val name guarantee cap retention s =
      match departmentCheck s d (requestedAccount (acct s d) name guarantee cap retention) with
      | some why => respond tag .setDepartment why .empty s
      | none =>
        let a := requestedAccount (acct s d) name guarantee cap retention
        let applied : Account := if (acct s d).configured then a else { a with used := 0, resv := 0, lastFailure := none }
        let t := accountChanged d applied s
        respond tag .setDepartment .done (.department applied.guarantee applied.cap applied.retention (sharedPool t)) t := by
  unfold setDepartment; rw [deptOf_val, named]; rfl

/-- Settles O23, by the tests in their order. -/
theorem setDepartmentFollowsItsTests : Obligations.SetDepartmentFollowsItsTests := by
  intro s r dept name guarantee cap retention takes c
  have run : exec c s = .next (setDepartment r.tag dept name guarantee cap retention (takeFrame r.tag s)) :=
    congrArg Host.Outcome.next (takeRequest_of_takes takes .setDepartment _)
  refine ⟨fun bad => ?_, ?_⟩
  · rw [run]
    unfold setDepartment
    rcases bad with bad | bad
    · rw [deptOf_above bad]; rfl
    · rw [bad]; cases deptOf dept <;> rfl
  · intro d hd named a G C others S delta borrow raisedTooFar
    subst hd
    rw [run, setDepartment_eq r.tag d named]
    set asked := requestedAccount (acct (takeFrame r.tag s) d) name guarantee cap retention with hasked
    have hG : asked.guarantee = G := by
      show max 0 (min guarantee 31680) = min guarantee 31680; omega
    have hC : asked.cap = C := by
      show max (max 0 (min guarantee 31680)) (min cap 32704) = max (min guarantee 31680) (min cap 32704); omega
    have hret : asked.retention = min retention 168 := by
      show max 0 (min retention 168) = _; omega
    have hothers : others = guarantees s - (if a.configured then a.guarantee else 0) := guarantees_others s d
    have hle : (if a.configured then a.guarantee else 0) ≤ guarantees s :=
      le_sumAccounts s (fun x => if x.configured then x.guarantee else 0) d
    have hborrow : borrow = (a.borrow : Int) := by
      show max 0 ((a.used : Int) + a.resv - a.guarantee) = ((a.used + a.resv - a.guarantee : Nat) : Int); omega
    have hcommitted : a.borrow ≤ sharedCommitted s := le_sumAccounts s Account.borrow d
    have check : departmentCheck (takeFrame r.tag s) d asked =
        if 31680 < others + G then some .limit
        else if C < a.used + a.resv then some .inUse
        else if a.guarantee < G ∧ sharedPool s - (G - a.guarantee) < sharedCommitted s - min (G - a.guarantee) a.borrow then some .limit
        else none := by
      rw [← hG, ← hC, hothers]; rfl
    have far : others + G ≤ 31680 →
        (raisedTooFar ↔ a.guarantee < G ∧ sharedPool s - (G - a.guarantee) < sharedCommitted s - min (G - a.guarantee) a.borrow) := by
      intro room
      have pool : sharedPool s = 32704 - guarantees s := rfl
      show (a.guarantee < G ∧ (32704 : Int) - guarantees s - ((G : Int) - a.guarantee) <
        (sharedCommitted s : Int) - min ((G : Int) - a.guarantee) borrow) ↔ _
      rw [hborrow, pool]
      refine and_congr_right (fun raised => ?_)
      cases configured : a.configured <;>
        (simp only [configured, if_true, Bool.false_eq_true, if_false] at hothers hle; omega)
    refine ⟨fun h => ?_, fun h1 h2 => ?_, fun h1 h2 h3 => ?_, fun h1 h2 h3 => ?_⟩
    · rw [check, if_pos h]; rfl
    · rw [check, if_neg (by omega), if_pos h2]; rfl
    · rw [check, if_neg (by omega), if_neg (by omega), if_pos ((far h1).1 h3)]; rfl
    · rw [check, if_neg (by omega), if_neg (by omega), if_neg (fun k => h3 ((far h1).2 k))]
      refine ⟨_, rfl, ?_⟩
      dsimp only
      generalize happlied : (if (acct (takeFrame r.tag s) d).configured = true then asked
        else { asked with used := 0, resv := 0, lastFailure := none } : Account) = applied
      have value : applied = ⟨true, name, G, C, min retention 168, if a.configured then a.used else 0, if a.configured then a.resv else 0,
          if a.configured then a.lastFailure else none⟩ := by
        rw [← happlied, ← hG, ← hC, ← hret]
        show (if a.configured = true then _ else _) = _
        cases a.configured <;> rfl
      obtain ⟨h1, h2, h3, h4, h5, h6⟩ := accountChanged_answered s r .setDepartment (.department applied.guarantee applied.cap
        applied.retention (sharedPool (accountChanged d applied (takeFrame r.tag s)))) d applied
      refine ⟨h1.trans value, h2, h3, ?_, h5, h6⟩
      rw [value] at h4 ⊢; exact h4

/-- What keeps a department from being removed (R25, step 3). -/
theorem departmentInUse_iff (s : State) (d : Dept) : departmentInUse s d = true ↔
    0 < (acct s d).used + (acct s d).resv ∨ (∃ e ∈ s.routes, e.dept = d) ∨ (∃ x ∈ s.dir.docs, x.dept = d) ∨
      ∃ w ∈ s.collect.queue, w.dept = d := by
  simp [departmentInUse, Account.committed, or_assoc]

/-- Settles O24, by the tests in their order. -/
theorem removeDepartmentFollowsItsTests : Obligations.RemoveDepartmentFollowsItsTests := by
  intro s r dept takes
  have run : exec (.removeDepartment r dept) s = .next (removeDepartment r.tag dept (takeFrame r.tag s)) :=
    congrArg Host.Outcome.next (takeRequest_of_takes takes .removeDepartment _)
  refine ⟨fun bad => ?_, ?_⟩
  · rw [run]
    unfold removeDepartment
    rcases bad with bad | rfl
    · rw [deptOf_above bad]; rfl
    · rfl
  · intro d hd nonzero used
    subst hd
    have eq : removeDepartment r.tag d.val (takeFrame r.tag s) =
        if (acct s d).configured = false then respond r.tag .removeDepartment .noSuch .empty (takeFrame r.tag s)
        else if departmentInUse s d then respond r.tag .removeDepartment .inUse .empty (takeFrame r.tag s)
        else respond r.tag .removeDepartment .done .empty (accountChanged d Account.absent (takeFrame r.tag s)) := by
      unfold removeDepartment; rw [deptOf_val]; dsimp only; rw [if_neg nonzero]; rfl
    rw [run, eq]
    refine ⟨fun h => ?_, fun h1 h2 => ?_, fun h1 h2 => ?_⟩
    · rw [if_pos h]; rfl
    · rw [if_neg (by simp [h1]), if_pos ((departmentInUse_iff s d).2 h2)]; rfl
    · rw [if_neg (by simp [h1]), if_neg (fun k => h2 ((departmentInUse_iff s d).1 k))]
      exact ⟨_, rfl, accountChanged_answered s r .removeDepartment .empty d Account.absent⟩

end Sys2Proof.Machine
end

section
/-! The allocation test (R9 to R12): what it purges, how it ends, and reservations (O37). -/

namespace Sys2Proof.Machine

open Sys2Proof

/-! ## Purge -/

theorem purgeEvent_dir (n : Nat) (s : State) : (purgeEvent n s).dir = (purgeDoc n s).dir := by
  rw [purgeEvent, evalPressure_frame]

@[simp] theorem purgeDoc_clock (n : Nat) (s : State) : (purgeDoc n s).clock = s.clock := by rw [purgeDoc_frame]
@[simp] theorem purgeDoc_dram (n : Nat) (s : State) : (purgeDoc n s).dram = s.dram := by rw [purgeDoc_frame]
@[simp] theorem purgeDoc_fwd (n : Nat) (s : State) : (purgeDoc n s).fwd = s.fwd := by rw [purgeDoc_frame]
@[simp] theorem purgeDoc_journal (n : Nat) (s : State) : (purgeDoc n s).journal = s.journal := by rw [purgeDoc_frame]
@[simp] theorem purgeDoc_allotments (n : Nat) (s : State) : (purgeDoc n s).store.allotments = s.store.allotments := by
  rw [purgeDoc_frame]
@[simp] theorem purgeDoc_pressure (n : Nat) (s : State) : (purgeDoc n s).store.pressure = s.store.pressure := by
  rw [purgeDoc_frame]
@[simp] theorem purgeDoc_nextNumber (n : Nat) (s : State) : (purgeDoc n s).dir.nextNumber = s.dir.nextNumber := by
  rw [purgeDoc_frame]
@[simp] theorem purgeDoc_verifications (n : Nat) (s : State) : (purgeDoc n s).dir.verifications = s.dir.verifications := by
  rw [purgeDoc_frame]
@[simp] theorem purgeDoc_classes (n : Nat) (s : State) : (purgeDoc n s).link.classes = s.link.classes := by rw [purgeDoc_frame]

/-- The records a purge leaves (R45). -/
theorem purgeDoc_docs {s : State} {n : Nat} {d : Document} (h : findDoc s n = some d) :
    (purgeDoc n s).dir.docs = s.dir.docs.filter (fun x => decide (x.number ≠ n)) := by
  rw [← purgeEvent_dir, (purgeEvent_purged h).docs, findDoc_number h]

/-- The reclaim list a purge leaves (R45). -/
theorem purgeDoc_reclaim {s : State} {n : Nat} {d : Document} (h : findDoc s n = some d) :
    (purgeDoc n s).dir.reclaim = s.dir.reclaim.filter (fun x => decide (x ≠ n)) := by
  rw [← purgeEvent_dir, (purgeEvent_purged h).reclaim, findDoc_number h]

/-- A record after another has been purged (R45). -/
theorem findDoc_purgeDoc {s : State} {n : Nat} {d : Document} (h : findDoc s n = some d) (m : Nat) :
    findDoc (purgeDoc n s) m = if m = n then none else findDoc s m :=
  findDoc_dropped n m s _ (purgeDoc_docs h)

/-- The accounts a purge leaves (R6, R45): the used count of the document's department falls. -/
theorem acct_purgeDoc {s : State} {n : Nat} {d : Document} (h : findDoc s n = some d) (e : Dept) :
    acct (purgeDoc n s) e =
      if e = d.dept then { acct s e with used := (acct s e).used - (docBlocks d).length } else acct s e := by
  have same : acct (purgeEvent n s) e = acct (purgeDoc n s) e := acct_evalPressure (purgeDoc n s) e
  have p := purgeEvent_purged h
  rw [← same]
  split
  · rename_i he; subst he; rw [p.account, p.used]
  · rename_i he; exact p.accounts e he

theorem acct_purgeDoc_used {s : State} {n : Nat} {d : Document} (h : findDoc s n = some d) (e : Dept) :
    acct (purgeDoc n s) e = { acct s e with used := (acct (purgeDoc n s) e).used } := by
  rw [acct_purgeDoc h]; split <;> rfl

/-! ## The tests -/

theorem capTest_iff (s : State) (d : Dept) (k : Nat) : capTest s d k = true ↔ CapPasses s d k := decide_eq_true_iff

theorem sharedTest_iff (s : State) (d : Dept) (k : Nat) : sharedTest s d k = true ↔ SharedPasses s d k := decide_eq_true_iff

theorem tests_iff (s : State) (d : Dept) (k : Nat) :
    (capTest s d k && sharedTest s d k) = true ↔ CapPasses s d k ∧ SharedPasses s d k := by
  rw [Bool.and_eq_true, capTest_iff, sharedTest_iff]

/-- The test that a candidate of reclaim passes (R11, R30). -/
theorem candidate_passes_iff (s : State) (p : Document → Bool) (m : Nat) :
    (match findDoc s m with
      | some x => !x.verifying && p x
      | none => false) = true ↔ ∃ x, findDoc s m = some x ∧ x.verifying = false ∧ p x = true := by
  cases findDoc s m <;> simp

/-- The candidate of reclaim is the oldest document that passes (R11, R30). -/
theorem candidate_eq_some_iff (s : State) (p : Document → Bool) (m : Nat) :
    candidate s p = some m ↔ Oldest s (fun x => p x = true) m := by
  unfold candidate Oldest
  rw [List.find?_eq_some_iff_append]
  constructor
  · rintro ⟨passes, front, back, e, before⟩
    obtain ⟨x, found, idle, px⟩ := (candidate_passes_iff s p m).1 passes
    refine ⟨front, x, back, e, found, idle, px, fun y hy z hz => ?_⟩
    have := before y hy
    rw [hz] at this
    cases hv : z.verifying <;> simp_all
  · rintro ⟨front, x, back, e, found, idle, px, before⟩
    refine ⟨(candidate_passes_iff s p m).2 ⟨x, found, idle, px⟩, front, back, e, fun y hy => ?_⟩
    cases hz : findDoc s y with
    | none => rfl
    | some z => 
      rcases before y hy z hz with h | h
      · simp [h]
      · simpa using Or.inr (Bool.eq_false_iff.2 h)

/-- There is no candidate when a verification reads every document that would pass. -/
theorem candidate_eq_none_iff (s : State) (p : Document → Bool) :
    candidate s p = none ↔ NoneLeft s (fun x => p x = true) := by
  unfold candidate NoneLeft
  rw [List.find?_eq_none]
  refine forall₂_congr (fun m _ => ?_)
  cases findDoc s m with
  | none => simp
  | some x => cases hv : x.verifying <;> simp [hv]

theorem oldest_congr {s : State} {P Q : Document → Prop} (h : ∀ x, P x ↔ Q x) (m : Nat) : Oldest s P m ↔ Oldest s Q m := by
  rw [show P = Q from funext fun x => propext (h x)]

theorem noneLeft_congr {s : State} {P Q : Document → Prop} (h : ∀ x, P x ↔ Q x) : NoneLeft s P ↔ NoneLeft s Q := by
  rw [show P = Q from funext fun x => propext (h x)]

/-- A document of which an oldest one is to be purged stands in the directory and in the reclaim list. -/
theorem Oldest.found {s : State} {P : Document → Prop} {m : Nat} (h : Oldest s P m) :
    m ∈ s.dir.reclaim ∧ ∃ x, findDoc s m = some x ∧ x.verifying = false ∧ P x := by
  obtain ⟨front, x, back, e, found, idle, px, -⟩ := h
  exact ⟨by simp [e], x, found, idle, px⟩

theorem Reclaims.found {s : State} {d : Dept} {k m : Nat} (h : Reclaims s d k m) :
    m ∈ s.dir.reclaim ∧ ∃ x, findDoc s m = some x ∧ x.verifying = false := by
  obtain ⟨-, h | ⟨-, -, h⟩⟩ := h <;> (obtain ⟨hm, x, found, idle, -⟩ := h.found; exact ⟨hm, x, found, idle⟩)

theorem borrow_pos_iff (a : Account) : 0 < a.borrow ↔ a.guarantee < a.used + a.resv := Nat.sub_pos_iff_lt

/-- A failing test purges next what the rule names (R11). -/
theorem reclaimChoice_eq_some_iff {s : State} {d : Dept} {k : Nat} (fails : ¬ (CapPasses s d k ∧ SharedPasses s d k)) (m : Nat) :
    reclaimChoice s d k = some m ↔ Reclaims s d k m := by
  have own := candidate_eq_some_iff s (fun x => decide (x.dept = d))
  have noOwn := candidate_eq_none_iff s (fun x => decide (x.dept = d))
  have lend := candidate_eq_some_iff s (fun x => decide (0 < (acct s x.dept).borrow))
  simp only [decide_eq_true_eq, borrow_pos_iff] at own noOwn lend
  unfold reclaimChoice Reclaims
  cases c : candidate s (fun x => decide (x.dept = d)) with
  | some x =>
    have old := (own x).1 c
    have some_left : ¬ NoneLeft s (fun x => x.dept = d) := by rw [← noOwn, c]; simp
    rw [← own m, c]
    simp [fails, some_left]
  | none =>
    have left := noOwn.1 c
    rw [← own m, c]
    dsimp only
    by_cases hc : CapPasses s d k
    · have hs : ¬ SharedPasses s d k := fun h => fails ⟨hc, h⟩
      have test : (capTest s d k && !sharedTest s d k) = true := by
        rw [Bool.and_eq_true, capTest_iff, Bool.not_eq_true', ← Bool.not_eq_true, sharedTest_iff]; exact ⟨hc, hs⟩
      rw [if_pos test]
      simp [borrow_pos_iff, lend, left, hc, hs]
    · have test : ¬ (capTest s d k && !sharedTest s d k) = true := by
        rw [Bool.and_eq_true, capTest_iff]; exact fun h => hc h.1
      rw [if_neg test]
      simp [hc]

/-- A failing test with nothing left to purge fails with the cause the rule gives (R12). -/
theorem reclaimChoice_eq_none_iff {s : State} {d : Dept} {k : Nat} (fails : ¬ (CapPasses s d k ∧ SharedPasses s d k)) (cause : AllocCause) :
    (reclaimChoice s d k = none ∧ (if capTest s d k then AllocCause.shared else .cap) = cause) ↔ TestFails s d k cause := by
  have noOwn := candidate_eq_none_iff s (fun x => decide (x.dept = d))
  have noLend := candidate_eq_none_iff s (fun x => decide (0 < (acct s x.dept).borrow))
  simp only [decide_eq_true_eq, borrow_pos_iff] at noOwn noLend
  unfold reclaimChoice TestFails
  rw [← noOwn, ← noLend]
  cases c : candidate s (fun x => decide (x.dept = d)) with
  | some x => simp
  | none =>
    dsimp only
    by_cases hc : CapPasses s d k
    · have hs : ¬ SharedPasses s d k := fun h => fails ⟨hc, h⟩
      have tc := (capTest_iff s d k).2 hc
      have ts : sharedTest s d k = false := by rw [← Bool.not_eq_true, sharedTest_iff]; exact hs
      simp only [tc, ts, borrow_pos_iff, hc, hs, true_and, not_true, not_false_iff, false_and, false_or, Bool.not_false,
        Bool.and_self, if_true, eq_comm (a := cause)]
      tauto
    · have tc : capTest s d k = false := by rw [← Bool.not_eq_true, capTest_iff]; exact hc
      simp only [tc, hc, Bool.false_and, Bool.false_eq_true, if_false, true_and, not_false_iff, false_and, or_false,
        eq_comm (a := cause)]

theorem TestFails.fails {s : State} {d : Dept} {k : Nat} {cause : AllocCause} (h : TestFails s d k cause) :
    ¬ (CapPasses s d k ∧ SharedPasses s d k) := by
  obtain ⟨-, ⟨h, -⟩ | ⟨-, h, -⟩⟩ := h
  · exact fun k => h k.1
  · exact fun k => h k.2

/-! ## The rounds of reclaim -/

/-- The rounds end where the test passes (R10). -/
theorem allocRounds_passes {f : Nat} {d : Dept} {k : Nat} {s : State} (h : CapPasses s d k ∧ SharedPasses s d k) :
    allocRounds f d k s = (s, none) := by
  unfold allocRounds; rw [if_pos ((tests_iff s d k).2 h)]

/-- The rounds end where nothing is left to purge (R12). -/
theorem allocRounds_none {f : Nat} {d : Dept} {k : Nat} {s : State} (h : ¬ (CapPasses s d k ∧ SharedPasses s d k))
    (nothing : reclaimChoice s d k = none) :
    allocRounds f d k s = (s, some (if capTest s d k then AllocCause.shared else .cap)) := by
  have fails : ¬ (capTest s d k && sharedTest s d k) = true := by rw [tests_iff]; exact h
  unfold allocRounds; rw [if_neg fails, nothing]; cases f <;> rfl

/-- The rounds go on from a purge (R11). -/
theorem allocRounds_some {f : Nat} {d : Dept} {k m : Nat} {s : State} (h : ¬ (CapPasses s d k ∧ SharedPasses s d k))
    (choice : reclaimChoice s d k = some m) : allocRounds (f + 1) d k s = allocRounds f d k (purgeDoc m s) := by
  have fails : ¬ (capTest s d k && sharedTest s d k) = true := by rw [tests_iff]; exact h
  conv_lhs => unfold allocRounds
  rw [if_neg fails, choice]

/-- A round of reclaim purges a document of the reclaim list, which is then shorter. -/
theorem Reclaims.shortens {s : State} {d : Dept} {k m : Nat} (h : Reclaims s d k m) :
    (purgeDoc m s).dir.reclaim.length < s.dir.reclaim.length := by
  obtain ⟨hm, x, found, -⟩ := h.found
  rw [purgeDoc_reclaim found]
  exact List.length_filter_lt_length_iff_exists.2 ⟨m, hm, by simp⟩

/-- The rounds end before the fuel does: a reclaim list's length is enough, and more changes nothing. -/
theorem allocRounds_fuel {f : Nat} {d : Dept} {k : Nat} {s : State} (enough : s.dir.reclaim.length ≤ f) :
    allocRounds f d k s = allocTest d k s := by
  suffices same : ∀ f g s, s.dir.reclaim.length ≤ f → s.dir.reclaim.length ≤ g → allocRounds f d k s = allocRounds g d k s from
    same f s.dir.reclaim.length s enough le_rfl
  clear enough f s
  intro f g s hf hg
  induction f generalizing g s with
  | zero =>
    by_cases passes : CapPasses s d k ∧ SharedPasses s d k
    · rw [allocRounds_passes passes, allocRounds_passes passes]
    · have nothing : reclaimChoice s d k = none := by
        have : s.dir.reclaim = [] := List.length_eq_zero_iff.1 (Nat.le_zero.1 hf)
        simp [reclaimChoice, candidate, this]
      rw [allocRounds_none passes nothing, allocRounds_none passes nothing]
  | succ f ih =>
    by_cases passes : CapPasses s d k ∧ SharedPasses s d k
    · rw [allocRounds_passes passes, allocRounds_passes passes]
    · cases c : reclaimChoice s d k with
      | none => rw [allocRounds_none passes c, allocRounds_none passes c]
      | some m =>
        have shorter := ((reclaimChoice_eq_some_iff passes m).1 c).shortens
        cases g with
        | zero => omega
        | succ g => rw [allocRounds_some passes c, allocRounds_some passes c]; exact ih g _ (by omega) (by omega)

/-- A test that passes at once purges nothing (R10). -/
theorem allocTest_passes {s : State} {d : Dept} {k : Nat} (cap : CapPasses s d k) (shared : SharedPasses s d k) :
    allocTest d k s = (s, none) := allocRounds_passes ⟨cap, shared⟩

/-- A test that purges goes on from the state in which the document has gone (R11). -/
theorem allocTest_reclaims {s : State} {d : Dept} {k m : Nat} (h : Reclaims s d k m) :
    allocTest d k s = allocTest d k (purgeDoc m s) := by
  have shorter := h.shortens
  obtain ⟨f, hf⟩ : ∃ f, s.dir.reclaim.length = f + 1 := ⟨_, (Nat.succ_pred_eq_of_pos (by omega)).symm⟩
  have round : allocTest d k s = allocRounds f d k (purgeDoc m s) := by
    unfold allocTest; rw [hf, allocRounds_some h.1 ((reclaimChoice_eq_some_iff h.1 m).2 h)]
  rw [round, allocRounds_fuel (by omega)]

/-- A test that fails with nothing left to purge (R12). -/
theorem allocTest_fails {s : State} {d : Dept} {k : Nat} {cause : AllocCause} (h : TestFails s d k cause) :
    allocTest d k s = (s, some cause) := by
  obtain ⟨noChoice, hc⟩ := (reclaimChoice_eq_none_iff h.fails cause).2 h
  unfold allocTest; rw [allocRounds_none h.fails noChoice, hc]

/-- One round of reclaim of a test leads from one state to the other. -/
def ReclaimRound (d : Dept) (k : Nat) (s t : State) : Prop := ∃ m, Reclaims s d k m ∧ t = purgeDoc m s

/-- How a test ends (R9 to R12), after rounds of reclaim: it passes, or it fails with nothing left to purge. -/
theorem allocTest_cases (d : Dept) (k : Nat) (s : State) : ∃ t, Relation.ReflTransGen (ReclaimRound d k) s t ∧
    ((allocTest d k s = (t, none) ∧ CapPasses t d k ∧ SharedPasses t d k) ∨
      ∃ cause, allocTest d k s = (t, some cause) ∧ TestFails t d k cause) := by
  induction hn : s.dir.reclaim.length using Nat.strong_induction_on generalizing s with
  | _ n ih =>
    by_cases passes : CapPasses s d k ∧ SharedPasses s d k
    · exact ⟨s, .refl, .inl ⟨allocTest_passes passes.1 passes.2, passes⟩⟩
    · cases c : reclaimChoice s d k with
      | none =>
        have h := (reclaimChoice_eq_none_iff passes _).1 ⟨c, rfl⟩
        exact ⟨s, .refl, .inr ⟨_, allocTest_fails h, h⟩⟩
      | some m =>
        have h := (reclaimChoice_eq_some_iff passes m).1 c
        obtain ⟨t, rounds, ends⟩ := ih _ (hn ▸ h.shortens) (purgeDoc m s) rfl
        rw [← allocTest_reclaims h] at ends
        exact ⟨t, .head ⟨m, h, rfl⟩ rounds, ends⟩

/-- What one round of reclaim keeps, a test keeps. -/
theorem ReclaimRound.keeps {d : Dept} {k : Nat} {s t : State} (rounds : Relation.ReflTransGen (ReclaimRound d k) s t) {P : State → Prop}
    (step : ∀ u m, Reclaims u d k m → P u → P (purgeDoc m u)) (h : P s) : P t := by
  induction rounds with
  | refl => exact h
  | tail _ round ih => obtain ⟨m, hm, rfl⟩ := round; exact step _ m hm ih

/-! ## Reservations -/

/-- The blocks are reserved once the test has passed (R10, R15, R17). -/
def reserved (n : LineNo) (d : Dept) (k : Nat) (s : State) : State :=
  evalPressure (setAllotment n ⟨some d, (allotment s n).count + k⟩ (setAcct d (fun a => { a with resv := a.resv + k }) s))

theorem reserve_of_passes {n : LineNo} {d : Dept} {k : Nat} {s t : State} (h : allocTest d k s = (t, none)) :
    reserve n d k s = (reserved n d k t, true) := by
  unfold reserve; rw [h]; rfl

theorem reserve_of_fails {n : LineNo} {d : Dept} {k : Nat} {s t : State} {cause : AllocCause} (h : allocTest d k s = (t, some cause)) :
    reserve n d k s = (allocFailed d k cause t, false) := by
  unfold reserve; rw [h]

/-- How a reservation ends (R10, R12, R15), after rounds of reclaim. -/
theorem reserve_cases (n : LineNo) (d : Dept) (k : Nat) (s : State) : ∃ u, Relation.ReflTransGen (ReclaimRound d k) s u ∧
    ((reserve n d k s = (reserved n d k u, true) ∧ CapPasses u d k ∧ SharedPasses u d k) ∨
      ∃ cause, reserve n d k s = (allocFailed d k cause u, false) ∧ TestFails u d k cause) := by
  obtain ⟨u, rounds, ⟨e, passes⟩ | ⟨cause, e, fails⟩⟩ := allocTest_cases d k s
  · exact ⟨u, rounds, .inl ⟨reserve_of_passes e, passes⟩⟩
  · exact ⟨u, rounds, .inr ⟨cause, reserve_of_fails e, fails⟩⟩

theorem allotment_congr {s t : State} (h : t.store.allotments = s.store.allotments) (n : LineNo) : allotment t n = allotment s n := by
  unfold allotment; rw [h]

theorem acct_reserved (n : LineNo) (d : Dept) (k : Nat) (s : State) (e : Dept) :
    acct (reserved n d k s) e = if e = d then { acct s d with resv := (acct s d).resv + k } else acct s e := by
  rw [reserved, acct_evalPressure, show acct (setAllotment n _ (setAcct d _ s)) e = acct (setAcct d _ s) e from rfl, acct_setAcct]

theorem allotment_reserved (n : LineNo) (d : Dept) (k : Nat) (s : State) (m : LineNo) :
    allotment (reserved n d k s) m = if m = n then ⟨some d, (allotment s n).count + k⟩ else allotment s m := by
  rw [reserved, allotment_congr (s := setAllotment n _ _) (by rw [evalPressure_frame]), allotment_setAllotment]; rfl

theorem reserved_pressure (n : LineNo) (d : Dept) (k : Nat) (s : State) :
    (reserved n d k s).store.pressure = pressureAfter s.store.pressure (reserved n d k s) := evalPressure_settled _

theorem reserved_marked (n : LineNo) (d : Dept) (k : Nat) (s : State) :
    Marked s (reserved n d k s) (fun x => x = .store ∧ (reserved n d k s).store.pressure ≠ s.store.pressure) :=
  (evalPressure_marked _).of_link rfl rfl rfl

theorem reserved_frame (n : LineNo) (d : Dept) (k : Nat) (s : State) : reserved n d k s =
    { s with
      store := { s.store with
        accounts := (reserved n d k s).store.accounts, allotments := (reserved n d k s).store.allotments
        pressure := (reserved n d k s).store.pressure }
      link := { s.link with notices := (reserved n d k s).link.notices } } := by
  unfold reserved; rw [evalPressure_frame]; rfl

/-- A reservation that passes its tests leaves no more committed than the pool shares (R9). -/
theorem reserved_shared {n : LineNo} {d : Dept} {k : Nat} {s : State} (h : SharedPasses s d k) :
    sharedCommitted (reserved n d k s) ≤ sharedPool (reserved n d k s) := by
  have accounts : (reserved n d k s).store.accounts = (setAcct d (fun a => { a with resv := a.resv + k }) s).store.accounts :=
    evalPressure_accounts _
  have committed := sumAccounts_setAcct d (fun a => { a with resv := a.resv + k }) s Account.borrow
  have guaranteed := sumAccounts_setAcct d (fun a => { a with resv := a.resv + k }) s (fun a => if a.configured then a.guarantee else 0)
  have pool : sharedPool (setAcct d (fun a => { a with resv := a.resv + k }) s) = sharedPool s := by
    unfold sharedPool guarantees; rw [Nat.add_right_cancel guaranteed]
  rw [sharedPool_congr accounts, sharedCommitted_congr accounts, pool]
  have passes : sharedCommitted s + (((acct s d).used + (acct s d).resv + k - (acct s d).guarantee) -
    ((acct s d).used + (acct s d).resv - (acct s d).guarantee)) ≤ sharedPool s := h
  have sum : sharedCommitted (setAcct d (fun a => { a with resv := a.resv + k }) s) +
      ((acct s d).used + (acct s d).resv - (acct s d).guarantee) =
    sharedCommitted s + ((acct s d).used + ((acct s d).resv + k) - (acct s d).guarantee) := committed
  omega

theorem acct_allocFailed (d : Dept) (k : Nat) (cause : AllocCause) (s : State) (e : Dept) : acct (allocFailed d k cause s) e =
    if e = d then { acct s d with lastFailure := some ⟨cause, k, s.clock.run⟩ } else acct s e := by
  rw [allocFailed, acct_evalPressure, show acct (mark _ (setAcct d _ s)) e = acct (setAcct d _ s) e from rfl, acct_setAcct]

theorem allocFailed_pressure (d : Dept) (k : Nat) (cause : AllocCause) (s : State) :
    (allocFailed d k cause s).store.pressure = pressureAfter s.store.pressure (allocFailed d k cause s) := evalPressure_settled _

theorem allocFailed_marked (d : Dept) (k : Nat) (cause : AllocCause) (s : State) : Marked s (allocFailed d k cause s)
    (fun x => x = .department d ∨ (x = .store ∧ (allocFailed d k cause s).store.pressure ≠ s.store.pressure)) :=
  ((mark_marked (.department d) (setAcct d (fun a => { a with lastFailure := some ⟨cause, k, s.clock.run⟩ }) s)).trans
    (evalPressure_marked _) rfl).of_link rfl rfl rfl

theorem allocFailed_frame (d : Dept) (k : Nat) (cause : AllocCause) (s : State) : allocFailed d k cause s =
    { s with
      store := { s.store with
        accounts := (allocFailed d k cause s).store.accounts, pressure := (allocFailed d k cause s).store.pressure }
      link := { s.link with notices := (allocFailed d k cause s).link.notices } } := by
  unfold allocFailed; rw [evalPressure_frame]; rfl

/-- What the rounds of a test keep of the state: the allotments, the clock, and the accounts but for their used counts. -/
theorem ReclaimRound.keeps_accounts {d : Dept} {k : Nat} {s t : State} (rounds : Relation.ReflTransGen (ReclaimRound d k) s t) :
    t.store.allotments = s.store.allotments ∧ t.clock = s.clock ∧
      ∀ e : Dept, acct t e = { acct s e with used := (acct t e).used } := by
  refine ReclaimRound.keeps rounds (P := fun t => t.store.allotments = s.store.allotments ∧ t.clock = s.clock ∧
    ∀ e : Dept, acct t e = { acct s e with used := (acct t e).used }) (fun u m hm ⟨ha, hc, hk⟩ => ?_) ⟨rfl, rfl, fun _ => rfl⟩
  obtain ⟨-, x, found, -⟩ := hm.found
  exact ⟨(purgeDoc_allotments m u).trans ha, (purgeDoc_clock m u).trans hc, fun e => by
    rw [acct_purgeDoc_used found e, hk e]⟩

/-- What the rounds of a test leave of the records (R11): those it may not purge stand. -/
theorem ReclaimRound.keeps_docs {d : Dept} {k : Nat} {s t : State} (rounds : Relation.ReflTransGen (ReclaimRound d k) s t) :
    t.dir.docs.Sublist s.dir.docs ∧ (∀ m ∈ t.dir.reclaim, m ∈ s.dir.reclaim) ∧
      (∀ x ∈ s.dir.docs, x.number ∉ s.dir.reclaim → x ∈ t.dir.docs) ∧
      (∀ x ∈ s.dir.docs, findDoc s x.number = some x → x.verifying = true → x ∈ t.dir.docs ∧ findDoc t x.number = some x) := by
  refine ReclaimRound.keeps rounds (P := fun t => t.dir.docs.Sublist s.dir.docs ∧ (∀ m ∈ t.dir.reclaim, m ∈ s.dir.reclaim) ∧
      (∀ x ∈ s.dir.docs, x.number ∉ s.dir.reclaim → x ∈ t.dir.docs) ∧
      (∀ x ∈ s.dir.docs, findDoc s x.number = some x → x.verifying = true → x ∈ t.dir.docs ∧ findDoc t x.number = some x))
    (fun u m hm ⟨sub, less, kept, read⟩ => ?_)
    ⟨List.Sublist.refl _, fun _ h => h, fun _ h _ => h, fun _ h e _ => ⟨h, e⟩⟩
  obtain ⟨hr, y, found, idle⟩ := hm.found
  rw [purgeDoc_docs found, purgeDoc_reclaim found]
  refine ⟨List.filter_sublist.trans sub, fun a ha => less a (List.mem_of_mem_filter ha), fun x hx hn => ?_, fun x hx hf hv => ?_⟩
  · refine List.mem_filter.2 ⟨kept x hx hn, decide_eq_true ?_⟩
    rintro rfl; exact hn (less _ hr)
  · obtain ⟨here, still⟩ := read x hx hf hv
    have other : x.number ≠ m := by
      rintro rfl
      rw [still] at found
      obtain rfl := Option.some.inj found
      rw [idle] at hv; cases hv
    rw [findDoc_purgeDoc found, if_neg other]
    exact ⟨List.mem_filter.2 ⟨here, decide_eq_true other⟩, still⟩

/-- Settles O37, by the ways a reservation can end. -/
theorem reservationsFollowTheTest : Obligations.ReservationsFollowTheTest := by
  intro s n d k a
  refine ⟨fun cap shared => ?_, fun m hm => ⟨?_, fun y hy => purgeEvent_purged hy⟩, fun cause fails => ?_, ?_, ?_, ?_⟩
  · refine ⟨_, reserve_of_passes (allocTest_passes cap shared), ?_, fun e he => ?_, ?_, fun m hm => ?_, reserved_pressure n d k s,
      reserved_marked n d k s, reserved_frame n d k s⟩
    · rw [acct_reserved, if_pos rfl]
    · rw [acct_reserved, if_neg he]
    · rw [allotment_reserved, if_pos rfl]
    · rw [allotment_reserved, if_neg hm]
  · unfold reserve; rw [allocTest_reclaims hm]
  · refine ⟨_, reserve_of_fails (allocTest_fails fails), ?_, fun e he => ?_, allocFailed_pressure d k cause s,
      allocFailed_marked d k cause s, allocFailed_frame d k cause s⟩
    · rw [acct_allocFailed, if_pos rfl]
    · rw [acct_allocFailed, if_neg he]
  · intro t ht
    obtain ⟨u, rounds, ⟨e, cap, shared⟩ | ⟨cause, e, -⟩⟩ := reserve_cases n d k s <;> rw [e] at ht
    · obtain rfl := (Prod.mk.inj ht).1
      obtain ⟨allots, -, accounts⟩ := ReclaimRound.keeps_accounts rounds
      rw [acct_reserved, if_pos rfl, allotment_reserved, if_pos rfl, allotment_congr allots]
      have resv : (acct u d).resv = a.resv := by rw [accounts d]
      refine ⟨?_, reserved_shared shared, rfl, congrArg (· + k) resv⟩
      have : (acct u d).used + (acct u d).resv + k ≤ (acct u d).cap := cap
      show (acct u d).used + ((acct u d).resv + k) ≤ (acct u d).cap
      omega
    · cases (Prod.mk.inj ht).2
  · intro t yes ht
    obtain ⟨u, rounds, ends⟩ := reserve_cases n d k s
    have dir : t.dir = u.dir := by
      obtain ⟨e, -⟩ | ⟨cause, e, -⟩ := ends <;> rw [e] at ht <;> obtain rfl := (Prod.mk.inj ht).1
      · rw [reserved_frame]
      · rw [allocFailed_frame]
    obtain ⟨sub, -, kept, read⟩ := ReclaimRound.keeps_docs rounds
    rw [dir]
    exact ⟨sub, kept, fun x hx hf hv => (read x hx hf hv).1⟩
  · intro t ht
    obtain ⟨u, rounds, ⟨e, -⟩ | ⟨cause, e, fails⟩⟩ := reserve_cases n d k s <;> rw [e] at ht
    · cases (Prod.mk.inj ht).2
    · obtain rfl := (Prod.mk.inj ht).1
      obtain ⟨allots, clock, accounts⟩ := ReclaimRound.keeps_accounts rounds
      have frame := allocFailed_frame d k cause u
      have docs : ∀ m, findDoc (allocFailed d k cause u) m = findDoc u m := findDoc_dir (by rw [frame])
      rw [acct_allocFailed, if_pos rfl]
      refine ⟨?_, ?_, ⟨cause, ?_, ?_⟩, ?_⟩
      · rw [allotment_congr (s := u) (by rw [frame]), allotment_congr allots]
      · show (acct u d).resv = _; rw [accounts d]
      · show some (LastFailure.mk cause k u.clock.run) = _; rw [clock]
      · obtain ⟨-, ⟨no, rfl⟩ | ⟨yes, -, rfl, -⟩⟩ := fails
        · simpa [CapPasses] using no
        · simpa [CapPasses] using yes
      · intro m hm x hx
        rw [docs] at hx
        exact fails.1 m (by rw [frame] at hm; exact hm) x hx

end Sys2Proof.Machine
end

section
/-! The store's books (R1, R7, R8, R9, R14, R43) as a law of the blocks, accounts, allotments and records alone, and what keeps it. -/

namespace Sys2Proof.Machine

open Sys2Proof

/-! ## What the books read of the state -/

/-- What the books read of a document: stray says that it holds a landing page although it is not LANDING. -/
structure Book where
  number : Nat
  dept : Dept
  line : LineNo
  life : Life
  held : List Block
  stray : Bool

/-- What the books read of an account. -/
structure Purse where
  configured : Bool
  guarantee : Nat
  cap : Nat
  used : Nat
  resv : Nat

/-- What the books read of the store. -/
structure Shelf where
  free : List Block
  spares : List Block
  retired : List Block
  purses : Dept → Purse
  allots : LineNo → Allotment

/-- What the books read of the directory. -/
structure Roll where
  books : List Book
  next : Nat
  reclaim : List Nat

def bookOf (d : Document) : Book :=
  ⟨d.number, d.dept, d.line, d.life, heldBlocks d, d.landing.isSome && decide (d.life ≠ .landing)⟩

def purseOf (a : Account) : Purse := ⟨a.configured, a.guarantee, a.cap, a.used, a.resv⟩

def shelf (st : PageStore) : Shelf :=
  ⟨st.free, st.spares, st.retired, fun e => purseOf st.accounts[e], fun n => st.allotments[n]⟩

def roll (dir : Directory) : Roll := ⟨dir.docs.map bookOf, dir.nextNumber, dir.reclaim⟩

/-- The store is initialized (R224), as isOpen says it of the state. -/
def opened (p : Part) : Bool := p.phase == some .ready || p.phase == some .restarting

def Purse.borrow (p : Purse) : Nat := p.used + p.resv - p.guarantee

def Purse.guaranteed (p : Purse) : Nat := if p.configured then p.guarantee else 0

/-- A sum over the accounts. -/
def Shelf.sum (sh : Shelf) (f : Purse → Nat) : Nat := ((List.finRange 32).map (fun e => f (sh.purses e))).sum

/-- The blocks that the lines' allotments hold for a department (R14). -/
def Shelf.allotted (sh : Shelf) (e : Dept) : Nat :=
  ((List.finRange 16).map (fun n => if (sh.allots n).dept = some e then (sh.allots n).count else 0)).sum

def Shelf.setPurse (d : Dept) (p : Purse) (sh : Shelf) : Shelf := { sh with purses := Function.update sh.purses d p }

def Shelf.setAllot (n : LineNo) (a : Allotment) (sh : Shelf) : Shelf := { sh with allots := Function.update sh.allots n a }

/-- The blocks a department's documents hold. -/
def heldBy (e : Dept) (books : List Book) : Nat := (books.map (fun b => if b.dept = e then b.held.length else 0)).sum

/-- One record changes. -/
def Roll.modBook (n : Nat) (f : Book → Book) (R : Roll) : Roll :=
  { R with books := R.books.map (fun b => if b.number = n then f b else b) }

def Book.give (bs : List Block) (b : Book) : Book := { b with held := b.held ++ bs }

/-- Blocks that a draw has taken, and the record does not yet show, go to the document they were drawn for. -/
def Roll.give (k : Nat) (bs : List Block) (R : Roll) : Roll := R.modBook k (Book.give bs)

/-- A record's slot is freed. -/
def Roll.drop (n : Nat) (R : Roll) : Roll :=
  { R with books := R.books.filter (fun b => decide (b.number ≠ n)), reclaim := R.reclaim.filter (fun x => decide (x ≠ n)) }

/-- The books but for what they say of the lines: numbers rise; every block is in one place; used counts are the documents', reserved
counts the allotments'; the caps and the shared pool hold; the reclaim list holds the SETTLED documents. -/
structure Books (o : Bool) (sh : Shelf) (R : Roll) : Prop where
  rising : (R.books.map Book.number).Pairwise (· < ·)
  below : ∀ b ∈ R.books, b.number < R.next
  unopened : o = false → R.books = []
  places : o = true → (sh.free ++ sh.spares ++ sh.retired ++ R.books.flatMap Book.held).Perm (List.finRange 32768)
  pool : o = true → sh.free.length + sh.sum Purse.used = 32704
  used : ∀ e, (sh.purses e).used = heldBy e R.books
  resv : ∀ e, (sh.purses e).resv = sh.allotted e
  caps : ∀ e, (sh.purses e).used + (sh.purses e).resv ≤ (sh.purses e).cap
  shared : sh.sum Purse.borrow + sh.sum Purse.guaranteed ≤ 32704
  guarantees : sh.sum Purse.guaranteed ≤ 31680
  absent : ∀ e, (sh.purses e).configured = false →
    (sh.purses e).guarantee = 0 ∧ (sh.purses e).cap = 0 ∧ (sh.purses e).used = 0 ∧ (sh.purses e).resv = 0
  settled : R.reclaim.Nodup ∧ ∀ m, m ∈ R.reclaim ↔ ∃ b ∈ R.books, b.number = m ∧ b.life = .settled
  strays : ∀ b ∈ R.books, b.stray = false

/-- The document of a receiving call in progress on a line: none when no such call is in progress. -/
def callDoc (l : Line) : Option (Option Nat) := if receivingChan l.chan then (rxOf l).map RxCall.document else none

/-- A document is LANDING for a line and a department. -/
def LandsFor (books : List Book) (n : LineNo) (k : Nat) (d : Dept) : Prop :=
  ∃ b ∈ books, b.number = k ∧ b.life = .landing ∧ b.line = n ∧ b.dept = d

/-- A channel in a front-end reset carries no call (R74). -/
def resetOk (l : Line) : Prop := l.reset ≠ .none → l.chan = .releasing

/-- What the books say of a line: its receiving call has a LANDING document and the allotment of its department, a line without such a
call has none. -/
def LineOk (allots : LineNo → Allotment) (books : List Book) (n : LineNo) (l : Line) : Prop :=
  (∀ o, callDoc l = some o → ∃ k d, o = some k ∧ LandsFor books n k d ∧ (allots n).dept = some d) ∧
  (callDoc l = none → allots n = ⟨none, 0⟩) ∧ resetOk l

/-! ## The law in these words -/

theorem callDoc_none_iff (l : Line) : callDoc l = none ↔ inReceiving l = false := by
  unfold callDoc inReceiving; cases receivingChan l.chan <;> cases rxOf l <;> simp

theorem callDoc_some_iff (l : Line) (o : Option Nat) :
    callDoc l = some o ↔ ∃ c, rxOf l = some c ∧ receivingChan l.chan = true ∧ c.document = o := by
  unfold callDoc; cases receivingChan l.chan <;> cases rxOf l <;> simp

theorem heldBy_filter (e : Dept) (docs : List Document) :
    heldBy e (docs.map bookOf) = ((docs.filter (fun d => decide (d.dept = e))).flatMap heldBlocks).length := by
  unfold heldBy
  induction docs with
  | nil => rfl
  | cons x xs ih => by_cases hx : x.dept = e <;> simp_all [bookOf]

theorem landsFor_iff (docs : List Document) (n : LineNo) (k : Nat) (d : Dept) :
    LandsFor (docs.map bookOf) n k d ↔ ∃ x ∈ docs, x.number = k ∧ x.life = .landing ∧ x.line = n ∧ x.dept = d := by
  simp [LandsFor, bookOf]

theorem sum_shelf (s : State) (f : Purse → Nat) : (shelf s.store).sum f = sumAccounts s (fun a => f (purseOf a)) := by
  rw [sumAccounts_eq]; rfl

/-- The store's books as Safety.lean states them. -/
theorem storeOk_iff (s : State) : StoreOk s ↔
    Books (opened s.part) (shelf s.store) (roll s.dir) ∧ ∀ n, LineOk (shelf s.store).allots (roll s.dir).books n (lineAt s n) := by
  have committed : (shelf s.store).sum Purse.borrow = sharedCommitted s := sum_shelf s _
  have guaranteed : (shelf s.store).sum Purse.guaranteed = guarantees s := sum_shelf s _
  have pool : sharedPool s = 32704 - guarantees s := rfl
  have numbers : (s.dir.docs.map bookOf).map Book.number = s.dir.docs.map (fun d => d.number) := by rw [List.map_map]; rfl
  constructor
  · intro h
    obtain ⟨⟨hn, hb⟩, h2, h3, h4, h5, h6, h7, ⟨h8, h8'⟩, h9, ⟨hr, hr'⟩, h10, h11, h12, h13⟩ := h
    refine ⟨⟨?_, by simpa [roll, bookOf] using hb, fun h => by simp [roll, h2 h], ?_, h4, fun e => ?_, h6, h7, by omega, by omega, h9,
      ⟨hr, by simpa [roll, bookOf] using hr'⟩, ?_⟩, fun n => ⟨fun o ho => ?_, fun ho => h12 n ((callDoc_none_iff _).1 ho), h13 n⟩⟩
    · show List.Pairwise _ ((s.dir.docs.map bookOf).map Book.number); rw [numbers]; exact hn
    · intro ho
      have := h3 ho
      rwa [show (roll s.dir).books.flatMap Book.held = s.dir.docs.flatMap heldBlocks from List.flatMap_map ..]
    · exact (h5 e).trans (heldBy_filter e s.dir.docs).symm
    · intro b hb
      obtain ⟨d, hd, rfl⟩ := List.mem_map.1 hb
      have := h10 d hd
      cases hl : d.landing <;> simp_all [bookOf]
    · obtain ⟨c, hc, hch, rfl⟩ := (callDoc_some_iff _ o).1 ho
      obtain ⟨d, hd, hk, hl, hline, ha⟩ := h11 n c hc hch
      exact ⟨d.number, d.dept, hk, (landsFor_iff _ _ _ _).2 ⟨d, hd, rfl, hl, hline, rfl⟩, ha⟩
  · rintro ⟨⟨b1, b2, b3, b4, b5, b6, b7, b8, b9, b9', b10, ⟨b11, b11'⟩, b12⟩, lines⟩
    refine ⟨⟨by rw [← numbers]; exact b1, by simpa [roll, bookOf] using b2⟩, fun h => by simpa [roll] using b3 h, fun ho => ?_, b5,
      fun e => (b6 e).trans (heldBy_filter e s.dir.docs), b7, b8, ⟨by omega, by omega⟩, b10,
      ⟨b11, by simpa [roll, bookOf] using b11'⟩, ?_, fun n c hc hch => ?_, fun n hn => ?_, fun n => ?_⟩
    · have := b4 ho
      rwa [show (roll s.dir).books.flatMap Book.held = s.dir.docs.flatMap heldBlocks from List.flatMap_map ..] at this
    · intro d hd hl
      have := b12 (bookOf d) (List.mem_map_of_mem hd)
      cases h : d.landing <;> simp_all [bookOf]
    · obtain ⟨k, d, hk, lands, ha⟩ := (lines n).1 _ ((callDoc_some_iff _ _).2 ⟨c, hc, hch, rfl⟩)
      obtain ⟨x, hx, rfl, hl, hline, rfl⟩ := (landsFor_iff _ _ _ _).1 lands
      exact ⟨x, hx, hk, hl, hline, ha⟩
    · exact (lines n).2.1 ((callDoc_none_iff _).2 hn)
    · exact (lines n).2.2

/-! ## Sums and lists of the books -/

theorem Shelf.sum_setPurse (d : Dept) (p : Purse) (sh : Shelf) (f : Purse → Nat) :
    (sh.setPurse d p).sum f + f (sh.purses d) = sh.sum f + f p := by
  have h := sum_finRange_update d (f := fun e => f ((sh.setPurse d p).purses e)) (g := fun e => f (sh.purses e))
    (fun e he => by simp [Shelf.setPurse, he])
  simpa [Shelf.sum, Shelf.setPurse] using h

theorem Shelf.le_sum (sh : Shelf) (f : Purse → Nat) (d : Dept) : f (sh.purses d) ≤ sh.sum f :=
  List.single_le_sum (by simp) _ (List.mem_map.2 ⟨d, List.mem_finRange d, rfl⟩)

theorem Shelf.allotted_setAllot (n : LineNo) (a : Allotment) (sh : Shelf) (e : Dept) :
    (sh.setAllot n a).allotted e + (if (sh.allots n).dept = some e then (sh.allots n).count else 0) =
      sh.allotted e + (if a.dept = some e then a.count else 0) := by
  have h := sum_finRange_update n
    (f := fun m => if ((sh.setAllot n a).allots m).dept = some e then ((sh.setAllot n a).allots m).count else 0)
    (g := fun m => if (sh.allots m).dept = some e then (sh.allots m).count else 0)
    (fun m hm => by simp [Shelf.setAllot, hm])
  simpa [Shelf.allotted, Shelf.setAllot] using h

theorem Shelf.le_allotted (sh : Shelf) {n : LineNo} {e : Dept} (h : (sh.allots n).dept = some e) :
    (sh.allots n).count ≤ sh.allotted e :=
  List.single_le_sum (by simp) _ (List.mem_map.2 ⟨n, List.mem_finRange n, if_pos h⟩)

theorem heldBy_append (e : Dept) (xs ys : List Book) : heldBy e (xs ++ ys) = heldBy e xs + heldBy e ys := by
  simp [heldBy]

/-- The record of a number, cut out of the list. -/
theorem Books.cut {o : Bool} {sh : Shelf} {R : Roll} (h : Books o sh R) {x : Book} (hx : x ∈ R.books) :
    ∃ front back, R.books = front ++ x :: back ∧ ∀ y ∈ front ++ back, y.number ≠ x.number := by
  obtain ⟨front, back, e⟩ := List.append_of_mem hx
  refine ⟨front, back, e, fun y hy => ?_⟩
  have rising := h.rising
  rw [e, List.map_append, List.map_cons, List.pairwise_append] at rising
  obtain ⟨-, after, before⟩ := rising
  rcases List.mem_append.1 hy with hy | hy
  · exact Nat.ne_of_lt (before _ (List.mem_map_of_mem hy) _ (by simp))
  · exact (Nat.ne_of_lt (List.rel_of_pairwise_cons after (List.mem_map_of_mem hy))).symm

theorem Books.unique {o : Bool} {sh : Shelf} {R : Roll} (h : Books o sh R) {x y : Book} (hx : x ∈ R.books) (hy : y ∈ R.books)
    (e : x.number = y.number) : x = y := by
  obtain ⟨front, back, cut, others⟩ := h.cut hx
  by_contra ne
  have : y ∈ front ++ back := by rw [cut] at hy; simp at hy ⊢; tauto
  exact others y this e.symm

/-! ## What keeps the books -/

/-- An account of which blocks have been given back. -/
def Purse.less (k : Nat) (p : Purse) : Purse := { p with used := p.used - k }

@[simp] theorem Purse.less_used (k : Nat) (p : Purse) : (p.less k).used = p.used - k := rfl
@[simp] theorem Purse.less_resv (k : Nat) (p : Purse) : (p.less k).resv = p.resv := rfl
@[simp] theorem Purse.less_cap (k : Nat) (p : Purse) : (p.less k).cap = p.cap := rfl
@[simp] theorem Purse.less_guaranteed (k : Nat) (p : Purse) : (p.less k).guaranteed = p.guaranteed := rfl

theorem Purse.less_borrow_le (k : Nat) (p : Purse) : (p.less k).borrow ≤ p.borrow := by
  unfold Purse.borrow Purse.less; dsimp only; omega

/-- Blocks of a department have been given back (R6, R197). -/
structure Returned (d : Dept) (bs : List Block) (sh sh' : Shelf) : Prop where
  lists : (sh'.free ++ sh'.spares ++ sh'.retired).Perm (sh.free ++ sh.spares ++ sh.retired ++ bs)
  free : sh'.free.length = sh.free.length + bs.length
  purse : sh'.purses = (sh.setPurse d ((sh.purses d).less bs.length)).purses
  allots : sh'.allots = sh.allots

theorem Returned.nothing (d : Dept) (sh : Shelf) : Returned d [] sh sh :=
  ⟨by simp, rfl, by simp [Shelf.setPurse, Purse.less], rfl⟩

/-- Records may change in their life, leave, or give blocks back (R6, R18, R41, R42, R45). -/
theorem Books.returned {o : Bool} {sh sh' : Shelf} {R R' : Roll} (h : Books o sh R) {d : Dept} {bs : List Block}
    (back : Returned d bs sh sh') (numbers : (R'.books.map Book.number).Sublist (R.books.map Book.number)) (next : R'.next = R.next)
    (held : (R.books.flatMap Book.held).Perm (R'.books.flatMap Book.held ++ bs))
    (shares : ∀ e, heldBy e R.books = heldBy e R'.books + if e = d then bs.length else 0)
    (settled : R'.reclaim.Nodup ∧ ∀ m, m ∈ R'.reclaim ↔ ∃ b ∈ R'.books, b.number = m ∧ b.life = .settled)
    (strays : ∀ b ∈ R'.books, b.stray = false) : Books o sh' R' := by
  have purse (e : Dept) : sh'.purses e = if e = d then ((sh.purses d).less bs.length) else sh.purses e := by
    rw [back.purse]; simp [Shelf.setPurse, Function.update_apply]
  have sums (f : Purse → Nat) : sh'.sum f = (sh.setPurse d ((sh.purses d).less bs.length)).sum f := by
    unfold Shelf.sum; rw [back.purse]
  have used_d := h.used d
  have share_d := shares d
  rw [if_pos rfl] at share_d
  have number_mem (b : Book) (hb : b ∈ R'.books) : ∃ c ∈ R.books, c.number = b.number := by
    obtain ⟨c, hc, e⟩ := List.mem_map.1 (numbers.subset (List.mem_map_of_mem hb)); exact ⟨c, hc, e⟩
  refine ⟨h.rising.sublist numbers, fun b hb => ?_, fun ho => ?_, fun ho => ?_, fun ho => ?_, fun e => ?_, fun e => ?_, fun e => ?_, ?_, ?_,
    fun e he => ?_, settled, strays⟩
  · obtain ⟨c, hc, e⟩ := number_mem b hb; rw [next, ← e]; exact h.below c hc
  · have := numbers; rw [h.unopened ho] at this; simpa using this
  · have moved : (sh.free ++ sh.spares ++ sh.retired ++ bs ++ R'.books.flatMap Book.held).Perm
        (sh.free ++ sh.spares ++ sh.retired ++ (R'.books.flatMap Book.held ++ bs)) := by
      rw [List.append_assoc]; exact List.perm_append_comm.append_left _
    exact (back.lists.append_right _).trans (moved.trans ((held.symm.append_left _).trans (h.places ho)))
  · have := h.pool ho
    have step := sh.sum_setPurse d ((sh.purses d).less bs.length) Purse.used
    rw [sums, back.free]; rw [Purse.less_used] at step; omega
  · rw [purse]; have := h.used e; have := shares e
    split at this
    · rename_i he; subst he; rw [if_pos rfl]; rw [Purse.less_used]; omega
    · rename_i he; rw [if_neg he]; omega
  · have same : sh'.allotted e = sh.allotted e := by unfold Shelf.allotted; rw [back.allots]
    rw [purse, same, ← h.resv e]; split
    · rename_i he; rw [he]; rfl
    · rfl
  · rw [purse]; have := h.caps e; split
    · rename_i he; subst he; simp only [Purse.less_used, Purse.less_resv, Purse.less_cap]; omega
    · exact this
  · have b := sh.sum_setPurse d ((sh.purses d).less bs.length) Purse.borrow
    have g := sh.sum_setPurse d ((sh.purses d).less bs.length) Purse.guaranteed
    have := h.shared
    have less := (sh.purses d).less_borrow_le bs.length
    rw [Purse.less_guaranteed] at g
    rw [sums, sums]; omega
  · have g := sh.sum_setPurse d ((sh.purses d).less bs.length) Purse.guaranteed
    have := h.guarantees
    rw [Purse.less_guaranteed] at g
    rw [sums]; omega
  · rw [purse] at he ⊢; split at he
    · rename_i hd; rw [if_pos hd]
      obtain ⟨a, b, c, r⟩ := h.absent d he
      exact ⟨a, b, by rw [Purse.less_used]; omega, r⟩
    · rename_i hd; rw [if_neg hd]; exact h.absent e he

theorem map_cut {front back : List Book} {x : Book} (others : ∀ y ∈ front ++ back, y.number ≠ x.number) (f : Book → Book) :
    (front ++ x :: back).map (fun b => if b.number = x.number then f b else b) = front ++ f x :: back := by
  have keep (l : List Book) (h : ∀ y ∈ l, y.number ≠ x.number) : l.map (fun b => if b.number = x.number then f b else b) = l :=
    (List.map_congr_left (fun y hy => if_neg (h y hy))).trans (List.map_id' l)
  rw [List.map_append, List.map_cons, if_pos rfl, keep front (fun y hy => others y (by simp [hy])),
    keep back (fun y hy => others y (by simp [hy]))]

theorem filter_cut {front back : List Book} {x : Book} (others : ∀ y ∈ front ++ back, y.number ≠ x.number) :
    (front ++ x :: back).filter (fun b => decide (b.number ≠ x.number)) = front ++ back := by
  rw [List.filter_append, List.filter_cons_of_neg (by simp), ← List.filter_append, List.filter_eq_self]
  exact fun y hy => decide_eq_true (others y hy)

/-- A record leaves, its blocks given back (R45, R30, R34). -/
theorem Books.dropped {o : Bool} {sh sh' : Shelf} {R : Roll} (h : Books o sh R) {x : Book} (hx : x ∈ R.books)
    (back : Returned x.dept x.held sh sh') : Books o sh' (R.drop x.number) := by
  obtain ⟨front, rest, cut, others⟩ := h.cut hx
  have left : (R.drop x.number).books = front ++ rest := by unfold Roll.drop; dsimp only; rw [cut, filter_cut others]
  refine h.returned back ?_ rfl ?_ (fun e => ?_) ⟨h.settled.1.filter _, fun m => ?_⟩ (fun b hb => ?_)
  · rw [left, cut, List.map_append, List.map_append, List.map_cons]
    exact (List.sublist_cons_self _ _).append_left _
  · rw [left, cut, List.flatMap_append, List.flatMap_append, List.flatMap_cons, List.append_assoc]
    exact List.perm_append_comm.append_left _
  · rw [left, cut, heldBy_append, heldBy_append, ← List.singleton_append, heldBy_append]
    simp only [heldBy, List.map_cons, List.map_nil, List.sum_cons, List.sum_nil, eq_comm (a := e)]; omega
  · show m ∈ R.reclaim.filter _ ↔ _
    rw [List.mem_filter, h.settled.2 m, left, cut]
    constructor
    · rintro ⟨⟨b, hb, rfl, hl⟩, ne⟩
      refine ⟨b, ?_, rfl, hl⟩
      rcases List.mem_append.1 hb with hb | hb
      · simp [hb]
      · rcases List.mem_cons.1 hb with rfl | hb
        · simp at ne
        · simp [hb]
    · rintro ⟨b, hb, rfl, hl⟩
      refine ⟨⟨b, ?_, rfl, hl⟩, decide_eq_true (others b hb)⟩
      rcases List.mem_append.1 hb with hb | hb <;> simp [hb]
  · exact h.strays b (List.mem_of_mem_filter hb)

/-- A record changes and keeps its number and department; the blocks it no longer holds are given back. -/
theorem Books.rewritten {o : Bool} {sh sh' : Shelf} {R : Roll} (h : Books o sh R) {x : Book} (hx : x ∈ R.books) (f : Book → Book)
    {bs : List Block} (back : Returned x.dept bs sh sh') (number : (f x).number = x.number) (dept : (f x).dept = x.dept)
    (held : x.held.Perm ((f x).held ++ bs)) (stray : (f x).stray = false) {reclaim : List Nat} (nodup : reclaim.Nodup)
    (settled : ∀ m, m ∈ reclaim ↔ if m = x.number then (f x).life = .settled else m ∈ R.reclaim) :
    Books o sh' { R.modBook x.number f with reclaim := reclaim } := by
  obtain ⟨front, rest, cut, others⟩ := h.cut hx
  have made : (R.modBook x.number f).books = front ++ f x :: rest := by unfold Roll.modBook; dsimp only; rw [cut, map_cut others]
  refine h.returned back ?_ rfl ?_ (fun e => ?_) ⟨nodup, fun m => ?_⟩ ?_
  · show ((R.modBook x.number f).books.map Book.number).Sublist _
    rw [made, cut, List.map_append, List.map_append, List.map_cons, List.map_cons, number]
  · show List.Perm _ ((R.modBook x.number f).books.flatMap _ ++ bs)
    rw [made, cut, List.flatMap_append, List.flatMap_append, List.flatMap_cons, List.flatMap_cons, List.append_assoc]
    refine List.Perm.append_left _ ?_
    have moved : ((f x).held ++ bs ++ rest.flatMap Book.held).Perm ((f x).held ++ rest.flatMap Book.held ++ bs) := by
      rw [List.append_assoc, List.append_assoc]; exact List.perm_append_comm.append_left _
    exact (held.append_right _).trans moved
  · show _ = heldBy e (R.modBook x.number f).books + _
    have len := held.length_eq
    rw [List.length_append] at len
    rw [made, cut, heldBy_append, heldBy_append, ← List.singleton_append, heldBy_append, ← List.singleton_append (l := rest), heldBy_append]
    simp only [heldBy, List.map_cons, List.map_nil, List.sum_cons, List.sum_nil, eq_comm (a := e), dept]
    split <;> omega
  · show _ ↔ ∃ b ∈ (R.modBook x.number f).books, _
    rw [settled m, made]
    by_cases hm : m = x.number
    · rw [if_pos hm]
      constructor
      · exact fun hl => ⟨f x, by simp, number.trans hm.symm, hl⟩
      · rintro ⟨b, hb, rfl, hl⟩
        rcases List.mem_append.1 hb with hb | hb
        · exact absurd hm (others b (by simp [hb]))
        · rcases List.mem_cons.1 hb with rfl | hb
          · exact hl
          · exact absurd hm (others b (by simp [hb]))
    · rw [if_neg hm, h.settled.2 m, cut]
      constructor <;> rintro ⟨b, hb, rfl, hl⟩ <;> (refine ⟨b, ?_, rfl, hl⟩; rcases List.mem_append.1 hb with hb | hb)
      · simp [hb]
      · rcases List.mem_cons.1 hb with rfl | hb
        · exact absurd rfl hm
        · simp [hb]
      · simp [hb]
      · rcases List.mem_cons.1 hb with rfl | hb
        · exact absurd number hm
        · simp [hb]
  · show ∀ b ∈ (R.modBook x.number f).books, _
    rw [made]
    intro b hb
    rcases List.mem_append.1 hb with hb | hb
    · exact h.strays b (by rw [cut]; simp [hb])
    · rcases List.mem_cons.1 hb with rfl | hb
      · exact stray
      · exact h.strays b (by rw [cut]; simp [hb])

/-- A record joins (R30, R47), holding nothing, under the next number. -/
theorem Books.joined {sh : Shelf} {R : Roll} (h : Books true sh R) {x : Book} (number : x.number = R.next) (held : x.held = [])
    (life : x.life ≠ .settled) (stray : x.stray = false) :
    Books true sh { R with books := R.books ++ [x], next := R.next + 1 } := by
  refine ⟨?_, ?_, nofun, fun ho => ?_, h.pool, fun e => ?_, h.resv, h.caps, h.shared, h.guarantees, h.absent,
    ⟨h.settled.1, fun m => ?_⟩, ?_⟩
  · show ((R.books ++ [x]).map Book.number).Pairwise _
    rw [List.map_append, List.pairwise_append]
    refine ⟨h.rising, by simp, fun a ha b hb => ?_⟩
    obtain ⟨y, hy, rfl⟩ := List.mem_map.1 ha
    obtain rfl : b = x.number := by simpa using hb
    rw [number]; exact h.below y hy
  · intro b hb
    show b.number < R.next + 1
    rcases List.mem_append.1 hb with hb | hb
    · have := h.below b hb; omega
    · obtain rfl := List.mem_singleton.1 hb; omega
  · show (sh.free ++ sh.spares ++ sh.retired ++ (R.books ++ [x]).flatMap Book.held).Perm _
    simpa [held] using h.places ho
  · show _ = heldBy e (R.books ++ [x])
    rw [heldBy_append, h.used e]; simp [heldBy, held]
  · show _ ↔ ∃ b ∈ R.books ++ [x], _
    rw [h.settled.2 m]
    constructor
    · rintro ⟨b, hb, e⟩; exact ⟨b, by simp [hb], e⟩
    · rintro ⟨b, hb, e⟩
      rcases List.mem_append.1 hb with hb | hb
      · exact ⟨b, hb, e⟩
      · obtain rfl := List.mem_singleton.1 hb; exact absurd e.2 life
  · intro b hb
    rcases List.mem_append.1 hb with hb | hb
    · exact h.strays b hb
    · obtain rfl := List.mem_singleton.1 hb; exact stray

/-- An account or an allotment changes, and no block moves (R10, R14, R19, R24, R25). -/
theorem Books.accounted {o : Bool} {sh : Shelf} {R : Roll} (h : Books o sh R) {d : Dept} {p : Purse} (used : p.used = (sh.purses d).used)
    {allots : LineNo → Allotment} (resv : p.resv = { sh with allots := allots }.allotted d)
    (others : ∀ e, e ≠ d → { sh with allots := allots }.allotted e = sh.allotted e) (cap : p.used + p.resv ≤ p.cap)
    (shared : sh.sum Purse.borrow + p.borrow + (sh.sum Purse.guaranteed + p.guaranteed) ≤
      32704 + (sh.purses d).borrow + (sh.purses d).guaranteed)
    (guarantees : sh.sum Purse.guaranteed + p.guaranteed ≤ 31680 + (sh.purses d).guaranteed)
    (absent : p.configured = false → p.guarantee = 0 ∧ p.cap = 0 ∧ p.used = 0 ∧ p.resv = 0) :
    Books o { sh.setPurse d p with allots := allots } R := by
  have purse (e : Dept) : (sh.setPurse d p).purses e = if e = d then p else sh.purses e := by
    simp [Shelf.setPurse, Function.update_apply]
  refine ⟨h.rising, h.below, h.unopened, h.places, fun ho => ?_, fun e => ?_, fun e => ?_, fun e => ?_, ?_, ?_, fun e he => ?_,
    h.settled, h.strays⟩
  · have := h.pool ho
    have step := sh.sum_setPurse d p Purse.used
    show sh.free.length + (sh.setPurse d p).sum Purse.used = 32704
    omega
  · show ((sh.setPurse d p).purses e).used = _
    rw [purse, ← h.used e]; split
    · rename_i he; rw [he, used]
    · rfl
  · show ((sh.setPurse d p).purses e).resv = { sh with allots := allots }.allotted e
    rw [purse]; split
    · rename_i he; rw [he, resv]
    · rename_i he; rw [others e he, h.resv e]
  · show ((sh.setPurse d p).purses e).used + ((sh.setPurse d p).purses e).resv ≤ ((sh.setPurse d p).purses e).cap
    rw [purse]; split
    · exact cap
    · exact h.caps e
  · have b := sh.sum_setPurse d p Purse.borrow
    have g := sh.sum_setPurse d p Purse.guaranteed
    show (sh.setPurse d p).sum Purse.borrow + (sh.setPurse d p).sum Purse.guaranteed ≤ 32704
    omega
  · have g := sh.sum_setPurse d p Purse.guaranteed
    show (sh.setPurse d p).sum Purse.guaranteed ≤ 31680
    omega
  · have he : ((sh.setPurse d p).purses e).configured = false := he
    show ((sh.setPurse d p).purses e).guarantee = 0 ∧ ((sh.setPurse d p).purses e).cap = 0 ∧
      ((sh.setPurse d p).purses e).used = 0 ∧ ((sh.setPurse d p).purses e).resv = 0
    rw [purse] at he ⊢; split at he
    · rename_i hd; rw [if_pos hd]; exact absent he
    · rename_i hd; rw [if_neg hd]; exact h.absent e he

/-- A block is drawn for a document (R16): it leaves the free list, and its account's counts follow. -/
theorem Books.drawn {o : Bool} {sh : Shelf} {R : Roll} (h : Books o sh R) {x : Book} (hx : x ∈ R.books) {b : Block} {rest : List Block}
    (free : sh.free = b :: rest) {p : Purse} (used : p.used = (sh.purses x.dept).used + 1)
    {allots : LineNo → Allotment} (resv : p.resv = { sh with allots := allots }.allotted x.dept)
    (others : ∀ e, e ≠ x.dept → { sh with allots := allots }.allotted e = sh.allotted e)
    (cap : p.used + p.resv ≤ p.cap) (same : p.guaranteed = (sh.purses x.dept).guaranteed)
    (shared : sh.sum Purse.borrow + p.borrow + sh.sum Purse.guaranteed ≤ 32704 + (sh.purses x.dept).borrow)
    (configured : p.configured = true) :
    Books o { sh.setPurse x.dept p with free := rest, allots := allots } (R.give x.number [b]) := by
  obtain ⟨front, back, cut, distinct⟩ := h.cut hx
  have made : (R.give x.number [b]).books = front ++ x.give [b] :: back := by
    unfold Roll.give Roll.modBook; dsimp only; rw [cut, map_cut distinct]
  have same_as (P : Book → Prop) (hP : P (x.give [b]) ↔ P x) : (∃ y ∈ (R.give x.number [b]).books, P y) ↔ ∃ y ∈ R.books, P y := by
    rw [made, cut]; simp only [List.mem_append, List.mem_cons, or_and_right, exists_or, exists_eq_left, hP]
  have all_as (P : Book → Prop) (hP : P (x.give [b]) ↔ P x) : (∀ y ∈ (R.give x.number [b]).books, P y) ↔ ∀ y ∈ R.books, P y := by
    rw [made, cut]; simp only [List.mem_append, List.mem_cons, or_imp, forall_and, forall_eq, hP]
  have purse (e : Dept) : (sh.setPurse x.dept p).purses e = if e = x.dept then p else sh.purses e := by
    simp [Shelf.setPurse, Function.update_apply]
  refine ⟨?_, (all_as (fun y => y.number < R.next) Iff.rfl).2 h.below, fun ho => ?_, fun ho => ?_, fun ho => ?_, fun e => ?_, fun e => ?_,
    fun e => ?_, ?_, ?_, fun e he => ?_, ⟨h.settled.1, fun m => ?_⟩, (all_as (fun y => y.stray = false) Iff.rfl).2 h.strays⟩
  · have := h.rising; rw [cut] at this; rw [made]
    rw [List.map_append, List.map_cons] at this ⊢; exact this
  · rw [h.unopened ho] at hx; cases hx
  · have := h.places ho
    refine List.Perm.trans ?_ this
    show (rest ++ sh.spares ++ sh.retired ++ (R.give x.number [b]).books.flatMap Book.held).Perm _
    rw [made, cut, free]
    simp only [List.flatMap_append, List.flatMap_cons, Book.give, List.cons_append, List.append_assoc, List.nil_append]
    have moved := List.perm_middle (a := b)
      (l₁ := rest ++ (sh.spares ++ (sh.retired ++ (front.flatMap Book.held ++ x.held)))) (l₂ := back.flatMap Book.held)
    simpa only [List.append_assoc] using moved
  · have := h.pool ho
    have step := sh.sum_setPurse x.dept p Purse.used
    rw [free] at this
    show rest.length + (sh.setPurse x.dept p).sum Purse.used = 32704
    rw [List.length_cons] at this; omega
  · show ((sh.setPurse x.dept p).purses e).used = _
    have was := h.used e
    rw [cut, heldBy_append, ← List.singleton_append, heldBy_append] at was
    rw [made, heldBy_append, ← List.singleton_append, heldBy_append, purse]
    have one : heldBy e [x.give [b]] = heldBy e [x] + if x.dept = e then 1 else 0 := by
      simp only [heldBy, Book.give, List.map_cons, List.map_nil, List.sum_cons, List.sum_nil, List.length_append, List.length_singleton]
      split <;> omega
    rw [one]; split
    · rename_i he; subst he; rw [if_pos rfl, used]; omega
    · rename_i he; rw [if_neg (fun k => he k.symm)]; omega
  · show ((sh.setPurse x.dept p).purses e).resv = { sh with allots := allots }.allotted e
    rw [purse]; split
    · rename_i he; rw [he, resv]
    · rename_i he; rw [others e he, h.resv e]
  · show ((sh.setPurse x.dept p).purses e).used + ((sh.setPurse x.dept p).purses e).resv ≤ ((sh.setPurse x.dept p).purses e).cap
    rw [purse]; split
    · exact cap
    · exact h.caps e
  · have s1 := sh.sum_setPurse x.dept p Purse.borrow
    have s2 := sh.sum_setPurse x.dept p Purse.guaranteed
    show (sh.setPurse x.dept p).sum Purse.borrow + (sh.setPurse x.dept p).sum Purse.guaranteed ≤ 32704
    omega
  · have s2 := sh.sum_setPurse x.dept p Purse.guaranteed
    have := h.guarantees
    show (sh.setPurse x.dept p).sum Purse.guaranteed ≤ 31680
    omega
  · have he : ((sh.setPurse x.dept p).purses e).configured = false := he
    show ((sh.setPurse x.dept p).purses e).guarantee = 0 ∧ ((sh.setPurse x.dept p).purses e).cap = 0 ∧
      ((sh.setPurse x.dept p).purses e).used = 0 ∧ ((sh.setPurse x.dept p).purses e).resv = 0
    rw [purse] at he ⊢; split at he
    · rw [configured] at he; cases he
    · rename_i hd; rw [if_neg hd]; exact h.absent e he
  · rw [same_as (fun y => y.number = m ∧ y.life = .settled) Iff.rfl]; exact h.settled.2 m

end Sys2Proof.Machine
end

section
/-! What the operations on documents and blocks leave of the store's books. -/

namespace Sys2Proof.Machine

open Sys2Proof

/-- The books of a state. -/
def BooksOf (s : State) : Prop := Books (opened s.part) (shelf s.store) (roll s.dir)

/-- Where an operation is at work: the lines it may change, of these the allotments and of their documents those it may change. -/
structure Site where
  line : LineNo → Prop
  allot : LineNo → Prop
  doc : Nat → Prop
  allot_line : ∀ m, allot m → line m

/-- A document at which an operation is at work. -/
def Site.touches (X : Site) (b : Book) : Prop := X.line b.line ∧ X.doc b.number

/-- At no line. -/
def noLine : Site := ⟨fun _ => False, fun _ => False, fun _ => True, fun _ k => k⟩

/-- At a line. -/
def atLine (n : LineNo) : Site := ⟨(· = n), (· = n), fun _ => True, fun _ k => k⟩

/-- At one document of a line. -/
def atDoc (n : LineNo) (k : Nat) : Site := ⟨(· = n), fun _ => False, (· = k), fun _ k => k.elim⟩

/-- At a line's allotment. -/
def atAllotment (n : LineNo) : Site := ⟨(· = n), (· = n), fun _ => False, fun _ k => k⟩

/-- The law of the books but for the lines at which an operation is at work. -/
def OkBut (X : Site) (s : State) : Prop :=
  BooksOf s ∧ ∀ m, ¬ X.line m → LineOk (shelf s.store).allots (roll s.dir).books m (lineAt s m)

/-- A line's receiving call stays what it is to the books. -/
def Calm (l l' : Line) : Prop := callDoc l' = callDoc l ∧ (resetOk l → resetOk l')

/-- An operation keeps the books, and but for the lines in X what they say of lines, allotments and LANDING documents. -/
structure Passes (X : Site) (s t : State) : Prop where
  phase : opened t.part = opened s.part
  allots : ∀ m, ¬ X.allot m → (shelf t.store).allots m = (shelf s.store).allots m
  books : BooksOf s → BooksOf t ∧
    ∀ b : Book, b.life = .landing → ¬ X.touches b → (b ∈ (roll t.dir).books ↔ b ∈ (roll s.dir).books)
  lines : ∀ m, ¬ X.line m → Calm (lineAt s m) (lineAt t m)

/-! ## Passing -/

theorem Calm.refl (l : Line) : Calm l l := ⟨rfl, id⟩

theorem Passes.refl (X : Site) (s : State) : Passes X s s :=
  ⟨rfl, fun _ _ => rfl, fun h => ⟨h, fun _ _ _ => Iff.rfl⟩, fun _ _ => .refl _⟩

theorem Passes.trans {X : Site} {s t u : State} (h : Passes X s t) (k : Passes X t u) : Passes X s u :=
  ⟨k.phase.trans h.phase, fun m hm => (k.allots m hm).trans (h.allots m hm),
    fun b => ⟨(k.books (h.books b).1).1, fun x hx hn => ((k.books (h.books b).1).2 x hx hn).trans ((h.books b).2 x hx hn)⟩,
    fun m hm => ⟨(k.lines m hm).1.trans (h.lines m hm).1, fun r => (k.lines m hm).2 ((h.lines m hm).2 r)⟩⟩

theorem Passes.but {X Y : Site} {s t : State} (h : Passes X s t) (line : ∀ m, X.line m → Y.line m)
    (allot : ∀ m, X.allot m → Y.allot m) (doc : ∀ k, X.doc k → Y.doc k) :
    Passes Y s t :=
  ⟨h.phase, fun m hm => h.allots m (mt (allot m) hm),
    fun b => ⟨(h.books b).1, fun x hx hn => (h.books b).2 x hx (mt (fun k => ⟨line _ k.1, doc _ k.2⟩) hn)⟩,
    fun m hm => h.lines m (mt (line m) hm)⟩

theorem Passes.line {n : LineNo} {k : Nat} {s t : State} (h : Passes (atDoc n k) s t) : Passes (atLine n) s t :=
  h.but (fun _ e => e) (fun _ e => e.elim) (fun _ _ => trivial)

theorem Passes.allotted {n : LineNo} {s t : State} (h : Passes (atAllotment n) s t) : Passes (atLine n) s t :=
  h.but (fun _ e => e) (fun _ e => e) (fun _ _ => trivial)

/-- An operation that the books do not see. -/
theorem Passes.same {X : Site} {s t : State} (part : opened t.part = opened s.part) (store : shelf t.store = shelf s.store)
    (dir : roll t.dir = roll s.dir) (lines : t.lines = s.lines) : Passes X s t :=
  ⟨part, fun _ _ => by rw [store], fun b => ⟨by unfold BooksOf at *; rw [part, store, dir]; exact b, fun _ _ _ => by rw [dir]⟩,
    fun m _ => by unfold lineAt; rw [lines]; exact .refl _⟩

theorem Passes.foldl {X : Site} {α : Type} {f : State → α → State} (h : ∀ s x, Passes X s (f s x)) (xs : List α) (s : State) :
    Passes X s (xs.foldl f s) := by
  induction xs generalizing s with
  | nil => exact .refl _ _
  | cons x xs ih => exact (h s x).trans (ih _)

theorem LandsFor.of_iff {books books' : List Book} {n : LineNo} {k : Nat} {d : Dept}
    (same : ∀ b : Book, b.life = .landing → b.line = n → (b ∈ books' ↔ b ∈ books)) (h : LandsFor books n k d) : LandsFor books' n k d := by
  obtain ⟨b, hb, e, life, line, dept⟩ := h
  exact ⟨b, (same b life line).2 hb, e, life, line, dept⟩

theorem OkBut.passes {X : Site} {s t : State} (h : OkBut X s) (p : Passes X s t) : OkBut X t := by
  obtain ⟨b, lands⟩ := p.books h.1
  refine ⟨b, fun m hm => ?_⟩
  obtain ⟨calls, idle, reset⟩ := h.2 m hm
  obtain ⟨same, calm⟩ := p.lines m hm
  refine ⟨fun o ho => ?_, fun ho => ?_, calm reset⟩
  · obtain ⟨k, d, e, l, a⟩ := calls o (same ▸ ho)
    exact ⟨k, d, e, l.of_iff (fun x hx hl => lands x hx (fun w => hm (hl ▸ w.1))), (congrArg Allotment.dept (p.allots m (mt (X.allot_line m) hm))).trans a⟩
  · exact (p.allots m (mt (X.allot_line m) hm)).trans (idle (same ▸ ho))

theorem storeOk_iff_okBut (s : State) : StoreOk s ↔ OkBut noLine s := by
  rw [storeOk_iff]; exact and_congr Iff.rfl (forall_congr' fun n => by simp [noLine])

theorem StoreOk.okBut {s : State} (h : StoreOk s) (X : Site) : OkBut X s :=
  ⟨((storeOk_iff s).1 h).1, fun m _ => ((storeOk_iff s).1 h).2 m⟩

theorem StoreOk.line {s : State} (h : StoreOk s) (n : LineNo) : LineOk (shelf s.store).allots (roll s.dir).books n (lineAt s n) :=
  ((storeOk_iff s).1 h).2 n

theorem StoreOk.passes {s t : State} (h : StoreOk s) (p : Passes noLine s t) : StoreOk t :=
  (storeOk_iff_okBut t).2 (((storeOk_iff_okBut s).1 h).passes p)

/-- The law holds again once the line at which an operation was at work stands as the books say. -/
theorem OkBut.close {s : State} {n : LineNo} (h : OkBut (atLine n) s)
    (line : LineOk (shelf s.store).allots (roll s.dir).books n (lineAt s n)) : StoreOk s :=
  (storeOk_iff s).2 ⟨h.1, fun m => (em (m = n)).elim (fun e => e ▸ line) (h.2 m)⟩

/-- A line with no receiving call and no allotment. -/
theorem LineOk.quiet {allots : LineNo → Allotment} {books : List Book} {n : LineNo} {l : Line} (call : callDoc l = none)
    (unheld : allots n = ⟨none, 0⟩) (reset : resetOk l) : LineOk allots books n l :=
  ⟨fun o ho => (by rw [call] at ho; cases ho), fun _ => unheld, reset⟩

/-! ## What the books do not see -/

@[simp] theorem shelf_evalPressure (s : State) : shelf (evalPressure s).store = shelf s.store := by rw [evalPressure_frame]; rfl
@[simp] theorem evalPressure_dir (s : State) : (evalPressure s).dir = s.dir := by rw [evalPressure_frame]
@[simp] theorem append_store (content : JournalContent) (s : State) : (append content s).1.store = s.store := by rw [append_frame]
@[simp] theorem roll_append (content : JournalContent) (s : State) : roll (append content s).1.dir = roll s.dir := by rw [append_dir]

theorem roll_docs {s t : State} (docs : t.dir.docs.map bookOf = s.dir.docs.map bookOf) (next : t.dir.nextNumber = s.dir.nextNumber)
    (reclaim : t.dir.reclaim = s.dir.reclaim) : roll t.dir = roll s.dir := by unfold roll; rw [docs, next, reclaim]

/-- A change of a record as a change of the book. -/
theorem roll_modDoc (n : Nat) (f : Document → Document) (g : Book → Book) (s : State)
    (h : ∀ d ∈ s.dir.docs, d.number = n → bookOf (f d) = g (bookOf d)) : roll (modDoc n f s).dir = (roll s.dir).modBook n g := by
  unfold roll Roll.modBook
  rw [modDoc_dir_nextNumber, modDoc_dir_reclaim]
  congr 1
  show (s.dir.docs.map _).map bookOf = (s.dir.docs.map bookOf).map _
  rw [List.map_map, List.map_map]
  refine List.map_congr_left (fun d hd => ?_)
  show bookOf (if d.number = n then f d else d) = if d.number = n then g (bookOf d) else bookOf d
  split
  · rename_i hn; exact h d hd hn
  · rfl

theorem Roll.modBook_id (n : Nat) (R : Roll) : R.modBook n id = R := by
  unfold Roll.modBook; simp

theorem roll_modDoc_same {n : Nat} {f : Document → Document} {s : State} (h : ∀ d, bookOf (f d) = bookOf d) :
    roll (modDoc n f s).dir = roll s.dir := by
  rw [roll_modDoc n f id s (fun d _ _ => h d), Roll.modBook_id]

theorem passes_modDoc {X : Site} {n : Nat} {f : Document → Document} (s : State) (h : ∀ d, bookOf (f d) = bookOf d) :
    Passes X s (modDoc n f s) := .same rfl rfl (roll_modDoc_same h) rfl

theorem passes_mark {X : Site} (x : Subject) (s : State) : Passes X s (mark x s) := .same rfl rfl rfl rfl

theorem passes_append {X : Site} (content : JournalContent) (s : State) : Passes X s (append content s).1 :=
  .same (by simp) (by simp) (by simp) (by simp)

theorem passes_evalPressure {X : Site} (s : State) : Passes X s (evalPressure s) := .same (by simp) (by simp) (by simp) (by simp)

theorem roll_joinReady (n : Nat) (s : State) : roll (joinReady n s).dir = roll s.dir := by
  unfold joinReady matchDoc
  split
  · rfl
  · dsimp only
    split <;> split
    · exact roll_modDoc_same (s := s) (fun _ => rfl)
    · exact roll_modDoc_same (s := s) (fun _ => rfl)
    · rfl
    · rfl

theorem passes_joinReady {X : Site} (n : Nat) (s : State) : Passes X s (joinReady n s) :=
  .same (by rw [joinReady_frame]) (by rw [joinReady_frame]) (roll_joinReady n s) (by rw [joinReady_frame])

theorem passes_becomeDue {X : Site} (n : Nat) (s : State) : Passes X s (becomeDue n s) :=
  (passes_modDoc (n := n) (f := fun d => { d with disposition := .due }) s (fun _ => rfl)).trans (passes_joinReady n _)

theorem passes_fallback {X : Site} (n : Nat) (s : State) : Passes X s (fallback n s) := by
  unfold fallback
  split
  · exact .refl _ _
  · split
    · exact (passes_becomeDue n s).trans (passes_mark _ _)
    · exact .refl _ _

/-! ## Blocks given back -/

/-- The retirement check puts a block in one place, though it may take another's (R198). -/
theorem retireCheck_perm (b : Block) (s : State) :
    ((retireCheck b s).store.free ++ (retireCheck b s).store.spares ++ (retireCheck b s).store.retired).Perm
      (s.store.free ++ s.store.spares ++ s.store.retired ++ [b]) := by
  have tail (xs ys : List Block) : (xs ++ [b] ++ ys).Perm (xs ++ ys ++ [b]) := by
    rw [List.append_assoc, List.append_assoc]; exact List.perm_append_comm.append_left _
  unfold retireCheck
  split
  · simpa only [List.append_assoc] using tail s.store.free (s.store.spares ++ s.store.retired)
  · rename_i sp rest h _
    show (s.store.free ++ [sp] ++ rest ++ (s.store.retired ++ [b])).Perm _
    rw [h]; simp
  · have moved : (s.store.free ++ [b] ++ s.store.spares ++ s.store.retired).Perm
        (s.store.free ++ s.store.spares ++ s.store.retired ++ [b]) := by
      simpa only [List.append_assoc] using tail s.store.free (s.store.spares ++ s.store.retired)
    dsimp only; split <;> exact moved

theorem freeBlocks_perm (d : Dept) (bs : List Block) (s : State) :
    ((freeBlocks d bs s).store.free ++ (freeBlocks d bs s).store.spares ++ (freeBlocks d bs s).store.retired).Perm
      (s.store.free ++ s.store.spares ++ s.store.retired ++ bs) := by
  induction bs generalizing s with
  | nil => simp [freeBlocks]
  | cons b bs ih =>
    refine (ih (freeBlock d s b)).trans ?_
    rw [← List.singleton_append, ← List.append_assoc]
    exact (retireCheck_perm b s).append_right bs

theorem freeBlocks_returned (d : Dept) (bs : List Block) (s : State) :
    Returned d bs (shelf s.store) (shelf (freeBlocks d bs s).store) := by
  obtain ⟨mine, others, free, -⟩ := freeBlocks_spec d bs s
  refine ⟨freeBlocks_perm d bs s, free, funext fun e => ?_, by rw [freeBlocks_frame]; rfl⟩
  show purseOf (acct (freeBlocks d bs s) e) = ((shelf s.store).setPurse d _).purses e
  rw [Shelf.setPurse]; dsimp only; rw [Function.update_apply]
  split
  · rename_i he; rw [he, mine]; rfl
  · rename_i he; rw [others e he]; rfl

theorem Roll.give_nil (k : Nat) (R : Roll) : R.give k [] = R := by
  have : Book.give [] = id := funext fun b => by simp [Book.give]
  rw [Roll.give, this, Roll.modBook_id]

theorem Roll.drop_give (n k : Nat) (bs : List Block) (R : Roll) : (R.give k bs).drop n = (R.drop n).give k bs := by
  unfold Roll.give Roll.drop Roll.modBook
  dsimp only
  congr 1
  rw [List.filter_map]
  congr 1
  refine List.filter_congr (fun b _ => ?_)
  by_cases hb : b.number = k
  · simp [hb, Book.give]
  · simp [hb]

theorem Roll.mem_give {k : Nat} {bs : List Block} {R : Roll} {b : Book} (h : b.number ≠ k) : b ∈ (R.give k bs).books ↔ b ∈ R.books := by
  unfold Roll.give Roll.modBook
  simp only [List.mem_map]
  constructor
  · rintro ⟨a, ha, e⟩
    by_cases hk : a.number = k
    · rw [if_pos hk] at e; subst e; exact absurd hk h
    · rw [if_neg hk] at e; exact e ▸ ha
  · exact fun hb => ⟨b, hb, if_neg h⟩

theorem book_of_found {s : State} {n : Nat} {d : Document} (h : findDoc s n = some d) : bookOf d ∈ (roll s.dir).books :=
  List.mem_map_of_mem (List.mem_of_find?_eq_some h)

theorem found_of_book {s : State} (h : BooksOf s) {b : Book} (hb : b ∈ (roll s.dir).books) :
    ∃ d, findDoc s b.number = some d ∧ bookOf d = b := by
  obtain ⟨d, hd, rfl⟩ := List.mem_map.1 hb
  have : (findDoc s d.number).isSome := List.find?_isSome.2 ⟨d, hd, by simp⟩
  obtain ⟨e, he⟩ := Option.isSome_iff_exists.1 this
  exact ⟨e, he, Books.unique h (book_of_found he) hb (findDoc_number he)⟩

/-- A document that is not LANDING holds no landing page. -/
theorem heldBlocks_of_no_landing {d : Document} (h : d.landing = none) : heldBlocks d = docBlocks d := by
  simp [heldBlocks, h]

theorem no_landing_of_life {d : Document} (stray : (bookOf d).stray = false) (life : d.life ≠ .landing) : d.landing = none := by
  cases h : d.landing <;> simp_all [bookOf]

theorem shelf_purgeDoc {s : State} {n : Nat} {d : Document} (h : findDoc s n = some d) :
    Returned d.dept (docBlocks d) (shelf s.store) (shelf (purgeDoc n s).store) := by
  rw [purgeDoc_eq h]
  exact freeBlocks_returned d.dept (docBlocks d)
    (setReady d.dept (fun q => q.filter (· ≠ n)) { s with dir.reclaim := s.dir.reclaim.filter (· ≠ n) })

theorem roll_purgeDoc {s : State} {n : Nat} {d : Document} (h : findDoc s n = some d) : roll (purgeDoc n s).dir = (roll s.dir).drop n := by
  unfold roll Roll.drop
  rw [purgeDoc_docs h, purgeDoc_reclaim h, purgeDoc_nextNumber, List.filter_map]; rfl

/-- A purge keeps the books, and those of a page that lands meanwhile (R45). -/
theorem purgeDoc_books {o : Bool} {s : State} {n k : Nat} {hand : List Block} {d : Document}
    (h : Books o (shelf s.store) ((roll s.dir).give k hand)) (found : findDoc s n = some d) (ne : n ≠ k) (life : d.life ≠ .landing) :
    Books o (shelf (purgeDoc n s).store) ((roll (purgeDoc n s).dir).give k hand) := by
  have number := findDoc_number found
  have mem : bookOf d ∈ ((roll s.dir).give k hand).books := (Roll.mem_give (by show d.number ≠ k; rwa [number])).2 (book_of_found found)
  have back := shelf_purgeDoc found
  rw [← heldBlocks_of_no_landing (no_landing_of_life (h.strays _ mem) life)] at back
  have := h.dropped mem back
  rw [show (bookOf d).number = n from number, Roll.drop_give] at this
  rw [roll_purgeDoc found]; exact this

theorem BooksOf.purgeDoc {s : State} {n : Nat} {d : Document} (h : BooksOf s) (found : findDoc s n = some d) (life : d.life ≠ .landing) :
    BooksOf (purgeDoc n s) := by
  have := purgeDoc_books (k := n + 1) (hand := []) (by rw [Roll.give_nil]; exact h) found (by omega) life
  rw [Roll.give_nil] at this
  unfold BooksOf; rw [purgeDoc_part]; exact this

/-- A purge leaves the LANDING documents (R45). -/
theorem Books.landing_drop {o : Bool} {sh : Shelf} {R : Roll} (h : Books o sh R) {x : Book} (hx : x ∈ R.books) (life : x.life ≠ .landing)
    {b : Book} (hb : b.life = .landing) : b ∈ (R.drop x.number).books ↔ b ∈ R.books := by
  unfold Roll.drop
  rw [List.mem_filter, and_iff_left_iff_imp]
  intro mem
  refine decide_eq_true (fun e => ?_)
  rw [h.unique mem hx e] at hb; exact life hb

theorem passes_purgeDoc {X : Site} {s : State} {n : Nat} (life : ∀ d, findDoc s n = some d → d.life ≠ .landing) :
    Passes X s (purgeDoc n s) := by
  cases found : findDoc s n with
  | none => rw [show purgeDoc n s = s by simp [purgeDoc, found]]; exact .refl _ _
  | some d =>
    refine ⟨by simp, fun m _ => by rw [purgeDoc_frame]; rfl, fun h => ⟨h.purgeDoc found (life d found), fun b hb _ => ?_⟩,
      fun m _ => by unfold lineAt; rw [purgeDoc_lines]; exact .refl _⟩
    rw [roll_purgeDoc found, ← findDoc_number found]
    exact h.landing_drop (book_of_found found) (life d found) hb

theorem passes_purgeEvent {X : Site} {s : State} {n : Nat} (life : ∀ d, findDoc s n = some d → d.life ≠ .landing) :
    Passes X s (purgeEvent n s) := (passes_purgeDoc life).trans (passes_evalPressure _)

theorem passes_purgeIfPassed {X : Site} (n : Nat) (s : State) : Passes X s (purgeIfPassed n s) := by
  unfold purgeIfPassed
  split
  · exact .refl _ _
  · rename_i d found
    split
    · exact .refl _ _
    · split
      · rename_i h
        refine passes_purgeEvent (fun e he => ?_)
        rw [found] at he; obtain rfl := Option.some.inj he
        rw [h.1]; simp
      · exact .refl _ _

end Sys2Proof.Machine
end

section
/-! Documents that settle, open, land and end keep the store's books. -/

namespace Sys2Proof.Machine

open Sys2Proof

/-! ## A record that changes -/

/-- The record of a number is the only one of that number. -/
theorem BooksOf.only {s : State} (h : BooksOf s) {n : Nat} {d e : Document} (found : findDoc s n = some d) (he : e ∈ s.dir.docs)
    (number : e.number = n) : e = d := by
  have distinct : (s.dir.docs.map (fun x => x.number)).Nodup := by
    have := h.rising
    rw [show (roll s.dir).books.map Book.number = s.dir.docs.map (fun x => x.number) from List.map_map ..] at this
    exact this.imp (fun hab => Nat.ne_of_lt hab)
  exact List.inj_on_of_nodup_map distinct he (List.mem_of_find?_eq_some found) (number.trans (findDoc_number found).symm)

/-- A change of one record that keeps number and department, with what it gives back and what it makes of the reclaim list. -/
structure Rewrites (X : Site) (n : Nat) (d : Document) (f : Document → Document) (bs : List Block) (s t : State) : Prop where
  found : findDoc s n = some d
  part : t.part = s.part
  lines : t.lines = s.lines
  docs : t.dir.docs = (modDoc n f s).dir.docs
  next : t.dir.nextNumber = s.dir.nextNumber
  back : Returned d.dept bs (shelf s.store) (shelf t.store)
  number : ∀ e, (f e).number = e.number
  dept : (f d).dept = d.dept
  held : (heldBlocks d).Perm (heldBlocks (f d) ++ bs)
  stray : d.landing = none ∨ d.life = .landing → (bookOf (f d)).stray = false
  before : d.life ≠ .landing ∨ X.touches (bookOf d)
  after : (f d).life ≠ .landing ∨ X.touches (bookOf (f d))
  settled : s.dir.reclaim.Nodup → (n ∈ s.dir.reclaim ↔ d.life = .settled) →
    t.dir.reclaim.Nodup ∧ ∀ m, m ∈ t.dir.reclaim ↔ if m = n then (f d).life = .settled else m ∈ s.dir.reclaim

theorem BooksOf.settled_iff {s : State} (h : BooksOf s) {n : Nat} {d : Document} (found : findDoc s n = some d) :
    n ∈ s.dir.reclaim ↔ d.life = .settled := by
  rw [show n ∈ s.dir.reclaim ↔ _ from h.settled.2 n]
  constructor
  · rintro ⟨b, hb, e, life⟩
    obtain rfl : b = bookOf d := h.unique hb (book_of_found found) (e.trans (findDoc_number found).symm)
    exact life
  · exact fun life => ⟨bookOf d, book_of_found found, findDoc_number found, life⟩

theorem BooksOf.landed {s : State} (h : BooksOf s) {n : Nat} {d : Document} (found : findDoc s n = some d) :
    d.landing = none ∨ d.life = .landing := by
  have := h.strays _ (book_of_found found)
  by_cases life : d.life = .landing
  · exact .inr life
  · exact .inl (no_landing_of_life this life)

theorem Rewrites.passes {X : Site} {n : Nat} {d : Document} {f : Document → Document} {bs : List Block} {s t : State}
    (r : Rewrites X n d f bs s t) : Passes X s t := by
  have number : (bookOf d).number = n := findDoc_number r.found
  refine ⟨by rw [r.part], fun m _ => by rw [r.back.allots], fun h => ?_, fun m _ => by unfold lineAt; rw [r.lines]; exact .refl _⟩
  have made : roll t.dir = { (roll s.dir).modBook n (fun _ => bookOf (f d)) with reclaim := t.dir.reclaim } := by
    have := roll_modDoc n f (fun _ => bookOf (f d)) s (fun e he hn => by rw [h.only r.found he hn])
    rw [← this]; unfold roll; rw [r.docs, r.next]; rfl
  obtain ⟨nodup, settled⟩ := r.settled h.settled.1 (h.settled_iff r.found)
  have books := Books.rewritten h (book_of_found r.found) (fun _ => bookOf (f d)) r.back (r.number d) r.dept r.held
    (r.stray (h.landed r.found)) nodup (by rw [number]; exact settled)
  rw [number, ← made] at books
  refine ⟨by unfold BooksOf; rw [r.part]; exact books, fun b life line => ?_⟩
  obtain ⟨front, rest, cut, others⟩ := h.cut (book_of_found r.found)
  have same := map_cut others (fun _ => bookOf (f d))
  rw [made]
  show b ∈ (roll s.dir).books.map _ ↔ _
  rw [number] at same
  rw [cut, same]
  have old : b ≠ bookOf d := by rintro rfl; exact r.before.elim (fun k => k life) (fun k => line k)
  have new : b ≠ bookOf (f d) := by rintro rfl; exact r.after.elim (fun k => k life) (fun k => line k)
  simp only [List.mem_append, List.mem_cons, old, new, false_or]

/-- The record as it has changed. -/
theorem Rewrites.now {X : Site} {n : Nat} {d : Document} {f : Document → Document} {bs : List Block} {s t : State}
    (r : Rewrites X n d f bs s t) : findDoc t n = some (f d) :=
  (findDoc_dir r.docs n).trans (findDoc_modDoc_self r.found r.number)

/-- A record's slot is freed (R30, R34). -/
theorem passes_dropDoc {X : Site} {n : Nat} {d : Document} {s : State} (found : findDoc s n = some d) (empty : heldBlocks d = [])
    (life : d.life ≠ .settled) (line : d.life ≠ .landing ∨ X.touches (bookOf d)) : Passes X s (dropDoc n s) := by
  have number : (bookOf d).number = n := findDoc_number found
  refine ⟨rfl, fun _ _ => rfl, fun h => ?_, fun _ _ => .refl _⟩
  have books := Books.dropped h (book_of_found found) (by rw [show (bookOf d).held = [] from empty]; exact .nothing _ _)
  have same : roll (dropDoc n s).dir = (roll s.dir).drop (bookOf d).number := by
    have unsettled : n ∉ s.dir.reclaim := fun k => life ((h.settled_iff found).1 k)
    have whole : s.dir.reclaim.filter (fun x => decide (x ≠ n)) = s.dir.reclaim :=
      List.filter_eq_self.2 (fun x hx => decide_eq_true (by rintro rfl; exact unsettled hx))
    unfold roll Roll.drop dropDoc
    dsimp only
    rw [number, List.filter_map, whole]
    rfl
  rw [← same] at books
  refine ⟨books, fun b hb hl => ?_⟩
  rw [same]
  unfold Roll.drop
  rw [List.mem_filter, and_iff_left_iff_imp]
  intro mem
  refine decide_eq_true (fun e => ?_)
  obtain rfl := h.unique mem (book_of_found found) e
  exact line.elim (fun k => k hb) (fun k => hl k)

/-! ## Settling and the ends of entries -/

/-- A document as it is once settled (R41). -/
def Document.settledAt (cal : CalTime) (deadline : Nat) (d : Document) : Document :=
  { d with life := .settled, settleTime := some cal, deadline := some deadline }

theorem rewrites_settledAt {X : Site} {n : Nat} {d : Document} {s : State} (found : findDoc s n = some d)
    (life : d.life = .opened) (cal : CalTime) (deadline : Nat) :
    Rewrites X n d (Document.settledAt cal deadline) [] s
      { modDoc n (Document.settledAt cal deadline) s with dir.reclaim := s.dir.reclaim ++ [n] } := by
  refine ⟨found, rfl, rfl, rfl, rfl, .nothing _ _, fun _ => rfl, rfl, by simp [heldBlocks, docBlocks, Document.settledAt], fun h => ?_,
    .inl (by rw [life]; simp), .inl (by simp [Document.settledAt]), fun nodup hn => ⟨?_, fun m => ?_⟩⟩
  · rw [life] at h; simp [bookOf, Document.settledAt, h.resolve_right (by simp)]
  · rw [life] at hn; exact List.Nodup.append nodup (by simp) (by simpa using hn)
  · show m ∈ s.dir.reclaim ++ [n] ↔ _
    by_cases hm : m = n <;> simp [hm, Document.settledAt]

theorem passes_settle {X : Site} (n : Nat) (s : State) : Passes X s (settle n s) := by
  unfold settle
  split
  · exact .refl _ _
  · rename_i d found
    split
    · rename_i hs
      have life : d.life = .opened := by
        unfold settles at hs; simp only [Bool.and_eq_true, beq_iff_eq] at hs; exact hs.1.1
      have step := rewrites_settledAt (X := X) found life s.clock.cal (s.clock.run + (acct s d.dept).retention * hourMs)
      dsimp only
      split
      · refine step.passes.trans (passes_purgeEvent (fun e he => ?_))
        rw [step.now] at he
        obtain rfl := Option.some.inj he
        simp [Document.settledAt]
      · exact step.passes
    · exact .refl _ _

theorem passes_modForward {X : Site} (n i : Nat) (f : ForwardEntry → ForwardEntry) (s : State) : Passes X s (modForward n i f s) :=
  passes_modDoc s (fun _ => rfl)

theorem passes_endEntry {X : Site} (n i : Nat) (st : ForwardState) (result : ForwardResult) (s : State) :
    Passes X s (endEntry n i st result s) := by
  unfold endEntry
  refine (passes_modForward n i (fun e => { e with state := st }) s).trans ?_
  dsimp only
  split
  · exact (passes_append _ _).trans ((passes_mark _ _).trans ((passes_fallback n _).trans (passes_settle n _)))
  · exact (passes_mark _ _).trans ((passes_fallback n _).trans (passes_settle n _))

theorem passes_addJob {X : Site} (n i : Nat) (dest : Text) (urgent : Bool) (s : State) :
    Passes X s (addJob n i dest urgent s).1 := .same rfl rfl rfl rfl

theorem passes_createJob {X : Site} (n i : Nat) (dest : Text) (urgent : Bool) (s : State) :
    Passes X s (createJob n i dest urgent s) := by
  unfold createJob
  split
  · exact passes_addJob n i dest urgent s
  · refine (passes_modForward n i (fun e => { e with last := some .tableFull }) s).trans ?_
    refine Passes.trans ?_ (passes_endEntry _ _ _ _ _)
    exact .same rfl rfl rfl rfl

theorem passes_openForwards {X : Site} (n : Nat) (urgent : Bool) (i : Nat) (dests : List Text) (s : State) :
    Passes X s (openForwards n urgent i dests s) := by
  induction dests generalizing i s with
  | nil => exact .refl _ _
  | cons dest rest ih =>
    have entry : Passes X s (addForwardEntry n (ForwardEntry.fresh dest) s) := passes_modDoc s (fun _ => rfl)
    exact entry.trans ((passes_createJob n i dest urgent _).trans (ih (i + 1) _))

theorem passes_cancelPending {X : Site} (d : Document) (s : State) : Passes X s (cancelPending d s) := by
  have entry (t : State) (p : Nat × ForwardEntry) : Passes X t (cancelEntry d.number t p) :=
    (passes_modForward d.number p.1 (fun e => { e with state := .cancelled }) t).trans
      ((passes_append _ _).trans ((passes_fallback _ _).trans (passes_settle _ _)))
  have jobs : Passes X s { s with fwd.jobs := s.fwd.jobs.filter (fun j => j.document ≠ d.number) } := .same rfl rfl rfl rfl
  exact jobs.trans (Passes.foldl entry _ _)

/-! ## Opening and landing -/

/-- A document may enter OPEN from HELD, or from LANDING with no page landing, on a line at which an operation is at work. -/
def MayOpen (X : Site) (d : Document) : Prop := d.life = .held ∨ (d.life = .landing ∧ d.landing = none ∧ X.touches (bookOf d))

theorem MayOpen.rewrites {X : Site} {n : Nat} {d : Document} {s : State} (m : MayOpen X d) (found : findDoc s n = some d)
    {life : Life} (new : life = .opened ∨ life = .held) :
    Rewrites X n d (fun e => { e with life := life }) [] s (modDoc n (fun e => { e with life := life }) s) := by
  have landing : d.landing = none ∨ d.life = .landing → d.landing = none := by
    rcases m with hl | ⟨-, hl, -⟩
    · rw [hl]; simp
    · exact fun _ => hl
  have unsettled : d.life ≠ .settled := by rcases m with hl | ⟨hl, -⟩ <;> rw [hl] <;> simp
  refine ⟨found, rfl, rfl, rfl, rfl, .nothing _ _, fun _ => rfl, rfl, by simp [heldBlocks, docBlocks],
    fun h => by simp [bookOf, landing h], ?_, .inl (by rcases new with rfl | rfl <;> simp), fun nodup hn => ⟨nodup, fun k => ?_⟩⟩
  · rcases m with hl | ⟨-, -, hx⟩
    · exact .inl (by rw [hl]; simp)
    · exact .inr hx
  · by_cases hk : k = n
    · rw [if_pos hk, hk, show (modDoc n _ s).dir.reclaim = s.dir.reclaim from rfl, hn]
      rcases new with rfl | rfl <;> simp [unsettled]
    · rw [if_neg hk]; rfl

theorem passes_enterOpen {X : Site} {n : Nat} {s : State} (may : ∀ d, findDoc s n = some d → MayOpen X d) :
    Passes X s (enterOpen n s) := by
  unfold enterOpen
  split
  · exact .refl _ _
  · rename_i d found
    refine ((may d found).rewrites found (.inl rfl)).passes.trans ?_
    dsimp only
    split
    · exact (passes_becomeDue n _).trans ((passes_openForwards _ _ _ _ _).trans ((passes_fallback n _).trans (passes_settle n _)))
    · exact (passes_openForwards _ _ _ _ _).trans ((passes_fallback n _).trans (passes_settle n _))

theorem closeGroup_frame (l : Landing) (s : State) :
    closeGroup l s = { s with mem := (closeGroup l s).mem, dram := (closeGroup l s).dram } := by
  unfold closeGroup; split
  · rfl
  · exact writeGroup_frame _ _ _ s

theorem freeLanding_eq {s : State} {n : Nat} {d : Document} {l : Landing} (found : findDoc s n = some d) (landing : d.landing = some l) :
    freeLanding n s =
      evalPressure (modDoc n (fun e => { e with landing := none }) (freeBlocks d.dept l.blocks (closeGroup l s))) := by
  unfold freeLanding; rw [found]; dsimp only; rw [landing]

theorem freeLanding_not {s : State} {n : Nat} (h : ∀ d, findDoc s n = some d → d.landing = none) : freeLanding n s = s := by
  unfold freeLanding
  split
  · rfl
  · rename_i d found; rw [h d found]

theorem docs_freeLanding {s : State} {n : Nat} {d : Document} {l : Landing} (found : findDoc s n = some d) (landing : d.landing = some l) :
    (freeLanding n s).dir.docs = (modDoc n (fun e => { e with landing := none }) s).dir.docs := by
  rw [freeLanding_eq found landing, evalPressure_dir]
  unfold modDoc; dsimp only
  rw [freeBlocks_frame, closeGroup_frame]

theorem findDoc_freeLanding {s : State} {n : Nat} {d : Document} (found : findDoc s n = some d) :
    findDoc (freeLanding n s) n = some { d with landing := none } := by
  cases landing : d.landing with
  | none =>
    rw [freeLanding_not (fun e he => by rw [found] at he; obtain rfl := Option.some.inj he; exact landing), found, ← landing]
  | some l =>
    rw [findDoc_dir (docs_freeLanding found landing)]
    exact findDoc_modDoc_self (f := fun e => { e with landing := none }) found (fun _ => rfl)

/-- A landing page's blocks are given back (R18). -/
theorem passes_freeLanding {X : Site} {n : Nat} {s : State} (line : ∀ d, findDoc s n = some d → X.touches (bookOf d)) :
    Passes X s (freeLanding n s) := by
  cases found : findDoc s n with
  | none => rw [freeLanding_not (fun d hd => by rw [found] at hd; cases hd)]; exact .refl _ _
  | some d =>
    cases landing : d.landing with
    | none =>
      rw [freeLanding_not (fun e he => by rw [found] at he; obtain rfl := Option.some.inj he; exact landing)]; exact .refl _ _
    | some l =>
      have back : Returned d.dept l.blocks (shelf s.store) (shelf (freeLanding n s).store) := by
        have := freeBlocks_returned d.dept l.blocks (closeGroup l s)
        rw [closeGroup_frame] at this
        rw [freeLanding_eq found landing, shelf_evalPressure, closeGroup_frame]; exact this
      have same : (freeLanding n s).dir.nextNumber = s.dir.nextNumber ∧ (freeLanding n s).dir.reclaim = s.dir.reclaim := by
        rw [freeLanding_eq found landing, evalPressure_dir]
        unfold modDoc; dsimp only
        rw [freeBlocks_frame, closeGroup_frame]; exact ⟨rfl, rfl⟩
      refine Rewrites.passes (d := d) (f := fun e => { e with landing := none }) ⟨found, by simp, by simp, docs_freeLanding found landing,
        same.1, back, fun _ => rfl, rfl, by simp [heldBlocks, docBlocks, landing], fun _ => by simp [bookOf], .inr (line d found),
        .inr (line d found), fun nodup hn => ⟨by rw [same.2]; exact nodup, fun k => ?_⟩⟩
      rw [same.2]
      by_cases hk : k = n
      · rw [if_pos hk, hk, hn]
      · rw [if_neg hk]

/-- A document lands on the line at which an operation is at work (R33). -/
theorem passes_landDocument {X : Site} {n : Nat} {o : ReceiptOutcome} {s : State}
    (lands : ∀ d, findDoc s n = some d → d.life = .landing ∧ X.touches (bookOf d)) : Passes X s (landDocument n o s) := by
  refine (passes_freeLanding (fun d hd => (lands d hd).2)).trans ?_
  unfold landDocument
  cases found : findDoc s n with
  | none =>
    have same : freeLanding n s = s := freeLanding_not (fun d hd => by rw [found] at hd; cases hd)
    dsimp only
    rw [same, found]; exact .refl _ _
  | some d =>
    obtain ⟨life, line⟩ := lands d found
    have here := findDoc_freeLanding found
    generalize freeLanding n s = s1 at here
    dsimp only
    rw [here]
    dsimp only
    have noted : Passes X s1 (modDoc n (fun e => { e with
        completionTime := some s1.clock.cal, digest := some (crc32Final e.crc), outcome := some o, partialFlag := isPartial o }) s1) :=
      passes_modDoc s1 (fun _ => rfl)
    refine noted.trans ((passes_append (.receipt (receiptOf { d with landing := none } o)) _).trans ?_)
    have found2 := findDoc_modDoc_self (f := fun e : Document => { e with
        completionTime := some s1.clock.cal, digest := some (crc32Final e.crc), outcome := some o, partialFlag := isPartial o })
        here (fun _ => rfl)
    have found3 := (findDoc_dir (by rw [append_dir (.receipt (receiptOf { d with landing := none } o))]) n).trans found2
    generalize append (.receipt (receiptOf { d with landing := none } o)) (modDoc n _ s1) = p at found3
    obtain ⟨s3, seq⟩ := p
    dsimp only at found3 ⊢
    have receipt : Passes X s3 (modDoc n (fun e => { e with receiptSeq := seq }) s3) := passes_modDoc s3 (fun _ => rfl)
    refine receipt.trans ?_
    have may : ∃ e, findDoc (modDoc n (fun e => { e with receiptSeq := seq }) s3) n = some e ∧ MayOpen X e :=
      ⟨_, findDoc_modDoc_self (f := fun e : Document => { e with receiptSeq := seq }) found3 (fun _ => rfl), .inr ⟨life, rfl, line⟩⟩
    obtain ⟨e, found4, may⟩ := may
    generalize modDoc n (fun e => { e with receiptSeq := seq }) s3 = s4 at found4
    refine Passes.trans ?_ (passes_mark _ _)
    split
    · exact (may.rewrites found4 (.inr rfl)).passes
    · exact passes_enterOpen (fun x hx => by rw [found4] at hx; exact Option.some.inj hx ▸ may)

/-- A call's document ends with the call (R33, R34). -/
theorem passes_endDocument {X : Site} {n : Nat} {o : ReceiptOutcome} {s : State}
    (lands : ∀ d, findDoc s n = some d → d.life = .landing ∧ X.touches (bookOf d)) : Passes X s (endDocument n o s) := by
  unfold endDocument
  cases found : findDoc s n with
  | none => exact .refl _ _
  | some d =>
    obtain ⟨life, line⟩ := lands d found
    dsimp only
    split
    · rename_i empty
      refine (passes_freeLanding (fun d hd => (lands d hd).2)).trans ?_
      have here := findDoc_freeLanding found
      unfold dropEmpty
      dsimp only
      rw [here]
      refine (passes_dropDoc here ?_ ?_ (.inr line)).trans (passes_append _ _)
      · have : d.pages = [] := by simpa using empty
        simp [heldBlocks, docBlocks, this]
      · show d.life ≠ .settled; rw [life]; simp
    · exact passes_landDocument lands

end Sys2Proof.Machine
end

section
/-! Slots, reservations, draws and allotments keep the store's books. -/

namespace Sys2Proof.Machine

open Sys2Proof

/-! ## Accounts and allotments on the shelf -/

theorem shelf_setAcct (d : Dept) (f : Account → Account) (s : State) :
    shelf (setAcct d f s).store = (shelf s.store).setPurse d (purseOf (f (acct s d))) := by
  unfold Shelf.setPurse
  refine Eq.trans ?_ (congrArg (fun p => { shelf s.store with purses := p }) (?_ : (fun e => purseOf (acct (setAcct d f s) e)) = _))
  · rfl
  · funext e
    rw [acct_setAcct, Function.update_apply]
    split <;> rfl

theorem shelf_setAllotment (n : LineNo) (a : Allotment) (s : State) :
    shelf (setAllotment n a s).store = (shelf s.store).setAllot n a := by
  unfold Shelf.setAllot
  refine Eq.trans ?_ (congrArg (fun p => { shelf s.store with allots := p }) (?_ : (fun m => allotment (setAllotment n a s) m) = _))
  · rfl
  · funext m
    rw [allotment_setAllotment, Function.update_apply]
    split <;> rfl

theorem Shelf.setPurse_self (d : Dept) (sh : Shelf) : sh.setPurse d (sh.purses d) = sh := by
  unfold Shelf.setPurse; rw [Function.update_eq_self]

/-- A change of accounts that the books do not read. -/
theorem shelf_setAcct_same {d : Dept} {f : Account → Account} (h : ∀ a, purseOf (f a) = purseOf a) (s : State) :
    shelf (setAcct d f s).store = shelf s.store := by
  rw [shelf_setAcct, h]; exact Shelf.setPurse_self d _

theorem passes_allocFailed {X : Site} (d : Dept) (k : Nat) (cause : AllocCause) (s : State) : Passes X s (allocFailed d k cause s) := by
  have noted : Passes X s (setAcct d (fun a => { a with lastFailure := some ⟨cause, k, s.clock.run⟩ }) s) :=
    .same (by rfl) (shelf_setAcct_same (by intro; rfl) s) (by rfl) (by rfl)
  exact noted.trans ((passes_mark _ _).trans (passes_evalPressure _))

theorem Shelf.allotted_of_none {sh : Shelf} {n : LineNo} {a : Allotment} {e : Dept} (old : (sh.allots n).dept ≠ some e)
    (new : a.dept ≠ some e) : (sh.setAllot n a).allotted e = sh.allotted e := by
  have := sh.allotted_setAllot n a e
  rw [if_neg old, if_neg new] at this; omega

/-! ## Reclaim -/

theorem Reclaims.settled {o : Bool} {s : State} {R : Roll} {sh : Shelf} (h : Books o sh R) (reclaim : R.reclaim = s.dir.reclaim)
    {d : Dept} {k m : Nat} (r : Reclaims s d k m) : ∃ b ∈ R.books, b.number = m ∧ b.life = .settled :=
  (h.settled.2 m).1 (reclaim ▸ r.found.1)

/-- A candidate of reclaim is SETTLED (R43). -/
theorem BooksOf.reclaimed {s : State} (h : BooksOf s) {m : Nat} (hm : m ∈ s.dir.reclaim) {x : Document} (found : findDoc s m = some x) :
    x.life = .settled := (h.settled_iff found).1 hm

theorem Roll.give_life {R : Roll} {k : Nat} {hand : List Block} {m : Nat} {life : Life} :
    (∃ b ∈ (R.give k hand).books, b.number = m ∧ b.life = life) ↔ ∃ b ∈ R.books, b.number = m ∧ b.life = life := by
  unfold Roll.give Roll.modBook
  simp only [List.mem_map, exists_exists_and_eq_and]
  refine exists_congr (fun b => and_congr_right (fun _ => ?_))
  split <;> rfl

/-- What the rounds of a test leave of the books (R11), with a page landing meanwhile. -/
theorem ReclaimRound.books {o : Bool} {s t : State} {d : Dept} {j k : Nat} {hand : List Block}
    (rounds : Relation.ReflTransGen (ReclaimRound d j) s t)
    (h : Books o (shelf s.store) ((roll s.dir).give k hand)) {x : Book} (hx : x ∈ (roll s.dir).books) (number : x.number = k)
    (life : x.life = .landing) :
    Books o (shelf t.store) ((roll t.dir).give k hand) ∧ t.part = s.part ∧ t.lines = s.lines ∧
      (shelf t.store).allots = (shelf s.store).allots ∧
      ∀ b : Book, b.life = .landing → (b ∈ (roll t.dir).books ↔ b ∈ (roll s.dir).books) := by
  refine ReclaimRound.keeps rounds (P := fun t => Books o (shelf t.store) ((roll t.dir).give k hand) ∧ t.part = s.part ∧ t.lines = s.lines ∧
      (shelf t.store).allots = (shelf s.store).allots ∧
      ∀ b : Book, b.life = .landing → (b ∈ (roll t.dir).books ↔ b ∈ (roll s.dir).books)) (fun u m hm ⟨hb, hp, hl, ha, hd⟩ => ?_)
    ⟨h, rfl, rfl, rfl, fun _ _ => Iff.rfl⟩
  obtain ⟨mem, y, found, -⟩ := hm.found
  have number_y := findDoc_number found
  have landing : x ∈ (roll u.dir).books := (hd x life).2 hx
  have given (b : Book) (hb' : b ∈ (roll u.dir).books) :
      (if b.number = k then b.give hand else b) ∈ ((roll u.dir).give k hand).books := List.mem_map_of_mem hb'
  obtain ⟨b, hbm, bn, bl⟩ := Roll.give_life.1 (hm.settled hb rfl)
  have is_y : ∀ z ∈ (roll u.dir).books, z.number = m → z.life = .settled := by
    intro z hz hzn
    have := hb.unique (given z hz) (given b hbm) (by split <;> split <;> exact hzn.trans bn.symm)
    have lives : (if z.number = k then z.give hand else z).life = (if b.number = k then b.give hand else b).life := by rw [this]
    have zl : (if z.number = k then z.give hand else z).life = z.life := by split <;> rfl
    have bl' : (if b.number = k then b.give hand else b).life = b.life := by split <;> rfl
    rw [zl, bl', bl] at lives; exact lives
  have ne : m ≠ k := by rintro rfl; rw [is_y x landing number] at life; cases life
  have settled : y.life = .settled := is_y _ (book_of_found found) number_y
  have books := purgeDoc_books hb found ne (by rw [settled]; simp)
  refine ⟨books, by rw [purgeDoc_part, hp], by rw [purgeDoc_lines, hl], by rw [purgeDoc_frame]; exact ha, fun z hz => ?_⟩
  rw [← hd z hz, roll_purgeDoc found]
  unfold Roll.drop
  rw [List.mem_filter, and_iff_left_iff_imp]
  intro hzm
  refine decide_eq_true (fun e => ?_)
  rw [is_y z hzm e] at hz; cases hz

theorem ReclaimRound.passes {X : Site} {s t : State} {d : Dept} {j : Nat} (rounds : Relation.ReflTransGen (ReclaimRound d j) s t)
    (h : BooksOf s) : Passes X s t := by
  refine (ReclaimRound.keeps rounds (P := fun t => BooksOf t ∧ Passes X s t) (fun u m hm ⟨hb, hp⟩ => ?_) ⟨h, .refl _ _⟩).2
  have life : ∀ x, findDoc u m = some x → x.life ≠ .landing := fun x found => by rw [hb.reclaimed hm.found.1 found]; simp
  have round := passes_purgeDoc (X := X) life
  exact ⟨(round.books hb).1, hp.trans round⟩

/-! ## Reservations -/

/-- A line's allotment is its own department's, or it has none (R14). -/
def Holds (a : Allotment) (d : Dept) : Prop := a.dept = some d ∨ a = ⟨none, 0⟩

/-- A reservation keeps the books (R9, R10, R14). -/
theorem Books.reserved {o : Bool} {s : State} (h : Books o (shelf s.store) (roll s.dir)) {n : LineNo} {d : Dept} {k : Nat}
    (mine : Holds (allotment s n) d) (cap : CapPasses s d k) (shared : SharedPasses s d k) :
    Books o (((shelf s.store).setPurse d { (shelf s.store).purses d with resv := ((shelf s.store).purses d).resv + k }).setAllot n
      ⟨some d, (allotment s n).count + k⟩) (roll s.dir) := by
  have mine' : Holds ((shelf s.store).allots n) d := mine
  have committed : (shelf s.store).sum Purse.borrow = sharedCommitted s := sum_shelf s _
  have guaranteed : (shelf s.store).sum Purse.guaranteed = Machine.guarantees s := sum_shelf s _
  have pool : sharedPool s = 32704 - Machine.guarantees s := rfl
  have cap' : (acct s d).used + (acct s d).resv + k ≤ (acct s d).cap := cap
  have shared' : sharedCommitted s + (((acct s d).used + (acct s d).resv + k - (acct s d).guarantee) -
    ((acct s d).used + (acct s d).resv - (acct s d).guarantee)) ≤ sharedPool s := shared
  have limit := h.guarantees
  have resv : (acct s d).resv = (shelf s.store).allotted d := h.resv d
  have old : ((shelf s.store).purses d).borrow = (acct s d).used + (acct s d).resv - (acct s d).guarantee := rfl
  refine h.accounted (d := d) (p := { (shelf s.store).purses d with resv := ((shelf s.store).purses d).resv + k }) rfl
    (allots := ((shelf s.store).setAllot n ⟨some d, (allotment s n).count + k⟩).allots) ?_ (fun e he => ?_) ?_ ?_ ?_ (fun hc => ?_)
  · show (acct s d).resv + k = ((shelf s.store).setAllot n ⟨some d, (allotment s n).count + k⟩).allotted d
    have step := (shelf s.store).allotted_setAllot n ⟨some d, (allotment s n).count + k⟩ d
    rw [if_pos rfl] at step
    have count : (allotment s n).count = ((shelf s.store).allots n).count := rfl
    dsimp only at step
    rcases mine' with hd | hd
    · rw [if_pos hd] at step; omega
    · rw [hd, if_neg (by simp)] at step; rw [hd] at count; dsimp only at count; omega
  · refine Shelf.allotted_of_none ?_ (fun k => he (Option.some.inj k).symm)
    rcases mine' with hd | hd
    · rw [hd]; exact fun k => he (Option.some.inj k).symm
    · rw [hd]; simp
  · show (acct s d).used + ((acct s d).resv + k) ≤ (acct s d).cap; omega
  · have new : Purse.borrow { (shelf s.store).purses d with resv := ((shelf s.store).purses d).resv + k } =
      (acct s d).used + ((acct s d).resv + k) - (acct s d).guarantee := rfl
    have same : Purse.guaranteed { (shelf s.store).purses d with resv := ((shelf s.store).purses d).resv + k } =
      ((shelf s.store).purses d).guaranteed := rfl
    rw [new, same, old]; omega
  · have same : Purse.guaranteed { (shelf s.store).purses d with resv := ((shelf s.store).purses d).resv + k } =
      ((shelf s.store).purses d).guaranteed := rfl
    rw [same]; omega
  · obtain ⟨g, c, u, r⟩ := h.absent d hc
    have : (acct s d).cap = 0 := c
    exact ⟨g, c, u, by dsimp only; omega⟩

theorem shelf_reserved (n : LineNo) (d : Dept) (k : Nat) (s : State) : shelf (reserved n d k s).store =
    ((shelf s.store).setPurse d { (shelf s.store).purses d with resv := ((shelf s.store).purses d).resv + k }).setAllot n
      ⟨some d, (allotment s n).count + k⟩ := by
  rw [reserved, shelf_evalPressure, shelf_setAllotment, shelf_setAcct]; rfl

theorem passes_reserved {X : Site} {n : LineNo} {d : Dept} {k : Nat} {s : State} (mine : Holds (allotment s n) d) (cap : CapPasses s d k)
    (shared : SharedPasses s d k) (here : X.allot n) : Passes X s (reserved n d k s) := by
  have frame := reserved_frame n d k s
  refine ⟨by rw [frame], fun m hm => ?_, fun h => ⟨?_, fun _ _ _ => by rw [frame]⟩, fun m _ => by unfold lineAt; rw [frame]; exact .refl _⟩
  · rw [shelf_reserved]
    show Function.update _ n _ m = _
    rw [Function.update_of_ne (by rintro rfl; exact hm here)]; rfl
  · have := Books.reserved h mine cap shared
    rw [← shelf_reserved] at this
    unfold BooksOf
    rw [show (reserved n d k s).part = s.part by rw [frame], show (reserved n d k s).dir = s.dir by rw [frame]]; exact this

/-- A reservation for the line at which an operation is at work (R15, R17). -/
theorem passes_reserve {X : Site} {n : LineNo} {d : Dept} {k : Nat} {s : State} (h : BooksOf s) (mine : Holds (allotment s n) d)
    (here : X.allot n) : Passes X s (reserve n d k s).1 := by
  obtain ⟨u, rounds, ⟨e, cap, shared⟩ | ⟨cause, e, -⟩⟩ := reserve_cases n d k s <;> rw [e]
  · refine (ReclaimRound.passes rounds h).trans (passes_reserved ?_ cap shared here)
    rw [allotment_congr (ReclaimRound.keeps_accounts rounds).1]; exact mine
  · exact (ReclaimRound.passes rounds h).trans (passes_allocFailed d k cause u)

/-- Whose the allotment is after a reservation (R14). -/
theorem allotment_reserve (n : LineNo) (d : Dept) (k : Nat) (s : State) :
    ((reserve n d k s).2 = true → (allotment (reserve n d k s).1 n).dept = some d) ∧
    ((reserve n d k s).2 = false → allotment (reserve n d k s).1 n = allotment s n) := by
  obtain ⟨u, rounds, ⟨e, -⟩ | ⟨cause, e, -⟩⟩ := reserve_cases n d k s <;> rw [e]
  · refine ⟨fun _ => ?_, fun k => by cases k⟩
    dsimp only
    rw [allotment_reserved, if_pos rfl]
  · refine ⟨fun k => by (cases k), fun _ => ?_⟩
    dsimp only
    rw [allotment_congr (s := u) (by rw [allocFailed_frame]), allotment_congr (ReclaimRound.keeps_accounts rounds).1]

theorem passes_topUp {X : Site} {n : LineNo} {d : Dept} {s : State} (h : BooksOf s) (mine : Holds (allotment s n) d) (here : X.allot n) :
    Passes X s (topUp n d s) := by
  unfold topUp
  dsimp only
  split
  · exact passes_reserve h mine here
  · exact .refl _ _

/-! ## The release of an allotment -/

theorem passes_releaseAllotment {X : Site} {n : LineNo} {s : State} (here : X.allot n) : Passes X s (releaseAllotment n s) := by
  have others (t : State) : ∀ m, ¬ X.allot m → (shelf (setAllotment n ⟨none, 0⟩ t).store).allots m = (shelf t.store).allots m := by
    intro m hm
    rw [shelf_setAllotment]
    exact Function.update_of_ne (by rintro rfl; exact hm here) _ _
  unfold releaseAllotment
  split
  · rename_i hd
    have hd' : ((shelf s.store).allots n).dept = none := hd
    refine ⟨rfl, others s, fun h => ⟨?_, fun _ _ _ => Iff.rfl⟩, fun _ _ => .refl _⟩
    have zero (e : Dept) : ((shelf s.store).setAllot n ⟨none, 0⟩).allotted e = (shelf s.store).allotted e :=
      Shelf.allotted_of_none (by rw [hd']; simp) (by simp)
    have := Books.accounted h (d := 0) (p := (shelf s.store).purses 0) rfl
      (allots := ((shelf s.store).setAllot n ⟨none, 0⟩).allots) ((h.resv 0).trans (zero 0).symm) (fun e _ => zero e) (h.caps 0)
      (by have := h.shared; omega) (by have := h.guarantees; omega) (h.absent 0)
    rw [Shelf.setPurse_self] at this
    unfold BooksOf
    rw [shelf_setAllotment]; exact this
  · rename_i d hd
    have hd' : ((shelf s.store).allots n).dept = some d := hd
    refine Passes.trans ?_ (passes_evalPressure _)
    refine ⟨rfl, fun m hm => (others _ m hm).trans rfl, fun h => ⟨?_, fun _ _ _ => Iff.rfl⟩, fun _ _ => .refl _⟩
    have step := (shelf s.store).allotted_setAllot n ⟨none, 0⟩ d
    rw [if_pos hd', if_neg (by simp)] at step
    have resv := h.resv d
    have cap := h.caps d
    have shared := h.shared
    have limit := h.guarantees
    have := Books.accounted h (d := d)
      (p := { (shelf s.store).purses d with resv := ((shelf s.store).purses d).resv - ((shelf s.store).allots n).count }) rfl
      (allots := ((shelf s.store).setAllot n ⟨none, 0⟩).allots)
      (by show _ = ((shelf s.store).setAllot n ⟨none, 0⟩).allotted d; dsimp only; omega)
      (fun e he => Shelf.allotted_of_none (by rw [hd']; exact fun k => he (Option.some.inj k).symm) (by simp))
      (by dsimp only; omega)
      (by
        have less : Purse.borrow { (shelf s.store).purses d with
          resv := ((shelf s.store).purses d).resv - ((shelf s.store).allots n).count } ≤ ((shelf s.store).purses d).borrow := by
          unfold Purse.borrow; dsimp only; omega
        have same : Purse.guaranteed { (shelf s.store).purses d with
          resv := ((shelf s.store).purses d).resv - ((shelf s.store).allots n).count } = ((shelf s.store).purses d).guaranteed := rfl
        omega)
      (by
        have same : Purse.guaranteed { (shelf s.store).purses d with
          resv := ((shelf s.store).purses d).resv - ((shelf s.store).allots n).count } = ((shelf s.store).purses d).guaranteed := rfl
        omega)
      (fun hc => by obtain ⟨g, c, u, r⟩ := h.absent d hc; exact ⟨g, c, u, by dsimp only; omega⟩)
    unfold BooksOf
    rw [shelf_setAllotment, shelf_setAcct]; exact this

theorem allots_releaseAllotment (n : LineNo) (s : State) : (shelf (releaseAllotment n s).store).allots n = ⟨none, 0⟩ := by
  unfold releaseAllotment
  split
  · rw [shelf_setAllotment]; exact Function.update_self ..
  · rw [shelf_evalPressure, shelf_setAllotment]; exact Function.update_self ..

end Sys2Proof.Machine
end

section
/-! A page that lands: its draws, its data and its end keep the store's books. -/

namespace Sys2Proof.Machine

open Sys2Proof

/-! ## Draws -/

theorem Roll.give_give (k : Nat) (a b : List Block) (R : Roll) : (R.give k a).give k b = R.give k (a ++ b) := by
  unfold Roll.give Roll.modBook
  dsimp only
  rw [List.map_map]
  congr 1
  refine List.map_congr_left (fun x _ => ?_)
  by_cases hx : x.number = k <;> simp [hx, Book.give]

/-- While a page of document k lands on line n: the books with the blocks drawn so far in the document's hand. -/
structure Filling (s₀ : State) (n : LineNo) (k : Nat) (d : Dept) (hand : List Block) (s : State) : Prop where
  books : Books (opened s₀.part) (shelf s.store) ((roll s.dir).give k hand)
  part : s.part = s₀.part
  lines : s.lines = s₀.lines
  others : ∀ m, m ≠ n → (shelf s.store).allots m = (shelf s₀.store).allots m
  mine : (allotment s n).dept = some d
  landings : ∀ b : Book, b.life = .landing → (b ∈ (roll s.dir).books ↔ b ∈ (roll s₀.dir).books)
  docs : s.dir.docs.Sublist s₀.dir.docs

theorem Filling.congr {s₀ s t : State} {n : LineNo} {k : Nat} {d : Dept} {hand : List Block} (f : Filling s₀ n k d hand s)
    (part : t.part = s.part) (lines : t.lines = s.lines) (store : shelf t.store = shelf s.store) (dir : t.dir = s.dir) :
    Filling s₀ n k d hand t :=
  ⟨by rw [store, dir]; exact f.books, part.trans f.part, lines.trans f.lines, fun m hm => by rw [store]; exact f.others m hm,
    (congrArg (fun sh => (sh.allots n).dept) store).trans f.mine, fun b hb => by rw [dir]; exact f.landings b hb,
    by rw [dir]; exact f.docs⟩

/-- The draw takes the next block of the free list (R16). -/
theorem Filling.takes {s₀ s t : State} {n : LineNo} {k : Nat} {d : Dept} {hand : List Block} (f : Filling s₀ n k d hand s) {x : Book}
    (hx : x ∈ (roll s₀.dir).books) (number : x.number = k) (dept : x.dept = d) (life : x.life = .landing)
    {b : Block} {rest : List Block} (free : s.store.free = b :: rest) {p : Purse} {a : Allotment}
    (shelf_t : shelf t.store = { ((shelf s.store).setPurse d p).setAllot n a with free := rest }) (part : t.part = s.part)
    (lines : t.lines = s.lines) (dir : t.dir = s.dir) (a_dept : a.dept = some d) (used : p.used = ((shelf s.store).purses d).used + 1)
    (resv : p.resv + (allotment s n).count = ((shelf s.store).purses d).resv + a.count) (cap : p.used + p.resv ≤ p.cap)
    (same : p.guaranteed = ((shelf s.store).purses d).guaranteed)
    (shared : (shelf s.store).sum Purse.borrow + p.borrow + (shelf s.store).sum Purse.guaranteed ≤
      32704 + ((shelf s.store).purses d).borrow) (configured : p.configured = true) :
    Filling s₀ n k d (hand ++ [b]) t := by
  have given : (if x.number = k then x.give hand else x) ∈ ((roll s.dir).give k hand).books :=
    List.mem_map_of_mem ((f.landings x life).2 hx)
  rw [if_pos number] at given
  have step := (shelf s.store).allotted_setAllot n a d
  have mine : ((shelf s.store).allots n).dept = some d := f.mine
  have count : ((shelf s.store).allots n).count = (allotment s n).count := rfl
  have old := f.books.resv d
  rw [if_pos mine, if_pos a_dept] at step
  have drawn := f.books.drawn given (b := b) (rest := rest) free (p := p) (by rw [show (x.give hand).dept = d from dept]; exact used)
    (allots := ((shelf s.store).setAllot n a).allots)
    (by
      rw [show (x.give hand).dept = d from dept]
      show p.resv = ((shelf s.store).setAllot n a).allotted d
      omega)
    (fun e he => Shelf.allotted_of_none (by rw [mine]; exact fun k => he ((Option.some.inj k).symm.trans dept.symm))
      (by rw [a_dept]; exact fun k => he ((Option.some.inj k).symm.trans dept.symm)))
    cap (by rw [show (x.give hand).dept = d from dept]; exact same) (by rw [show (x.give hand).dept = d from dept]; exact shared) configured
  rw [show (x.give hand).dept = d from dept, show (x.give hand).number = k from number, Roll.give_give] at drawn
  refine ⟨?_, part.trans f.part, lines.trans f.lines, fun m hm => ?_, ?_, fun z hz => by rw [dir]; exact f.landings z hz,
    by rw [dir]; exact f.docs⟩
  · rw [shelf_t, dir]; exact drawn
  · rw [shelf_t]; exact (Function.update_of_ne hm _ _).trans (f.others m hm)
  · show ((shelf t.store).allots n).dept = some d
    rw [shelf_t]
    exact (congrArg Allotment.dept (Function.update_self ..)).trans a_dept

/-- The hand after a draw. -/
def Draw.blocks : Draw → List Block
  | .block b => [b]
  | .oversize => []
  | .storeFull => []

/-- A draw keeps the books (R5, R16). -/
theorem Filling.draw {s₀ s : State} {n : LineNo} {k : Nat} {d : Dept} {hand : List Block} (f : Filling s₀ n k d hand s) {x : Book}
    (hx : x ∈ (roll s₀.dir).books) (number : x.number = k) (dept : x.dept = d) (life : x.life = .landing) (held : Nat) :
    Filling s₀ n k d (hand ++ (drawBlock n d held s).2.blocks) (drawBlock n d held s).1 := by
  have stays (t : State) (h : Filling s₀ n k d hand t) : Filling s₀ n k d (hand ++ []) t := by rw [List.append_nil]; exact h
  unfold drawBlock
  split
  · exact stays _ f
  · split
    · rename_i count
      split
      · exact stays _ f
      · rename_i b rest free
        have mine : ((shelf s.store).allots n).dept = some d := f.mine
        have small : (allotment s n).count ≤ (shelf s.store).allotted d := Shelf.le_allotted (shelf s.store) mine
        have resv : (acct s d).resv = (shelf s.store).allotted d := f.books.resv d
        have cap : (acct s d).used + (acct s d).resv ≤ (acct s d).cap := f.books.caps d
        have shared := f.books.shared
        have borrow : Purse.borrow ⟨(acct s d).configured, (acct s d).guarantee, (acct s d).cap, (acct s d).used + 1, (acct s d).resv - 1⟩ =
            ((shelf s.store).purses d).borrow := by
          show (acct s d).used + 1 + ((acct s d).resv - 1) - (acct s d).guarantee = (acct s d).used + (acct s d).resv - (acct s d).guarantee
          omega
        have configured : (acct s d).configured = true := by
          by_contra no
          obtain ⟨-, -, -, zero⟩ := f.books.absent d (Bool.eq_false_iff.2 no)
          have : (acct s d).resv = 0 := zero
          omega
        refine f.takes hx number dept life free
          (p := ⟨(acct s d).configured, (acct s d).guarantee, (acct s d).cap, (acct s d).used + 1, (acct s d).resv - 1⟩)
          (a := { allotment s n with count := (allotment s n).count - 1 }) ?_ (by simp) (by simp) (by simp) f.mine rfl ?_ ?_ rfl
          (by omega) configured
        · rw [shelf_evalPressure, shelf_setAllotment, shelf_setAcct]; rfl
        · show (acct s d).resv - 1 + (allotment s n).count = (acct s d).resv + ((allotment s n).count - 1); omega
        · show (acct s d).used + 1 + ((acct s d).resv - 1) ≤ (acct s d).cap; omega
    · obtain ⟨u, rounds, ⟨e, capPasses, sharedPasses⟩ | ⟨cause, e, -⟩⟩ := allocTest_cases d 1 s <;> rw [e]
      · obtain ⟨books, part, lines, allots, landings⟩ :=
          ReclaimRound.books rounds f.books ((f.landings x life).2 hx) number life
        have g : Filling s₀ n k d hand u := ⟨books, part.trans f.part, lines.trans f.lines, fun m hm => by rw [allots]; exact f.others m hm,
          (congrArg (fun al => (al n).dept) allots).trans f.mine, fun b hb => (landings b hb).trans (f.landings b hb),
          (ReclaimRound.keeps_docs rounds).1.trans f.docs⟩
        dsimp only
        split
        · exact stays _ (g.congr (by simp) (by simp) (by simp) (by simp))
        · rename_i b rest free
          have cap : (acct u d).used + (acct u d).resv + 1 ≤ (acct u d).cap := capPasses
          have committed : (shelf u.store).sum Purse.borrow = sharedCommitted u := sum_shelf u _
          have guaranteed : (shelf u.store).sum Purse.guaranteed = Machine.guarantees u := sum_shelf u _
          have pool : sharedPool u = 32704 - Machine.guarantees u := rfl
          have shared : sharedCommitted u + (((acct u d).used + (acct u d).resv + 1 - (acct u d).guarantee) -
            ((acct u d).used + (acct u d).resv - (acct u d).guarantee)) ≤ sharedPool u := sharedPasses
          have limit := g.books.guarantees
          have configured : (acct u d).configured = true := by
            by_contra no
            obtain ⟨-, zero, -⟩ := g.books.absent d (Bool.eq_false_iff.2 no)
            have : (acct u d).cap = 0 := zero
            omega
          refine g.takes hx number dept life free
            (p := ⟨(acct u d).configured, (acct u d).guarantee, (acct u d).cap, (acct u d).used + 1, (acct u d).resv⟩)
            (a := allotment u n) ?_ (by simp) (by simp) (by simp) g.mine rfl rfl ?_ rfl ?_ configured
          · rw [shelf_evalPressure, shelf_setAcct]
            have : (shelf u.store).setAllot n (allotment u n) = shelf u.store := by
              unfold Shelf.setAllot; rw [show allotment u n = (shelf u.store).allots n from rfl, Function.update_eq_self]
            show _ = { ((shelf u.store).setAllot n (allotment u n)).setPurse d _ with free := rest }
            rw [this]; rfl
          · show (acct u d).used + 1 + (acct u d).resv ≤ (acct u d).cap; omega
          · have new : Purse.borrow ⟨(acct u d).configured, (acct u d).guarantee, (acct u d).cap, (acct u d).used + 1, (acct u d).resv⟩ =
              (acct u d).used + 1 + (acct u d).resv - (acct u d).guarantee := rfl
            have old : ((shelf u.store).purses d).borrow = (acct u d).used + (acct u d).resv - (acct u d).guarantee := rfl
            rw [new, old]; omega
      · obtain ⟨books, part, lines, allots, landings⟩ :=
          ReclaimRound.books rounds f.books ((f.landings x life).2 hx) number life
        have g : Filling s₀ n k d hand u := ⟨books, part.trans f.part, lines.trans f.lines, fun m hm => by rw [allots]; exact f.others m hm,
          (congrArg (fun al => (al n).dept) allots).trans f.mine, fun b hb => (landings b hb).trans (f.landings b hb),
          (ReclaimRound.keeps_docs rounds).1.trans f.docs⟩
        have failed : shelf (allocFailed d 1 cause u).store = shelf u.store := by
          unfold allocFailed
          rw [shelf_evalPressure, mark_store]
          exact shelf_setAcct_same (by intro; rfl) u
        dsimp only
        exact stays _ (g.congr (by rw [allocFailed_frame]) (by rw [allocFailed_frame]) failed (by rw [allocFailed_frame]))

/-! ## Page data -/

/-- Page data reaches the page now arriving with the books kept (R85). -/
theorem Filling.fill {s₀ : State} {n : LineNo} {k : Nat} {d : Dept} {x : Book} (hx : x ∈ (roll s₀.dir).books) (number : x.number = k)
    (dept : x.dept = d) (life : x.life = .landing) (fuel : Nat) (bytes : List Byte) (l : Landing) (hand : List Block) (s : State)
    (f : Filling s₀ n k d hand s) :
    ∃ drawn, (fillPage fuel n d bytes l s).1.1.blocks = l.blocks ++ drawn ∧
      Filling s₀ n k d (hand ++ drawn) (fillPage fuel n d bytes l s).2 := by
  induction fuel generalizing bytes l hand s with
  | zero => exact ⟨[], by simp [fillPage], by rw [List.append_nil]; exact f⟩
  | succ fuel ih =>
    unfold fillPage
    dsimp only
    have frame := putBytes_frame (bytes.take (l.blocks.length * blockBytes - l.length)) l s
    have blocks := congrArg Landing.blocks (putBytes_landing (bytes.take (l.blocks.length * blockBytes - l.length)) l s)
    generalize putBytes (bytes.take (l.blocks.length * blockBytes - l.length)) l s = p at frame blocks
    obtain ⟨l1, s1⟩ := p
    dsimp only at frame blocks ⊢
    have g : Filling s₀ n k d hand s1 := f.congr (by rw [frame]) (by rw [frame]) (by rw [frame]) (by rw [frame])
    split
    · exact ⟨[], by simp [blocks], by rw [List.append_nil]; exact g⟩
    · have drew := g.draw hx number dept life l1.blocks.length
      generalize drawBlock n d l1.blocks.length s1 = q at drew
      obtain ⟨s2, draw⟩ := q
      cases draw with
      | block b =>
        obtain ⟨drawn, e, h⟩ := ih (bytes.drop (l.blocks.length * blockBytes - l.length)) { l1 with blocks := l1.blocks ++ [b] } _ _ drew
        refine ⟨b :: drawn, ?_, ?_⟩
        · rw [e, ← blocks]; simp
        · simpa [Draw.blocks] using h
      | oversize => exact ⟨[], by simp [blocks], drew⟩
      | storeFull => exact ⟨[], by simp [blocks], drew⟩

end Sys2Proof.Machine
end

section
/-! New records, and the lines' part of the store's books. -/

namespace Sys2Proof.Machine

open Sys2Proof

/-! ## New records -/

/-- A slot for a new record is free, or reclaim has freed one (R29, R30). -/
theorem takeSlot_some {s s₁ : State} {number : Nat} (h : takeSlot s = some (s₁, number)) : number = s.dir.nextNumber ∧
    ∃ t, s₁ = { t with dir.nextNumber := number + 1 } ∧ (t = s ∨ ∃ m, candidate s (fun _ => true) = some m ∧ t = purgeEvent m s) := by
  unfold takeSlot at h
  split at h
  · cases h
  · dsimp only at h
    split at h
    · obtain ⟨rfl, rfl⟩ := Prod.mk.inj (Option.some.inj h)
      exact ⟨rfl, s, rfl, .inl rfl⟩
    · cases c : candidate s (fun _ => true) with
      | none => rw [c] at h; cases h
      | some m =>
        rw [c] at h
        obtain ⟨rfl, rfl⟩ := Prod.mk.inj (Option.some.inj h)
        have next : (purgeEvent m s).dir.nextNumber = s.dir.nextNumber := by rw [purgeEvent_dir, purgeDoc_nextNumber]
        exact ⟨next, _, rfl, .inr ⟨m, rfl, rfl⟩⟩

/-- The candidate of a slot is SETTLED (R30, R43). -/
theorem BooksOf.candidate {s : State} (h : BooksOf s) {p : Document → Bool} {m : Nat} (c : Machine.candidate s p = some m)
    {x : Document} (found : findDoc s m = some x) : x.life = .settled :=
  h.reclaimed ((candidate_eq_some_iff s p m).1 c).found.1 found

/-- A new record joins on a line at which an operation is at work (R30, R47). -/
theorem passes_newDoc {X : Site} {s s₁ : State} {number : Nat} {x : Document} (h : BooksOf s) (isOpen : opened s.part = true)
    (slot : takeSlot s = some (s₁, number)) (same : x.number = number) (pages : x.pages = []) (landing : x.landing = none)
    (life : x.life = .landing) (here : X.touches (bookOf x)) : Passes X s (addDoc x s₁) := by
  obtain ⟨next, t, rfl, ht⟩ := takeSlot_some slot
  have held : heldBlocks x = [] := by simp [heldBlocks, docBlocks, pages, landing]
  have passes : Passes X s t := by
    rcases ht with rfl | ⟨m, c, rfl⟩
    · exact .refl _ _
    · exact passes_purgeEvent (fun y found => by rw [h.candidate c found]; simp)
  have next_t : t.dir.nextNumber = number := by
    rcases ht with rfl | ⟨m, c, rfl⟩
    · exact next.symm
    · rw [purgeEvent_dir, purgeDoc_nextNumber, next]
  refine passes.trans ⟨rfl, fun _ _ => rfl, fun b => ⟨?_, fun y hy hn => ?_⟩, fun _ _ => .refl _⟩
  · have open_t : opened t.part = true := passes.phase.trans isOpen
    unfold BooksOf at b ⊢
    rw [open_t] at b
    have := b.joined (x := bookOf x) (by show x.number = t.dir.nextNumber; rw [next_t, same]) held
      (by show x.life ≠ .settled; rw [life]; simp) (by simp [bookOf, landing])
    rw [show opened (addDoc x { t with dir.nextNumber := number + 1 }).part = true from open_t]
    rw [show (roll t.dir).next = number from next_t] at this
    refine Eq.mp (congrArg (Books true (shelf t.store)) ?_) this
    unfold roll addDoc
    dsimp only
    rw [List.map_append]; rfl
  · show y ∈ (t.dir.docs ++ [x]).map bookOf ↔ y ∈ t.dir.docs.map bookOf
    have other : y ≠ bookOf x := by rintro rfl; exact hn here
    simp [other]

/-- The records once a new one has joined. -/
theorem findDoc_newDoc {s s₁ : State} {number : Nat} {x : Document} (slot : takeSlot s = some (s₁, number)) (a : Nat) (d : Document)
    (found : findDoc s a = some d) (stays : ∀ p m, candidate s p = some m → a ≠ m) : findDoc (addDoc x s₁) a = some d := by
  obtain ⟨-, t, rfl, ht⟩ := takeSlot_some slot
  have found_t : findDoc t a = some d := by
    rcases ht with rfl | ⟨m, c, rfl⟩
    · exact found
    · obtain ⟨-, y, hy, -⟩ := ((candidate_eq_some_iff s _ m).1 c).found
      rw [findDoc_dir (s := purgeDoc m s) (by rw [purgeEvent_dir]), findDoc_purgeDoc hy, if_neg (stays _ m c), found]
  unfold findDoc addDoc at *
  rw [List.find?_append, found_t]; rfl

theorem found_newDoc {s₁ : State} {number : Nat} {x : Document} (h : BooksOf (addDoc x s₁)) (same : x.number = number) :
    findDoc (addDoc x s₁) number = some x := by
  obtain ⟨d, found, e⟩ := found_of_book h (b := bookOf x) (List.mem_map_of_mem (by simp))
  have mem : x ∈ (addDoc x s₁).dir.docs := by simp
  rw [← same]
  exact found.trans (congrArg some (h.only found mem rfl).symm)

/-! ## Changes of lines -/

theorem roll_same {s t : State} (h : t.dir = s.dir) : roll t.dir = roll s.dir := by rw [h]

/-- An operation that changes one line alone. -/
theorem passes_atLine {n : LineNo} {s t : State} (part : opened t.part = opened s.part) (store : shelf t.store = shelf s.store)
    (dir : roll t.dir = roll s.dir) (others : ∀ m, m ≠ n → lineAt t m = lineAt s m) : Passes (atLine n) s t :=
  ⟨part, fun _ _ => by rw [store], fun b => ⟨by unfold BooksOf at *; rw [part, store, dir]; exact b, fun _ _ _ => by rw [dir]⟩,
    fun m hm => by rw [others m hm]; exact .refl _⟩

theorem passes_calm {X : Site} {n : LineNo} {s t : State} (part : opened t.part = opened s.part) (store : shelf t.store = shelf s.store)
    (dir : roll t.dir = roll s.dir) (others : ∀ m, m ≠ n → lineAt t m = lineAt s m) (calm : Calm (lineAt s n) (lineAt t n)) :
    Passes X s t :=
  ⟨part, fun _ _ => by rw [store], fun b => ⟨by unfold BooksOf at *; rw [part, store, dir]; exact b, fun _ _ _ => by rw [dir]⟩,
    fun m _ => by
      by_cases hm : m = n
      · rw [hm]; exact calm
      · rw [others m hm]; exact .refl _⟩

theorem passes_modLine {n : LineNo} (f : Line → Line) (s : State) : Passes (atLine n) s (modLine n f s) :=
  passes_atLine rfl rfl rfl (fun _ hm => lineAt_modLine_ne hm f s)

theorem calm_modLine {X : Site} {n : LineNo} {f : Line → Line} {s : State} (calm : Calm (lineAt s n) (f (lineAt s n))) :
    Passes X s (modLine n f s) :=
  passes_calm rfl rfl rfl (fun _ hm => lineAt_modLine_ne hm f s) (by rw [lineAt_modLine_self]; exact calm)

theorem passes_sendCmd {X : Site} (n : LineNo) (c : PortCommand) (s : State) : Passes X s (sendCmd n c s) := calm_modLine ⟨rfl, id⟩

theorem passes_modStats {X : Site} (n : LineNo) (f : LineStats → LineStats) (s : State) : Passes X s (modStats n f s) :=
  calm_modLine ⟨rfl, id⟩

/-- A call's record after a change of its wait or of its role's fields. -/
theorem rxOf_setWait (l : Line) (w : Option Wait) : rxOf { l with call := l.call.map (fun c => { c with wait := w }) } = rxOf l := by
  rcases h : l.call with _ | ⟨v, c | t⟩ <;> simp [rxOf, h]

theorem rxOf_modRx (n : LineNo) (f : RxCall → RxCall) (s : State) : rxOf (lineAt (modRx n f s) n) = (rxOf (lineAt s n)).map f := by
  unfold modRx
  rw [lineAt_modLine_self]
  rcases h : (lineAt s n).call with _ | ⟨v, c | t⟩ <;> simp [rxOf, h]

theorem rxOf_modTx (n : LineNo) (f : TxCall → TxCall) (s : State) : rxOf (lineAt (modTx n f s) n) = rxOf (lineAt s n) := by
  unfold modTx
  rw [lineAt_modLine_self]
  rcases h : (lineAt s n).call with _ | ⟨v, c | t⟩ <;> simp [rxOf, h]

theorem chan_modRx (n : LineNo) (f : RxCall → RxCall) (s : State) :
    (lineAt (modRx n f s) n).chan = (lineAt s n).chan ∧ (lineAt (modRx n f s) n).reset = (lineAt s n).reset := by
  unfold modRx; rw [lineAt_modLine_self]; exact ⟨rfl, rfl⟩

theorem chan_modTx (n : LineNo) (f : TxCall → TxCall) (s : State) :
    (lineAt (modTx n f s) n).chan = (lineAt s n).chan ∧ (lineAt (modTx n f s) n).reset = (lineAt s n).reset := by
  unfold modTx; rw [lineAt_modLine_self]; exact ⟨rfl, rfl⟩

theorem passes_setWait {X : Site} (n : LineNo) (w : Option Wait) (s : State) : Passes X s (setWait n w s) :=
  calm_modLine ⟨by unfold callDoc; rw [rxOf_setWait], id⟩

theorem passes_startWait {X : Site} (n : LineNo) (k : WaitKind) (ms : Nat) (s : State) : Passes X s (startWait n k ms s) :=
  passes_setWait n _ s

theorem passes_modRx {X : Site} (n : LineNo) (f : RxCall → RxCall) (s : State) (h : ∀ c, (f c).document = c.document) :
    Passes X s (modRx n f s) := by
  obtain ⟨chan, reset⟩ := chan_modRx n f s
  refine passes_calm rfl rfl rfl (fun _ hm => lineAt_modLine_ne hm _ s) ⟨?_, fun ok => ?_⟩
  · unfold callDoc
    rw [chan, rxOf_modRx, Option.map_map, show RxCall.document ∘ f = RxCall.document from funext h]
  · unfold resetOk at *; rw [chan, reset]; exact ok

/-- A receiving call moves from one of its states to another. -/
theorem passes_setChan {X : Site} {n : LineNo} {c : Chan} {s : State}
    (call : receivingChan c = receivingChan (lineAt s n).chan ∨ rxOf (lineAt s n) = none)
    (reset : (lineAt s n).chan ≠ .releasing) : Passes X s (setChan n c s) := by
  refine calm_modLine ⟨?_, fun ok ne => absurd (ok ne) reset⟩
  unfold callDoc
  rcases call with h | h
  · rw [show ({ lineAt s n with chan := c } : Line).chan = c from rfl, h]; rfl
  · rw [show rxOf ({ lineAt s n with chan := c } : Line) = rxOf (lineAt s n) from rfl, h]; simp

/-- RELEASE or REJECT ends a call that is none to the books (R92). -/
theorem passes_releaseWith {X : Site} {n : LineNo} {c : PortCommand} {s : State} (call : callDoc (lineAt s n) = none) :
    Passes X s (releaseWith n c s) := by
  rw [releaseWith_eq]
  refine calm_modLine ⟨?_, fun _ _ => rfl⟩
  rw [call]; rfl

theorem passes_releaseWith_atLine (n : LineNo) (c : PortCommand) (s : State) : Passes (atLine n) s (releaseWith n c s) := by
  rw [releaseWith_eq]; exact passes_modLine _ s

theorem passes_report {X : Site} (n : LineNo) (s : State) : Passes X s (report n s) := .same rfl rfl rfl rfl
theorem passes_oweRun {X : Site} (s : State) : Passes X s (oweRun s) := .same rfl rfl rfl rfl
theorem passes_reportRun {X : Site} (n : LineNo) (s : State) : Passes X s (reportRun n s) := .same rfl rfl rfl rfl
theorem passes_handClass {X : Site} (number : Text) (c : CallClass) (s : State) : Passes X s (handClass number c s) := .same rfl rfl rfl rfl
theorem passes_respond {X : Site} (tag : Byte) (kind : ReqKind) (status : Status) (content : Content) (s : State) :
    Passes X s (respond tag kind status content s) := .same rfl rfl rfl rfl
theorem passes_advanceTo {X : Site} (t : Nat) (s : State) : Passes X s (advanceTo t s) := .same rfl rfl rfl rfl

theorem passes_applyPending {X : Site} (n : LineNo) (s : State) : Passes X s (applyPending n s) := by
  unfold applyPending
  split
  · exact .refl _ _
  · refine Passes.trans ?_ ((passes_sendCmd n _ _).trans (passes_mark _ _))
    exact calm_modLine ⟨rfl, id⟩

theorem calm_returnToIdle {X : Site} {n : LineNo} {s : State} (call : callDoc (lineAt s n) = none) : Passes X s (returnToIdle n s) := by
  refine Passes.trans ?_ ((passes_applyPending n _).trans (passes_reportRun n _))
  exact calm_modLine ⟨by rw [call]; rfl, fun _ k => absurd rfl k⟩

/-- An operation that leaves a line without a receiving call and without an allotment closes the books. -/
theorem OkBut.ends {n : LineNo} {s : State} (h : OkBut (atLine n) s) (unheld : (shelf s.store).allots n = ⟨none, 0⟩)
    (chan : receivingChan (lineAt s n).chan = false) (reset : (lineAt s n).reset = .none ∨ (lineAt s n).chan = .releasing) : StoreOk s :=
  h.close (.quiet (by unfold callDoc; rw [chan]; rfl) unheld (fun k => reset.resolve_left k))

/-- A line returns to IDLE once its call's document has ended and its allotment gone back. -/
theorem OkBut.returns {n : LineNo} {s : State} (h : OkBut (atLine n) s) (unheld : (shelf s.store).allots n = ⟨none, 0⟩) :
    StoreOk (returnToIdle n s) := by
  have idle : StoreOk (modLine n (fun l => { l with chan := .idle, call := none, reset := .none }) s) :=
    (h.passes (passes_modLine _ s)).ends unheld (by rw [lineAt_modLine_self]; rfl) (.inl (by rw [lineAt_modLine_self]))
  exact idle.passes ((passes_applyPending n _).trans (passes_reportRun n _))

/-! ## Sending calls -/

/-- An operation of a sending call: it changes its line alone, which stays one with no receiving call. -/
structure SenderStep (n : LineNo) (s t : State) : Prop where
  part : opened t.part = opened s.part
  store : shelf t.store = shelf s.store
  dir : roll t.dir = roll s.dir
  others : ∀ m, m ≠ n → lineAt t m = lineAt s m
  rx : rxOf (lineAt s n) = none → rxOf (lineAt t n) = none
  reset : (lineAt t n).reset = (lineAt s n).reset

theorem SenderStep.same {n : LineNo} {s t : State} (part : opened t.part = opened s.part) (store : shelf t.store = shelf s.store)
    (dir : roll t.dir = roll s.dir) (lines : t.lines = s.lines) : SenderStep n s t := by
  have at_same (m : LineNo) : lineAt t m = lineAt s m := by unfold lineAt; rw [lines]
  exact ⟨part, store, dir, fun m _ => at_same m, fun h => by rw [at_same]; exact h, by rw [at_same]⟩

theorem SenderStep.trans {n : LineNo} {s t u : State} (h : SenderStep n s t) (k : SenderStep n t u) : SenderStep n s u :=
  ⟨k.part.trans h.part, k.store.trans h.store, k.dir.trans h.dir, fun m hm => (k.others m hm).trans (h.others m hm),
    fun e => k.rx (h.rx e), k.reset.trans h.reset⟩

theorem SenderStep.modLine {n : LineNo} {f : Line → Line} {s : State} (rx : rxOf (lineAt s n) = none → rxOf (f (lineAt s n)) = none)
    (reset : (f (lineAt s n)).reset = (lineAt s n).reset) : SenderStep n s (modLine n f s) :=
  ⟨rfl, rfl, rfl, fun _ hm => lineAt_modLine_ne hm f s, by rw [lineAt_modLine_self]; exact rx, by rw [lineAt_modLine_self]; exact reset⟩

/-- What an operation of a sending call leaves of the books. -/
theorem SenderStep.passes {X : Site} {n : LineNo} {s t : State} (h : SenderStep n s t) (rx : rxOf (lineAt s n) = none)
    (reset : (lineAt s n).chan ≠ .releasing) : Passes X s t := by
  refine passes_calm h.part h.store h.dir h.others ⟨?_, fun ok ne => absurd (ok (h.reset ▸ ne)) reset⟩
  unfold callDoc; rw [rx, h.rx rx]; simp

theorem sender_sendCmd (n : LineNo) (c : PortCommand) (s : State) : SenderStep n s (sendCmd n c s) := .modLine id rfl
theorem sender_modStats (n : LineNo) (f : LineStats → LineStats) (s : State) : SenderStep n s (modStats n f s) := .modLine id rfl
theorem sender_setChan (n : LineNo) (c : Chan) (s : State) : SenderStep n s (setChan n c s) := .modLine id rfl
theorem sender_setWait (n : LineNo) (w : Option Wait) (s : State) : SenderStep n s (setWait n w s) :=
  .modLine (by rw [rxOf_setWait]; exact id) rfl
theorem sender_startWait (n : LineNo) (k : WaitKind) (ms : Nat) (s : State) : SenderStep n s (startWait n k ms s) := sender_setWait n _ s
theorem sender_modTx (n : LineNo) (f : TxCall → TxCall) (s : State) : SenderStep n s (modTx n f s) :=
  ⟨rfl, rfl, rfl, fun _ hm => lineAt_modLine_ne hm _ s, by rw [rxOf_modTx]; exact id, (chan_modTx n f s).2⟩
theorem sender_releaseWith (n : LineNo) (c : PortCommand) (s : State) : SenderStep n s (releaseWith n c s) :=
  (sender_sendCmd n c s).trans ((sender_setChan n _ _).trans (sender_startWait n _ _ _))
theorem sender_refl (n : LineNo) (s : State) : SenderStep n s s := .same rfl rfl rfl rfl

theorem rxOf_of_tx {l : Line} {t : TxCall} (h : txOf l = some t) : rxOf l = none := by
  rcases hc : l.call with _ | ⟨v, c | u⟩ <;> simp [txOf, rxOf, hc] at h ⊢

theorem sender_endAttempt (n : LineNo) (o : AttemptOutcome) (cause : TxCause) (rel : Bool) (s : State) :
    SenderStep n s (endAttempt n o cause rel s) := by
  unfold endAttempt
  split
  · exact sender_refl n s
  · dsimp only
    have released : SenderStep n s (if rel = true then releaseWith n .release s else s) := by
      split
      · exact sender_releaseWith n _ s
      · exact sender_refl n s
    refine released.trans ?_
    generalize (if rel = true then releaseWith n .release s else s) = s₁
    exact .same rfl rfl rfl rfl

theorem sender_releaseAttempt (n : LineNo) (s : State) : SenderStep n s (releaseAttempt n s) := by
  unfold releaseAttempt
  split
  · exact sender_refl n s
  · refine (sender_releaseWith n .release s).trans ?_
    generalize releaseWith n .release s = s₁
    exact .same rfl rfl rfl rfl

theorem appendRecord_frame (r : ErrorRecord) (s : State) : appendRecord r s =
    { s with integrity := (appendRecord r s).integrity, link := (appendRecord r s).link } := rfl

/-- A read of the store is not seen by the books (R191 to R194). -/
theorem readSpan_books (reader : Reader) (doc : Nat) (pg : Page) (off size : Nat) (s : State) :
    shelf (readSpan reader doc pg off size s).1.store = shelf s.store ∧ roll (readSpan reader doc pg off size s).1.dir = roll s.dir := by
  unfold readSpan
  split
  · exact ⟨rfl, rfl⟩
  · dsimp only
    split
    · exact ⟨rfl, rfl⟩
    · split
      · have damaged (t : State) : roll (markDamaged doc pg.number t).dir = roll t.dir :=
          roll_modDoc_same (fun d => by
            unfold bookOf heldBlocks docBlocks
            dsimp only
            rw [List.flatMap_map]
            congr 2
            refine List.flatMap_congr (fun q _ => ?_)
            split <;> rfl)
        split
        · exact ⟨by rw [appendRecord_frame]; dsimp only; rw [append_store]; rfl,
            by rw [appendRecord_frame]; dsimp only; rw [append_dir]; exact damaged _⟩
        · exact ⟨rfl, damaged _⟩
      · exact ⟨rfl, rfl⟩

theorem sender_readSpan (n : LineNo) (reader : Reader) (doc : Nat) (pg : Page) (off size : Nat) (s : State) :
    SenderStep n s (readSpan reader doc pg off size s).1 :=
  .same (by simp) (readSpan_books ..).1 (readSpan_books ..).2 (by simp)

theorem sender_sendNext (n : LineNo) (s : State) : SenderStep n s (sendNext n s) := by
  unfold sendNext
  split
  · exact sender_refl n s
  · rename_i t _
    split
    · exact sender_refl n s
    · rename_i p pages _
      split
      · have read := sender_readSpan n (.send n) t.document p t.offset portBytes s
        generalize readSpan (.send n) t.document p t.offset portBytes s = r at read
        obtain ⟨s1, data⟩ := r
        cases data with
        | none => exact read.trans (sender_endAttempt n _ _ _ s1)
        | some data => exact read.trans ((sender_modTx n _ s1).trans (sender_sendCmd n _ _))
      · exact sender_sendCmd n _ s

theorem sender_beginPage (n : LineNo) (s : State) : SenderStep n s (beginPage n s) := by
  unfold beginPage
  have begun : SenderStep n s (setWait n none (setChan n .sending (modTx n (fun u => { u with sends := u.sends + 1, offset := 0 }) s))) :=
    (sender_modTx n _ s).trans ((sender_setChan n _ _).trans (sender_setWait n _ _))
  refine begun.trans ?_
  dsimp only
  split
  · exact sender_refl n _
  · split
    · exact sender_refl n _
    · split
      · exact sender_endAttempt n _ _ _ _
      · exact sender_sendNext n _

theorem sender_trainAt (n : LineNo) (step : Nat) (res : Resolution) (s : State) : SenderStep n s (trainAt n step res s) :=
  (sender_modTx n _ s).trans ((sender_sendCmd n _ _).trans ((sender_sendCmd n _ _).trans ((sender_setChan n _ _).trans
    (sender_startWait n _ _ _))))

theorem sender_txTrained (n : LineNo) (t : TxCall) (step : Nat) (pass : Bool) (s : State) : SenderStep n s (txTrained n t step pass s) := by
  unfold txTrained
  split
  · exact sender_beginPage n s
  · have counted : SenderStep n s (countTxFail n s) := (sender_modTx n _ s).trans (sender_modStats n _ _)
    dsimp only
    split
    · exact counted.trans (sender_endAttempt n _ _ _ _)
    · exact counted.trans (sender_trainAt n _ _ _)

theorem sender_takeVerdict (n : LineNo) (v : Verdict) (t : TxCall) (s : State) : SenderStep n s (takeVerdict n v t s) := by
  unfold takeVerdict
  have noted : SenderStep n s (modTx n (noteVerdict v) s) := sender_modTx n _ s
  refine noted.trans ?_
  dsimp only
  split
  · split
    · exact sender_endAttempt n _ _ _ _
    · exact sender_trainAt n _ _ _
  · exact sender_endAttempt n _ _ _ _
  · exact (sender_modTx n _ _).trans (sender_beginPage n _)
  · exact (sender_modTx n _ _).trans (sender_trainAt n _ _ _)

theorem sender_beginSending (n : LineNo) (t : TxCall) (maxStep : Nat) (s : State) : SenderStep n s (beginSending n t maxStep s) := by
  unfold beginSending
  have looked : SenderStep n s (lookupCaller t.destination s).1 := by
    unfold lookupCaller; split
    · exact sender_refl n s
    · exact .same rfl rfl rfl rfl
  refine looked.trans ?_
  exact (sender_modTx n _ _).trans (sender_trainAt n _ _ _)

theorem sender_glareRing (n : LineNo) (t : TxCall) (s : State) : SenderStep n s (glareRing n t s) := by
  unfold glareRing
  split
  · exact sender_refl n s
  · exact (sender_modStats n _ s).trans (sender_modTx n _ _)

end Sys2Proof.Machine
end

section
/-! Calls begin, receive pages and end with the store's books kept. -/

namespace Sys2Proof.Machine

open Sys2Proof

/-! ## A receiving call and its document -/

/-- What the books read of a line: the receiving call's record, the channel state and the reset. -/
def callState (l : Line) : Option RxCall × Chan × ResetStage := (rxOf l, l.chan, l.reset)

theorem lineAt_of_lines {s t : State} (h : t.lines = s.lines) (n : LineNo) : lineAt t n = lineAt s n := by unfold lineAt; rw [h]

@[simp] theorem callState_sendCmd (n : LineNo) (c : PortCommand) (s : State) :
    callState (lineAt (sendCmd n c s) n) = callState (lineAt s n) := by
  unfold sendCmd; rw [lineAt_modLine_self]; rfl
@[simp] theorem callState_modStats (n : LineNo) (f : LineStats → LineStats) (s : State) :
    callState (lineAt (modStats n f s) n) = callState (lineAt s n) := by
  unfold modStats; rw [lineAt_modLine_self]; rfl
@[simp] theorem callState_setWait (n : LineNo) (w : Option Wait) (s : State) :
    callState (lineAt (setWait n w s) n) = callState (lineAt s n) := by
  unfold setWait callState; rw [lineAt_modLine_self, rxOf_setWait]
@[simp] theorem callState_startWait (n : LineNo) (k : WaitKind) (ms : Nat) (s : State) :
    callState (lineAt (startWait n k ms s) n) = callState (lineAt s n) := callState_setWait n _ s
@[simp] theorem callState_setChan (n : LineNo) (c : Chan) (s : State) :
    callState (lineAt (setChan n c s) n) = ((callState (lineAt s n)).1, c, (callState (lineAt s n)).2.2) := by
  unfold setChan callState; rw [lineAt_modLine_self]; rfl
@[simp] theorem callState_modRx (n : LineNo) (f : RxCall → RxCall) (s : State) :
    callState (lineAt (modRx n f s) n) = ((callState (lineAt s n)).1.map f, (callState (lineAt s n)).2) := by
  unfold callState; rw [rxOf_modRx, (chan_modRx n f s).1, (chan_modRx n f s).2]
@[simp] theorem callState_mark (n : LineNo) (x : Subject) (s : State) :
    callState (lineAt (mark x s) n) = callState (lineAt s n) := rfl
@[simp] theorem callState_modDoc (n : LineNo) (k : Nat) (f : Document → Document) (s : State) :
    callState (lineAt (modDoc k f s) n) = callState (lineAt s n) := rfl

/-- The document a receiving call stands for. -/
theorem StoreOk.receiving {s : State} (h : StoreOk s) {n : LineNo} {c : RxCall} (rx : rxOf (lineAt s n) = some c)
    (chan : receivingChan (lineAt s n).chan = true) : ∃ k x, c.document = some k ∧ findDoc s k = some x ∧ x.life = .landing ∧
      x.line = n ∧ (allotment s n).dept = some x.dept := by
  have call : callDoc (lineAt s n) = some c.document := by unfold callDoc; rw [chan, rx]; rfl
  obtain ⟨k, d, e, ⟨b, hb, rfl, life, line, rfl⟩, mine⟩ := (h.line n).1 _ call
  obtain ⟨x, found, rfl⟩ := found_of_book (h.okBut noLine).1 hb
  exact ⟨_, x, e, found, life, line, mine⟩

/-- A line with a receiving call, its document LANDING and its allotment there, closes the books. -/
theorem OkBut.receives {n : LineNo} {k : Nat} {d : Dept} {s : State} {c : RxCall} {chan : Chan} (h : OkBut (atLine n) s)
    (lands : LandsFor (roll s.dir).books n k d) (mine : (allotment s n).dept = some d)
    (call : callState (lineAt s n) = (some c, chan, .none)) (receiving : receivingChan chan = true) (doc : c.document = some k) :
    StoreOk s := by
  obtain ⟨rx, rest⟩ := Prod.mk.inj call
  obtain ⟨hc, reset⟩ := Prod.mk.inj rest
  have now : callDoc (lineAt s n) = some (some k) := by unfold callDoc; rw [hc, receiving, rx, ← doc]; rfl
  refine h.close ⟨fun o ho => ?_, fun ho => ?_, fun ne => absurd reset ne⟩
  · rw [now] at ho; exact ⟨k, d, (Option.some.inj ho).symm, lands, mine⟩
  · rw [now] at ho; cases ho

theorem landsFor_of_found {s : State} {k : Nat} {x : Document} (found : findDoc s k = some x) (life : x.life = .landing) :
    LandsFor (roll s.dir).books x.line k x.dept := ⟨bookOf x, book_of_found found, findDoc_number found, life, rfl, rfl⟩

/-- An operation at another place leaves a LANDING document for its line. -/
theorem Passes.lands {X : Site} {s t : State} (p : Passes X s t) (h : BooksOf s) {n : LineNo} {k : Nat} {d : Dept}
    (apart : ¬ X.line n ∨ ¬ X.doc k) (lands : LandsFor (roll s.dir).books n k d) : LandsFor (roll t.dir).books n k d := by
  obtain ⟨b, hb, number, life, line, dept⟩ := lands
  refine ⟨b, ((p.books h).2 b life (fun w => ?_)).2 hb, number, life, line, dept⟩
  rcases apart with a | a
  · exact a (line ▸ w.1)
  · exact a (number ▸ w.2)

theorem StoreOk.reset_none {s : State} (h : StoreOk s) {n : LineNo} (chan : (lineAt s n).chan ≠ .releasing) :
    (lineAt s n).reset = .none := by
  by_contra ne; exact chan ((h.line n).2.2 ne)

theorem receiving_not_releasing {c : Chan} (h : receivingChan c = true) : c ≠ .releasing := by rintro rfl; cases h

/-! ## The end of a receiving call -/

theorem lineAt_endReceiving {n : LineNo} {e : RxEnd} {rel : Bool} {s : State} {c : RxCall} (rx : rxOf (lineAt s n) = some c) :
    lineAt (endReceiving n e rel s) n = if rel then (lineAt s n).releases s.clock.run .release else lineAt s n := by
  have released : lineAt (if rel = true then releaseWith n .release s else s) n =
      if rel then (lineAt s n).releases s.clock.run .release else lineAt s n := by
    split
    · rw [releaseWith_eq, lineAt_modLine_self]
    · rfl
  unfold endReceiving
  rw [rx]
  dsimp only
  rw [← released]
  generalize (if rel = true then releaseWith n .release s else s) = s₁
  refine lineAt_of_lines ?_ n
  rw [mark_lines]
  cases c.calling <;> cases c.document <;> simp

/-- The end of a receiving call ends its document and gives its allotment back (R91). -/
theorem okBut_endReceiving {s : State} (h : StoreOk s) {n : LineNo} (e : RxEnd) (rel : Bool) (call : inReceiving (lineAt s n) = true) :
    OkBut (atLine n) (endReceiving n e rel s) ∧ (shelf (endReceiving n e rel s).store).allots n = ⟨none, 0⟩ := by
  unfold inReceiving at call
  rw [Bool.and_eq_true] at call
  obtain ⟨c, rx⟩ := Option.isSome_iff_exists.1 call.1
  obtain ⟨k, x, doc, found, life, line, -⟩ := h.receiving rx call.2
  have ok := h.okBut (atLine n)
  unfold endReceiving
  rw [rx]
  dsimp only
  rw [doc]
  have released : Passes (atLine n) s (if rel = true then releaseWith n .release s else s) := by
    split
    · exact passes_releaseWith_atLine n _ s
    · exact .refl _ _
  have found₁ : findDoc (if rel = true then releaseWith n .release s else s) k = some x := by
    split
    · exact found
    · exact found
  generalize (if rel = true then releaseWith n .release s else s) = s₁ at released found₁
  have ended : Passes (atLine n) s₁ (endDocument k e.outcome s₁) := passes_endDocument (fun d hd => by
    rw [found₁] at hd; obtain rfl := Option.some.inj hd; exact ⟨life, line, trivial⟩)
  dsimp only
  generalize endDocument k e.outcome s₁ = s₂ at ended
  have freed := passes_releaseAllotment (X := atLine n) (n := n) (s := s₂) rfl
  have none := allots_releaseAllotment n s₂
  generalize releaseAllotment n s₂ = s₃ at freed none
  have classed : Passes (atLine n) s₃ (match c.calling with
      | some number => handClass number (rxClass c e) s₃
      | .none => s₃) := by
    split
    · exact passes_handClass _ _ _
    · exact .refl _ _
  refine ⟨ok.passes (released.trans (ended.trans (freed.trans (classed.trans (passes_mark _ _))))), ?_⟩
  split
  · exact none
  · exact none

theorem storeOk_endsReleased {s : State} (h : StoreOk s) {n : LineNo} (e : RxEnd) (call : inReceiving (lineAt s n) = true) :
    StoreOk (endReceiving n e true s) := by
  obtain ⟨ok, none⟩ := okBut_endReceiving h e true call
  obtain ⟨c, rx⟩ := Option.isSome_iff_exists.1 ((Bool.and_eq_true _ _).mp call).1
  have line := lineAt_endReceiving (e := e) (rel := true) rx
  rw [if_pos rfl] at line
  exact ok.ends none (by rw [line]; rfl) (.inr (by rw [line]; rfl))

theorem inReceiving_of {l : Line} {c : RxCall} (rx : rxOf l = some c) (chan : receivingChan l.chan = true) : inReceiving l = true := by
  unfold inReceiving; rw [rx, chan]; rfl

theorem inSending_parts {l : Line} (h : inSending l = true) : rxOf l = none ∧ l.chan ≠ .releasing := by
  unfold inSending at h
  rw [Bool.and_eq_true] at h
  obtain ⟨t, tx⟩ := Option.isSome_iff_exists.1 h.1
  exact ⟨rxOf_of_tx tx, fun e => by rw [e] at h; cases h.2⟩

theorem storeOk_lineLost {s : State} (h : StoreOk s) (n : LineNo) : StoreOk (lineLost n s) := by
  unfold lineLost
  split
  · rename_i call; exact storeOk_endsReleased h .lost call
  · split
    · rename_i call
      obtain ⟨rx, chan⟩ := inSending_parts call
      exact h.passes ((sender_endAttempt n _ _ _ s).passes rx chan)
    · exact h

theorem okBut_endByFault {s : State} (h : StoreOk s) (n : LineNo) (e : RxEnd) :
    OkBut (atLine n) (endByFault n e s) ∧ (shelf (endByFault n e s).store).allots n = ⟨none, 0⟩ := by
  unfold endByFault
  split
  · rename_i call; exact okBut_endReceiving h e false call
  · rename_i call
    have none : (shelf s.store).allots n = ⟨none, 0⟩ := (h.line n).2.1 ((callDoc_none_iff _).2 (Bool.eq_false_iff.2 call))
    split
    · rename_i call
      obtain ⟨rx, chan⟩ := inSending_parts call
      have step := sender_endAttempt n .lineLost .fault false s
      exact ⟨(h.okBut _).passes (step.passes rx chan), by rw [step.store]; exact none⟩
    · split
      · exact ⟨(h.okBut _).passes (passes_mark _ _), none⟩
      · exact ⟨h.okBut _, none⟩

theorem storeOk_enterFault {s : State} (h : StoreOk s) (n : LineNo) (cause : FaultCause) : StoreOk (enterFault n cause s) := by
  obtain ⟨ok, none⟩ := okBut_endByFault h n .fault
  unfold enterFault
  dsimp only
  refine StoreOk.passes (OkBut.ends (ok.passes (passes_modLine _ _)) none ?_ ?_) ((passes_mark _ _).trans (passes_reportRun n _))
  · rw [lineAt_modLine_self]; rfl
  · rw [lineAt_modLine_self]; exact .inl rfl

theorem storeOk_resetLine {s : State} (h : StoreOk s) (tag : Byte) (line : Nat) : StoreOk (resetLine tag line s) := by
  unfold resetLine
  split
  · exact h.passes (passes_respond ..)
  · rename_i n _
    split
    · exact h.passes (passes_respond ..)
    · obtain ⟨ok, none⟩ := okBut_endByFault h n .lineReset
      refine StoreOk.passes ?_ (passes_respond ..)
      unfold beginReset
      dsimp only
      generalize endByFault n .lineReset s = s₁ at ok none
      have begun (f : Line → Line) (hf : (f (lineAt s₁ n)).chan = .releasing) : StoreOk (modLine n f s₁) := by
        refine OkBut.ends (ok.passes (passes_modLine _ _)) none ?_ ?_
        · rw [lineAt_modLine_self, hf]; rfl
        · rw [lineAt_modLine_self]; exact .inr hf
      split
      · exact StoreOk.passes (begun _ rfl) ((passes_sendCmd n _ _).trans (passes_report n _))
      · exact StoreOk.passes (begun _ rfl) ((passes_sendCmd n _ _).trans ((passes_mark _ _).trans (passes_reportRun n _)))

/-! ## Admission -/

theorem passes_refuseCall {X : Site} {n : LineNo} {c : RxCall} {reason : Option RefusedReason} {s : State}
    (call : callDoc (lineAt s n) = none) : Passes X s (refuseCall n c reason s) := by
  have routed : Passes X s (modRx n (fun r => { r with route := none }) s) := passes_modRx n _ s (fun _ => rfl)
  have still : callDoc (lineAt (modRx n (fun r => { r with route := none }) s) n) = none := by
    unfold callDoc at *
    rw [(chan_modRx n _ s).1, rxOf_modRx, Option.map_map]; exact call
  unfold refuseCall
  refine routed.trans ((passes_releaseWith (c := .reject) still).trans ?_)
  refine (passes_modStats n (fun st => { st with refused := satSucc counterTop st.refused }) _).trans ((passes_mark (.line n) _).trans ?_)
  dsimp only
  split
  · exact .refl _ _
  · exact passes_append _ _

theorem passes_sendOffer {X : Site} (n : LineNo) (c : RxCall) (s : State) : Passes X s (sendOffer n c s) := by
  unfold sendOffer
  have offered (t : State) (f : RxCall → RxCall) (cmd : PortCommand) (h : ∀ c, (f c).document = c.document) :
      Passes X t (sendCmd n cmd (modRx n f t)) := (passes_modRx n f t h).trans (passes_sendCmd n cmd _)
  cases c.calling with
  | none => exact offered s _ _ (by intro; rfl)
  | some number =>
    dsimp only
    refine Passes.trans ?_ (offered _ _ _ (by intro; rfl))
    unfold lookupCaller; split
    · exact .refl _ _
    · exact .same rfl rfl rfl rfl

/-- An answered call has its LANDING document and the allotment of its department (R81). -/
theorem storeOk_answered {n : LineNo} {number : Nat} {d : Dept} {s : State} {r : RxCall} (c : RxCall) (ok : OkBut (atLine n) s)
    (lands : LandsFor (roll s.dir).books n number d) (mine : (allotment s n).dept = some d)
    (call : callState (lineAt s n) = (some r, .alerted, .none)) :
    StoreOk (startWait n .receiverSignal signalWaitMs (sendOffer n c (setChan n .negotiating
      (modStats n (fun st => { st with answered := satSucc counterTop st.answered })
        (sendCmd n .answer (modRx n (fun r => { r with document := some number }) s)))))) := by
  refine StoreOk.passes ?_ ((passes_sendOffer n c _).trans (passes_startWait n _ _ _))
  have documented : Passes (atLine n) s (modRx n (fun r => { r with document := some number }) s) := passes_modLine _ s
  have ok₁ := ok.passes (documented.trans ((passes_sendCmd n .answer _).trans ((passes_modStats n (fun st => { st with
    answered := satSucc counterTop st.answered }) _).trans (passes_modLine (fun l => { l with chan := .negotiating }) _))))
  refine ok₁.receives (c := { r with document := some number }) (chan := .negotiating) lands mine ?_ rfl rfl
  rw [callState_setChan, callState_modStats, callState_sendCmd, callState_modRx, call]
  rfl

/-- A call refused for want of blocks leaves the books as they were: its record goes, and no allotment was made (R81). -/
theorem storeOk_unreserved {n : LineNo} {number : Nat} {b : Book} {s : State} (ok : OkBut (atLine n) s)
    (book : b ∈ (roll s.dir).books) (same : b.number = number) (empty : b.held = []) (life : b.life = .landing) (line : b.line = n)
    (unheld : allotment s n = ⟨none, 0⟩) (chan : receivingChan (lineAt s n).chan = false) (reset : (lineAt s n).reset = .none) :
    StoreOk (dropDoc number s) := by
  obtain ⟨d, found, rfl⟩ := found_of_book ok.1 book
  subst same
  have life' : d.life = .landing := life
  have dropped := passes_dropDoc (X := atLine n) found empty (by rw [life']; simp) (.inr ⟨line, trivial⟩)
  exact (ok.passes dropped).ends unheld chan (.inl reset)

/-- An ALERTED call that comes to admission keeps the books (R80, R81). -/
theorem storeOk_admission {s : State} (h : StoreOk s) (isOpen : opened s.part = true) {n : LineNo} (alerted : (lineAt s n).chan = .alerted) :
    StoreOk (admission n s) := by
  unfold admission
  split
  · exact h
  · rename_i c rx
    dsimp only
    generalize lookupRoute s.routes (calledString c.digits (lineAt s n).defaultKey) = route
    have ok₀ : StoreOk (modRx n (fun r => { r with route := some route }) s) := h.passes (passes_modRx n _ s (fun _ => rfl))
    have call₀ : callState (lineAt (modRx n (fun r => { r with route := some route }) s) n) =
        (some { c with route := some route }, .alerted, .none) := by
      rw [callState_modRx]; unfold callState
      rw [rx, alerted, h.reset_none (by rw [alerted]; simp)]; rfl
    have open₀ : opened (modRx n (fun r => { r with route := some route }) s).part = true := isOpen
    generalize modRx n (fun r => { r with route := some route }) s = s₀ at ok₀ call₀ open₀
    have quiet {t : State} (ht : callState (lineAt t n) = callState (lineAt s₀ n)) : callDoc (lineAt t n) = none := by
      rw [call₀] at ht
      have : (lineAt t n).chan = .alerted := congrArg (fun x => x.2.1) ht
      unfold callDoc; rw [this]; rfl
    split
    · exact ok₀.passes (passes_refuseCall (quiet rfl))
    · cases slot : takeSlot s₀ with
      | none => exact ok₀.passes (passes_refuseCall (quiet rfl))
      | some p =>
        obtain ⟨s₁, number⟩ := p
        dsimp only
        have same₁ : s₁.lines = s₀.lines := takeSlot_lines s₀ _ slot
        have new : (newDocument number route n c.digits c.calling s₁.clock.cal).life = .landing := rfl
        have joined := passes_newDoc (X := atLine n) (x := newDocument number route n c.digits c.calling s₁.clock.cal) (ok₀.okBut noLine).1
          open₀ slot rfl rfl rfl new ⟨rfl, trivial⟩
        have ok₂ := (ok₀.okBut (atLine n)).passes joined
        have found₂ := found_newDoc ok₂.1 (number := number) rfl
        have idle₂ : allotment (addDoc (newDocument number route n c.digits c.calling s₁.clock.cal) s₁) n = ⟨none, 0⟩ := by
          have idle := (ok₀.line n).2.1 (quiet rfl)
          have allots := (passes_newDoc (X := atDoc n number) (x := newDocument number route n c.digits c.calling s₁.clock.cal)
            (ok₀.okBut noLine).1 open₀ slot rfl rfl rfl new ⟨rfl, rfl⟩).allots n (fun k => k)
          exact allots.trans idle
        have line₂ : (addDoc (newDocument number route n c.digits c.calling s₁.clock.cal) s₁).lines = s₀.lines := same₁
        have lands₂ := landsFor_of_found found₂ new
        generalize addDoc (newDocument number route n c.digits c.calling s₁.clock.cal) s₁ = s₂ at ok₂ found₂ idle₂ line₂ lands₂
        have made := passes_reserve (X := atAllotment n) (k := s₂.policy.landingAllotment) ok₂.1 (d := route.dept) (.inr idle₂) rfl
        have lands₃ := made.lands ok₂.1 (.inr id) lands₂
        have ok₃ := ok₂.passes made.allotted
        obtain ⟨mine, unheld⟩ := allotment_reserve n route.dept s₂.policy.landingAllotment s₂
        have line₃ : (reserve n route.dept s₂.policy.landingAllotment s₂).1.lines = s₀.lines := by rw [reserve_lines, line₂]
        have book₃ := ((made.books ok₂.1).2 _ new (fun w => w.2)).2 (book_of_found found₂)
        generalize reserve n route.dept s₂.policy.landingAllotment s₂ = p at *
        obtain ⟨s₃, granted⟩ := p
        have call₃ : callState (lineAt s₃ n) = callState (lineAt s₀ n) := by rw [lineAt_of_lines line₃]
        cases granted with
        | false =>
          have chan₃ : (lineAt s₃ n).chan = .alerted := congrArg (fun x => x.2.1) (call₃.trans call₀)
          have dropped := storeOk_unreserved ok₃ book₃ rfl rfl rfl rfl ((unheld rfl).trans idle₂) (by rw [chan₃]; rfl)
            (congrArg (fun x => x.2.2) (call₃.trans call₀))
          exact dropped.passes (passes_refuseCall (quiet call₃))
        | true => exact storeOk_answered c ok₃ lands₃ (mine rfl) (call₃.trans call₀)

theorem storeOk_testAdmission {s : State} (h : StoreOk s) (isOpen : opened s.part = true) (n : LineNo) : StoreOk (testAdmission n s) := by
  unfold testAdmission
  split
  · exact h
  · split
    · rename_i ready; exact storeOk_admission h isOpen ready.1
    · exact h

end Sys2Proof.Machine
end

section
/-! Pages of a receiving call arrive, are judged and acknowledged with the store's books kept. -/

namespace Sys2Proof.Machine

open Sys2Proof

/-! ## Page data -/

/-- A PAGE-DATA's bytes reach the landing page with the books kept (R85). -/
theorem storeOk_receiveData {s : State} (h : StoreOk s) {n : LineNo} {c : RxCall} {k : Nat} {d : Document} (rx : rxOf (lineAt s n) = some c)
    (chan : receivingChan (lineAt s n).chan = true) (doc : c.document = some k) (found : findDoc s k = some d) (bytes : List Byte) :
    StoreOk (receiveData n k d c bytes s) := by
  obtain ⟨k', x, doc', found', life, line, mine⟩ := h.receiving rx chan
  obtain rfl : k' = k := Option.some.inj (doc'.symm.trans doc)
  obtain rfl : x = d := Option.some.inj (found'.symm.trans found)
  have ok := h.okBut (atLine n)
  unfold receiveData
  split
  · exact h
  · have filling : Filling s n k' x.dept [] s :=
      ⟨by rw [Roll.give_nil]; exact ok.1, rfl, rfl, fun _ _ => rfl, mine, fun _ _ => Iff.rfl, List.Sublist.refl _⟩
    obtain ⟨drawn, blocks, f⟩ := filling.fill (d := x.dept) (book_of_found found) (findDoc_number found) rfl life (bytes.length / blockBytes + 2) bytes
      (x.landing.getD (startLanding x c)) [] s
    rw [List.nil_append] at f
    generalize fillPage (bytes.length / blockBytes + 2) n x.dept bytes (x.landing.getD (startLanding x c)) s = p at blocks f
    obtain ⟨⟨l, cause⟩, s₁⟩ := p
    dsimp only at blocks f ⊢
    have still (e : Document) (he : e ∈ s₁.dir.docs) (hn : e.number = k') : e = x := ok.1.only found (f.docs.subset he) hn
    have filled : roll (modDoc k' (fun e => { e with landing := some l }) s₁).dir = (roll s₁.dir).give k' drawn := by
      refine roll_modDoc k' _ (Book.give drawn) s₁ (fun e he hn => ?_)
      rw [still e he hn]
      have held : heldBlocks { x with landing := some l } = heldBlocks x ++ drawn := by
        cases hx : x.landing with
        | none =>
          rw [hx] at blocks
          simp only [heldBlocks, docBlocks, hx, Option.elim]
          rw [blocks]; simp [startLanding]
        | some l₀ =>
          rw [hx] at blocks
          simp only [heldBlocks, docBlocks, hx, Option.elim]
          rw [blocks]; simp
      simp only [bookOf, Book.give, held, life]; simp
    have books : BooksOf (modDoc k' (fun e => { e with landing := some l }) s₁) := by
      unfold BooksOf
      rw [filled, show opened (modDoc k' (fun e => { e with landing := some l }) s₁).part = opened s.part by rw [modDoc_part, f.part]]
      exact f.books
    have apart (b : Book) (hb : b.number ≠ k') (hl : b.life = .landing) :
        b ∈ (roll (modDoc k' (fun e => { e with landing := some l }) s₁).dir).books ↔ b ∈ (roll s.dir).books := by
      rw [filled, Roll.mem_give hb, f.landings b hl]
    have ok₂ : OkBut (atLine n) (modDoc k' (fun e => { e with landing := some l }) s₁) := by
      refine ⟨books, fun m hm => ?_⟩
      obtain ⟨calls, idle, reset⟩ := ok.2 m hm
      rw [show lineAt (modDoc k' (fun e => { e with landing := some l }) s₁) m = lineAt s m from lineAt_of_lines f.lines m]
      refine ⟨fun o ho => ?_, fun ho => ?_, reset⟩
      · obtain ⟨j, e, oj, ⟨b, hb, bn, bl, bline, bd⟩, a⟩ := calls o ho
        refine ⟨j, e, oj, ⟨b, (apart b (fun e' => hm ?_) bl).2 hb, bn, bl, bline, bd⟩, (congrArg Allotment.dept (f.others m hm)).trans a⟩
        have : b = bookOf x := ok.1.unique hb (book_of_found found) (e'.trans (findDoc_number found).symm)
        rw [← bline, this]; exact line
      · exact (f.others m hm).trans (idle ho)
    have lands : LandsFor (roll (modDoc k' (fun e => { e with landing := some l }) s₁).dir).books n k' x.dept := by
      rw [filled]
      have mem := (f.landings _ life).2 (book_of_found found)
      have given : (if (bookOf x).number = k' then (bookOf x).give drawn else bookOf x) ∈ ((roll s₁.dir).give k' drawn).books :=
        List.mem_map_of_mem mem
      rw [if_pos (show (bookOf x).number = k' from findDoc_number found)] at given
      exact ⟨_, given, findDoc_number found, life, line, rfl⟩
    have call : callState (lineAt (modDoc k' (fun e => { e with landing := some l }) s₁) n) = (some c, (lineAt s n).chan, .none) := by
      rw [lineAt_of_lines (t := modDoc k' (fun e => { e with landing := some l }) s₁) f.lines n]
      unfold callState
      rw [rx, h.reset_none (receiving_not_releasing chan)]
    have ok₃ := ok₂.receives lands f.mine call chan doc
    split
    · exact ok₃
    · exact ok₃.passes (passes_modRx n _ _ (fun _ => rfl))

/-! ## Verdicts -/

/-- A verdict is given in a receiving call (R87, R88). -/
theorem storeOk_giveVerdict {n : LineNo} {k : Nat} {d : Dept} {s : State} {c : RxCall} {chan : Chan} (v : Verdict) (ok : OkBut (atLine n) s)
    (lands : LandsFor (roll s.dir).books n k d) (mine : (allotment s n).dept = some d)
    (call : callState (lineAt s n) = (some c, chan, .none)) (doc : c.document = some k) : StoreOk (giveVerdict n v s) := by
  unfold giveVerdict
  refine StoreOk.passes ?_ (passes_setWait n none _)
  have given : Passes (atLine n) s (setChan n .verdict (sendCmd n (.sendVerdict v) s)) :=
    (passes_sendCmd n (.sendVerdict v) s).trans (passes_modLine _ _)
  refine (ok.passes given).receives (c := c) (chan := .verdict) lands mine ?_ rfl doc
  rw [callState_setChan, callState_sendCmd, call]

/-- An accepted page joins its document, whose blocks stay its own (R87). -/
theorem rewrites_acceptLanding {n : LineNo} {k : Nat} {d : Document} {l : Landing} {s : State} (found : findDoc s k = some d)
    (line : d.line = n) (landing : d.landing = some l) (v : Verdict) (total bad : Nat) :
    Rewrites (atDoc n k) k d (fun d => { d with pages := d.pages ++ [pageRecord l v total bad], landing := none, crc := l.crc }) [] s
      (acceptLanding k l v total bad s) := by
  have number : d.number = k := findDoc_number found
  refine ⟨found, ?_, ?_, ?_, ?_, ?_, fun _ => rfl, rfl, ?_, fun _ => by simp [bookOf], .inr ⟨line, number⟩,
    .inr ⟨line, number⟩, fun nodup hn => ?_⟩
  · unfold acceptLanding; rw [modDoc_part, closeGroup_frame]
  · unfold acceptLanding; rw [modDoc_lines, closeGroup_frame]
  · unfold acceptLanding modDoc; dsimp only; rw [closeGroup_frame]
  · unfold acceptLanding; rw [modDoc_dir_nextNumber, closeGroup_frame]
  · unfold acceptLanding; rw [modDoc_store, closeGroup_frame]; exact .nothing _ _
  · simp [heldBlocks, docBlocks, landing, pageRecord]
  · have same : (acceptLanding k l v total bad s).dir.reclaim = s.dir.reclaim := by
      unfold acceptLanding; rw [modDoc_dir_reclaim, closeGroup_frame]
    rw [same]
    refine ⟨nodup, fun m => ?_⟩
    by_cases hm : m = k
    · rw [if_pos hm, hm, hn]
    · rw [if_neg hm]

/-- A page is judged with the books kept (R86 to R88). -/
theorem storeOk_judgePage {s : State} (h : StoreOk s) {n : LineNo} {c : RxCall} {k : Nat} {d : Document} (rx : rxOf (lineAt s n) = some c)
    (chan : receivingChan (lineAt s n).chan = true) (doc : c.document = some k) (found : findDoc s k = some d) (total bad : Nat)
    (last : Bool) : StoreOk (judgePage n k d c total bad last s) := by
  obtain ⟨k', x, doc', found', life, line, mine⟩ := h.receiving rx chan
  obtain rfl : k' = k := Option.some.inj (doc'.symm.trans doc)
  obtain rfl : x = d := Option.some.inj (found'.symm.trans found)
  subst line
  have ok := h.okBut (atLine x.line)
  have call : callState (lineAt s x.line) = (some c, (lineAt s x.line).chan, .none) := by
    unfold callState; rw [rx, h.reset_none (receiving_not_releasing chan)]
  unfold judgePage
  split
  · have freed := passes_freeLanding (X := atDoc x.line k') (n := k') (s := s) (fun e he => by
      rw [found] at he; obtain rfl := Option.some.inj he; exact ⟨rfl, findDoc_number found⟩)
    have ok₁ := ok.passes freed.line
    have lands := landsFor_of_found (findDoc_freeLanding found) life
    have mine₁ : (allotment (freeLanding k' s) x.line).dept = some x.dept :=
      (congrArg Allotment.dept (freed.allots x.line (fun k => k))).trans mine
    have call₁ : callState (lineAt (freeLanding k' s) x.line) = (some c, (lineAt s x.line).chan, .none) := by
      rw [lineAt_of_lines (freeLanding_lines k' s), call]
    unfold rejectPage
    dsimp only
    generalize freeLanding k' s = s₁ at ok₁ lands mine₁ call₁
    have counted (f : RxCall → RxCall) (hf : ∀ r, (f r).document = r.document) (g : LineStats → LineStats) :
        StoreOk (giveVerdict x.line .reject (modStats x.line g (modRx x.line f s₁))) := by
      refine storeOk_giveVerdict (c := f c) (chan := (lineAt s x.line).chan) .reject
        (ok₁.passes ((passes_modRx x.line f s₁ hf).trans (passes_modStats x.line g _))) lands mine₁ ?_ ((hf c).trans doc)
      rw [callState_modStats, callState_modRx, call₁]; rfl
    exact counted _ (by intro; rfl) _
  · rename_i v cause l notReject judged landing
    have step := rewrites_acceptLanding found rfl landing v total bad
    have ok₁ := ok.passes step.passes.line
    have lands := landsFor_of_found step.now life
    have mine₁ : (allotment (acceptLanding k' l v total bad s) x.line).dept = some x.dept :=
      (congrArg Allotment.dept (step.passes.allots x.line (fun k => k))).trans mine
    have call₁ : callState (lineAt (acceptLanding k' l v total bad s) x.line) = (some c, (lineAt s x.line).chan, .none) := by
      rw [lineAt_of_lines step.lines, call]
    unfold acceptPage
    dsimp only
    generalize acceptLanding k' l v total bad s = s₁ at ok₁ lands mine₁ call₁
    have counted (f : RxCall → RxCall) (hf : ∀ r, (f r).document = r.document) (g : LineStats → LineStats) :
        StoreOk (giveVerdict x.line v (topUp x.line x.dept (modStats x.line g (modRx x.line f s₁)))) := by
      have noted := (passes_modRx (X := atLine x.line) x.line f s₁ hf).trans (passes_modStats x.line g _)
      have ok₂ := ok₁.passes noted
      have call₂ : callState (lineAt (modStats x.line g (modRx x.line f s₁)) x.line) = (some (f c), (lineAt s x.line).chan, .none) := by
        rw [callState_modStats, callState_modRx, call₁]; rfl
      have lands₂ : LandsFor (roll (modStats x.line g (modRx x.line f s₁)).dir).books x.line k' x.dept := lands
      have mine₂ : (allotment (modStats x.line g (modRx x.line f s₁)) x.line).dept = some x.dept := mine₁
      generalize modStats x.line g (modRx x.line f s₁) = s₂ at ok₂ call₂ lands₂ mine₂
      have topped := passes_topUp (X := atAllotment x.line) (d := x.dept) ok₂.1 (.inl mine₂) rfl
      refine storeOk_giveVerdict (c := f c) (chan := (lineAt s x.line).chan) v (ok₂.passes topped.allotted)
        (topped.lands ok₂.1 (.inr id) lands₂) ?_ ?_ ((hf c).trans doc)
      · unfold topUp
        dsimp only
        split
        · obtain ⟨yes, no⟩ := allotment_reserve x.line x.dept (s₂.policy.landingAllotment - (allotment s₂ x.line).count) s₂
          cases made : (reserve x.line x.dept (s₂.policy.landingAllotment - (allotment s₂ x.line).count) s₂).2 with
          | true => exact yes made
          | false => rw [no made]; exact mine₂
        · exact mine₂
      · rw [lineAt_of_lines (topUp_lines x.line x.dept s₂), call₂]
    exact counted _ (by intro; rfl) _
  · exact h

/-! ## What follows a verdict -/

/-- The channel waits for the next page (R87, R88). -/
theorem passes_awaitPage {X : Site} {n : LineNo} {s : State} (chan : receivingChan (lineAt s n).chan = true) :
    Passes X s (awaitPage n s) :=
  (passes_setChan (c := .receiving) (.inl chan.symm) (receiving_not_releasing chan)).trans (passes_startWait n _ _ _)

/-- A document of 500 pages is continued in a new one of the same call (R47, R48). -/
theorem storeOk_pageLimit {s : State} (h : StoreOk s) (isOpen : opened s.part = true) {n : LineNo} {c : RxCall} {k : Nat}
    (rx : rxOf (lineAt s n) = some c) (chan : receivingChan (lineAt s n).chan = true) (doc : c.document = some k) :
    StoreOk (pageLimit n k s) := by
  obtain ⟨k', x, doc', found, life, line, mine⟩ := h.receiving rx chan
  obtain rfl : k' = k := Option.some.inj (doc'.symm.trans doc)
  have ok := h.okBut (atLine n)
  have receiving := inReceiving_of rx chan
  unfold pageLimit
  split
  · exact storeOk_endsReleased h _ receiving
  · cases cont : continueDoc k' s with
    | none => exact storeOk_endsReleased h _ receiving
    | some p =>
      obtain ⟨s₄, b⟩ := p
      dsimp only
      have lines : s₄.lines = s.lines := continueDoc_lines k' s _ cont
      unfold continueDoc at cont
      rw [found] at cont
      dsimp only at cont
      cases slot : takeSlot s with
      | none => rw [slot] at cont; cases cont
      | some q =>
        obtain ⟨s₁, number⟩ := q
        rw [slot] at cont
        dsimp only [Option.map_some] at cont
        obtain ⟨e₄, rfl⟩ := Prod.mk.inj (Option.some.inj cont)
        generalize hy : ({ newDocument number ⟨x.dept, x.routeKey, x.plan, x.priority⟩ x.line x.called x.calling x.answerTime with
          remoteId := x.remoteId, continuationOf := some k' } : Document) = y at e₄
        have facts : y.number = number ∧ y.pages = [] ∧ y.landing = none ∧ y.life = .landing ∧ y.line = n ∧ y.dept = x.dept := by
          rw [← hy]; exact ⟨rfl, rfl, rfl, rfl, line, rfl⟩
        obtain ⟨yn, yp, yl, ylife, yline, yd⟩ := facts
        have joined := passes_newDoc (X := atDoc n number) ok.1 isOpen slot yn yp yl ylife ⟨yline, yn⟩
        have ok₁ := ok.passes joined.line
        have new := landsFor_of_found (found_newDoc ok₁.1 yn) ylife
        have old := findDoc_newDoc (x := y) slot k' x found (fun p m cand e => by
          subst e
          have := ok.1.candidate cand found
          rw [life] at this; cases this)
        have mine₁ : (allotment (addDoc y s₁) n).dept = some x.dept :=
          (congrArg Allotment.dept (joined.allots n (fun k => k))).trans mine
        have ne : number ≠ k' := by
          have next := (takeSlot_some slot).1
          have below := ok.1.below _ (book_of_found found)
          have : (bookOf x).number = k' := findDoc_number found
          have : (roll s.dir).next = s.dir.nextNumber := rfl
          omega
        have noted := passes_modDoc (X := atDoc n k') (n := k') (f := fun e => { e with continuedBy := some number }) (addDoc y s₁)
          (fun _ => rfl)
        have old₂ := findDoc_modDoc_self (f := fun e : Document => { e with continuedBy := some number }) old (fun _ => rfl)
        have landed := passes_landDocument (X := atDoc n k') (o := .continued) (n := k')
          (s := modDoc k' (fun e => { e with continuedBy := some number }) (addDoc y s₁)) (fun e he => by
            rw [old₂] at he; obtain rfl := Option.some.inj he; exact ⟨life, line, findDoc_number found⟩)
        have both := noted.trans landed
        rw [← e₄]
        rw [← e₄] at lines
        have ok₂ := ok₁.passes both.line
        have lands₂ := both.lands ok₁.1 (.inr ne) (yline ▸ yd ▸ new)
        have mine₂ := (congrArg Allotment.dept (both.allots n (fun k => k))).trans mine₁
        generalize landDocument k' .continued (modDoc k' (fun e => { e with continuedBy := some number }) (addDoc y s₁)) = s₃
          at ok₂ lands₂ mine₂ lines
        have documented : Passes (atLine n) s₃ (modRx n (fun c => { c with document := some number }) s₃) := passes_modLine _ s₃
        have call : callState (lineAt (modRx n (fun c => { c with document := some number }) s₃) n) =
            (some { c with document := some number }, (lineAt s n).chan, .none) := by
          rw [callState_modRx, lineAt_of_lines lines]
          unfold callState
          rw [rx, h.reset_none (receiving_not_releasing chan)]; rfl
        have ok₃ := (ok₂.passes documented).receives lands₂ mine₂ call chan rfl
        refine ok₃.passes (passes_awaitPage ?_)
        rw [(chan_modRx n _ s₃).1, lineAt_of_lines lines]; exact chan

/-- What follows the acknowledgment of a verdict keeps the books (R87, R88). -/
theorem storeOk_afterVerdict {s : State} (h : StoreOk s) (isOpen : opened s.part = true) {n : LineNo} {c : RxCall}
    (rx : rxOf (lineAt s n) = some c) (chan : receivingChan (lineAt s n).chan = true) : StoreOk (afterVerdict n c s) := by
  have receiving := inReceiving_of rx chan
  have ends (e : RxEnd) : StoreOk (endReceiving n e true s) := storeOk_endsReleased h e receiving
  have awaits : StoreOk (awaitPage n s) := h.passes (passes_awaitPage chan)
  unfold afterVerdict
  split
  · split
    · exact ends _
    · split
      · exact ends _
      · exact awaits
  · split
    · exact ends _
    · split
      · rename_i k doc
        split
        · exact storeOk_pageLimit h isOpen rx chan doc
        · exact awaits
      · exact awaits

/-! ## Choices and training -/

theorem passes_countRxFail {X : Site} (n : LineNo) (s : State) : Passes X s (countRxFail n s) :=
  (passes_modRx n (fun c => { c with trainFails := c.trainFails + 1 }) s (fun _ => rfl)).trans (passes_modStats n _ _)

/-- A failed training of a receiving call keeps the books (R83, R84). -/
theorem storeOk_failTraining {s : State} (h : StoreOk s) {n : LineNo} {c : RxCall} {back : Chan} (rx : rxOf (lineAt s n) = some c)
    (chan : receivingChan (lineAt s n).chan = true) (next : receivingChan back = true) (r : RxCall) :
    StoreOk (failTraining n back r s) := by
  have counted := (passes_sendCmd (X := noLine) n (.trainingReply false) s).trans (passes_countRxFail n _)
  have ok₁ := h.passes counted
  have call₁ : callState (lineAt (countRxFail n (sendCmd n (.trainingReply false) s)) n) =
      (some { c with trainFails := c.trainFails + 1 }, (lineAt s n).chan, (lineAt s n).reset) := by
    unfold countRxFail
    rw [callState_modStats, callState_modRx, callState_sendCmd]; unfold callState; rw [rx]; rfl
  have rx₁ := congrArg Prod.fst call₁
  have chan₁ : (lineAt (countRxFail n (sendCmd n (.trainingReply false) s)) n).chan = (lineAt s n).chan :=
    congrArg (fun x => x.2.1) call₁
  unfold failTraining
  dsimp only
  generalize countRxFail n (sendCmd n (.trainingReply false) s) = s₁ at ok₁ rx₁ chan₁
  split
  · exact storeOk_endsReleased ok₁ _ (inReceiving_of rx₁ (by rw [chan₁]; exact chan))
  · exact ok₁.passes ((passes_setChan (.inl (by rw [chan₁, next, chan])) (by rw [chan₁]; exact receiving_not_releasing chan)).trans
      (passes_startWait n _ _ _))

theorem passes_noteIdentity {X : Site} (c : RxCall) (identity : Text) (s : State) : Passes X s (noteIdentity c identity s) := by
  unfold noteIdentity
  split
  · exact passes_modDoc s (fun _ => rfl)
  · exact .refl _ _

theorem noteIdentity_lines (c : RxCall) (identity : Text) (s : State) : (noteIdentity c identity s).lines = s.lines := by
  unfold noteIdentity; split <;> rfl

/-- A REMOTE-CHOICE keeps the books (R83). -/
theorem storeOk_remoteChoice {s : State} (h : StoreOk s) {n : LineNo} {c : RxCall} (rx : rxOf (lineAt s n) = some c)
    (chan : receivingChan (lineAt s n).chan = true) (step : Nat) (res : Resolution) (identity : Text) :
    StoreOk (if validChoice c step res then
      startWait n .receiverSignal signalWaitMs (setChan n .training (sendCmd n (.train step)
        (modRx n (fun r => { r with step := some step, resolution := some res, fromReceiving := (lineAt s n).chan == .receiving })
          (noteIdentity c identity s))))
    else failTraining n (lineAt s n).chan c (noteIdentity c identity s)) := by
  have ok₁ := h.passes (passes_noteIdentity (X := noLine) c identity s)
  have line₁ := lineAt_of_lines (noteIdentity_lines c identity s) n
  generalize noteIdentity c identity s = s₁ at ok₁ line₁
  split
  · have noted (f : RxCall → RxCall) (hf : ∀ r, (f r).document = r.document) :
        StoreOk (setChan n .training (sendCmd n (.train step) (modRx n f s₁))) := by
      have chan₂ : (lineAt (sendCmd n (.train step) (modRx n f s₁)) n).chan = (lineAt s n).chan := by
        have := congrArg (fun x => x.2.1) ((callState_sendCmd n (.train step) (modRx n f s₁)).trans (callState_modRx n f s₁))
        exact this.trans (by rw [line₁]; rfl)
      refine ok₁.passes ((passes_modRx n f s₁ hf).trans ((passes_sendCmd n _ _).trans (passes_setChan (.inl ?_) ?_)))
      · rw [chan₂, chan]; rfl
      · rw [chan₂]; exact receiving_not_releasing chan
    exact (noted _ (by intro; rfl)).passes (passes_startWait n _ _ _)
  · exact storeOk_failTraining ok₁ (line₁ ▸ rx) (line₁ ▸ chan) chan c

/-- TRAINING-DONE in the receiver role keeps the books (R84). -/
theorem storeOk_rxTrained {s : State} (h : StoreOk s) {n : LineNo} {c : RxCall} (rx : rxOf (lineAt s n) = some c)
    (chan : receivingChan (lineAt s n).chan = true) (step : Nat) (pass : Bool) : StoreOk (rxTrained n c step pass s) := by
  unfold rxTrained
  split
  · refine (h.passes (passes_sendCmd n (.trainingReply true) s)).passes (passes_awaitPage ?_)
    rw [show (lineAt (sendCmd n (.trainingReply true) s) n).chan = (lineAt s n).chan from
      congrArg (fun x => x.2.1) (callState_sendCmd n (.trainingReply true) s)]
    exact chan
  · exact storeOk_failTraining h rx chan (by split <;> rfl) c

end Sys2Proof.Machine
end

section
/-! The requests of the host keep the store's books. -/

namespace Sys2Proof.Machine

open Sys2Proof

/-- A document that is not LANDING is not made so. -/
theorem Passes.not_landing {s t : State} (p : Passes noLine s t) (h : BooksOf s) {n : Nat}
    (life : ∀ d, findDoc s n = some d → d.life ≠ .landing) : ∀ d, findDoc t n = some d → d.life ≠ .landing := by
  intro e he landing
  have mem := ((p.books h).2 (bookOf e) landing (fun w => w.1)).1 (book_of_found he)
  obtain ⟨d, found, same⟩ := found_of_book h mem
  rw [show (bookOf e).number = n from findDoc_number he] at found
  exact life d found ((congrArg Book.life same).trans landing)

/-- A request keeps the law when its owner does, in phase READY but for Read Status (R210). -/
theorem storeOk_takeRequest {s : State} (h : StoreOk s) {r : Envelope} {k : ReqKind} {own : State → State}
    (owns : ∀ t, StoreOk t → (k ≠ .readStatus → isReady t = true) → StoreOk (own t)) : StoreOk (takeRequest r k own s) := by
  have taken : StoreOk (takeFrame r.tag s) := h.passes (.same rfl rfl rfl rfl)
  unfold takeRequest
  split
  · rename_i takes
    dsimp only
    split
    · exact taken.passes (passes_respond ..)
    · split
      · exact taken.passes (passes_respond ..)
      · rename_i late
        refine owns _ taken (fun hk => ?_)
        unfold takesRequests at takes
        simp only [Bool.and_eq_true, Bool.or_eq_true, beq_iff_eq] at takes
        have : s.part.phase ≠ some .starting := fun e => late ⟨e, hk⟩
        show (s.part.phase == some .ready) = true
        rw [takes.1.1.resolve_left this]; rfl
  · exact h

/-- A request whose owner the books do not see. -/
theorem storeOk_request {s : State} (h : StoreOk s) {r : Envelope} {k : ReqKind} {own : State → State}
    (owns : ∀ t, Passes noLine t (own t)) : StoreOk (takeRequest r k own s) :=
  storeOk_takeRequest h (fun t ht _ => ht.passes (owns t))

/-! ## Departments and routes -/

theorem passes_accountChanged {X : Site} {d : Dept} {a : Account} {s : State} (used : a.used = (acct s d).used)
    (resv : a.resv = (acct s d).resv) (cap : a.used + a.resv ≤ a.cap)
    (shared : sharedCommitted s + a.borrow + (guarantees s + if a.configured then a.guarantee else 0) ≤
      32704 + (acct s d).borrow + if (acct s d).configured then (acct s d).guarantee else 0)
    (limit : guarantees s + (if a.configured then a.guarantee else 0) ≤
      31680 + if (acct s d).configured then (acct s d).guarantee else 0)
    (absent : a.configured = false → a.guarantee = 0 ∧ a.cap = 0 ∧ a.used = 0 ∧ a.resv = 0) : Passes X s (accountChanged d a s) := by
  have shelf_now : shelf (accountChanged d a s).store = (shelf s.store).setPurse d (purseOf a) := by
    unfold accountChanged
    rw [markPoolChange_frame]
    dsimp only
    rw [mark_store, shelf_evalPressure, shelf_setAcct]
  have frame := accountChanged_frame d a s
  refine ⟨by rw [frame], fun m _ => by rw [shelf_now]; rfl, fun h => ⟨?_, fun _ _ _ => by rw [frame]⟩,
    fun m _ => by unfold lineAt; rw [frame]; exact .refl _⟩
  have committed : (shelf s.store).sum Purse.borrow = sharedCommitted s := sum_shelf s _
  have guaranteed : (shelf s.store).sum Purse.guaranteed = Machine.guarantees s := sum_shelf s _
  have books := Books.accounted h (d := d) (p := purseOf a) used (allots := (shelf s.store).allots) (resv.trans (h.resv d)) (fun _ _ => rfl) cap
    (by rw [committed, guaranteed]; exact shared) (by rw [guaranteed]; exact limit) absent
  unfold BooksOf
  rw [shelf_now, show (accountChanged d a s).part = s.part by rw [frame], show (accountChanged d a s).dir = s.dir by rw [frame]]
  exact books

/-- Set Department keeps the books: its tests are those of the law (R23). -/
theorem passes_setDepartment {X : Site} {s : State} (h : BooksOf s) (tag : Byte) (dept : Nat) (name : Text) (guarantee cap retention : Nat) :
    Passes X s (setDepartment tag dept name guarantee cap retention s) := by
  unfold setDepartment
  split
  · rename_i d _ _
    dsimp only
    split
    · exact passes_respond ..
    · rename_i check
      refine Passes.trans ?_ (passes_respond ..)
      have committed : (shelf s.store).sum Purse.borrow = sharedCommitted s := sum_shelf s _
      have guaranteed : (shelf s.store).sum Purse.guaranteed = Machine.guarantees s := sum_shelf s _
      have pool : sharedPool s = 32704 - Machine.guarantees s := rfl
      have limit := h.guarantees
      have shared := h.shared
      have absent : (acct s d).configured = false → (acct s d).guarantee = 0 ∧ (acct s d).cap = 0 ∧ (acct s d).used = 0 ∧ (acct s d).resv = 0 :=
        h.absent d
      have below : (acct s d).borrow ≤ sharedCommitted s := le_sumAccounts s Account.borrow d
      have mine : (if (acct s d).configured then (acct s d).guarantee else 0) ≤ Machine.guarantees s :=
        le_sumAccounts s (fun x => if x.configured then x.guarantee else 0) d
      have is_mine : (if (acct s d).configured then (acct s d).guarantee else 0) = (acct s d).guarantee := by
        split
        · rfl
        · rename_i no; exact (absent (Bool.eq_false_iff.2 no)).1.symm
      unfold departmentCheck at check
      dsimp only at check
      rw [is_mine] at check mine
      generalize hnew : requestedAccount (acct s d) name guarantee cap retention = new at check
      have carried : new.configured = true ∧ new.used = (acct s d).used ∧ new.resv = (acct s d).resv := by rw [← hnew]; exact ⟨rfl, rfl, rfl⟩
      obtain ⟨configured, used, resv⟩ := carried
      have room : Machine.guarantees s - (acct s d).guarantee + new.guarantee ≤ 31680 ∧ (acct s d).used + (acct s d).resv ≤ new.cap ∧
          ¬ ((acct s d).guarantee < new.guarantee ∧ sharedPool s - (new.guarantee - (acct s d).guarantee) <
            sharedCommitted s - min (new.guarantee - (acct s d).guarantee) (acct s d).borrow) := by
        split at check
        · cases check
        · split at check
          · cases check
          · split at check
            · cases check
            · rename_i a b c; exact ⟨Nat.le_of_not_lt a, Nat.le_of_not_lt b, c⟩
      obtain ⟨total, above, raised⟩ := room
      have applies (a : Account) (guarantee : a.guarantee = new.guarantee) (cap : a.cap = new.cap) (conf : a.configured = true)
          (u : a.used = (acct s d).used) (r : a.resv = (acct s d).resv) : Passes X s (accountChanged d a s) := by
        have old : (acct s d).borrow = (acct s d).used + (acct s d).resv - (acct s d).guarantee := rfl
        have borrow : a.borrow = (acct s d).used + (acct s d).resv - new.guarantee := by
          show a.used + a.resv - a.guarantee = _; rw [u, r, guarantee]
        refine passes_accountChanged u r (by rw [u, r, cap]; exact above) ?_ ?_ (fun k => by rw [conf] at k; cases k)
        · rw [is_mine, conf, if_pos rfl, guarantee, borrow]; omega
        · rw [is_mine, conf, if_pos rfl, guarantee]; omega
      split
      · exact applies _ rfl rfl configured used resv
      · rename_i no
        obtain ⟨-, -, u, r⟩ := absent (Bool.eq_false_iff.2 no)
        exact applies _ rfl rfl configured u.symm r.symm
  · exact passes_respond ..

theorem passes_removeDepartment {X : Site} {s : State} (h : BooksOf s) (tag : Byte) (dept : Nat) :
    Passes X s (removeDepartment tag dept s) := by
  unfold removeDepartment
  split
  · exact passes_respond ..
  · rename_i d _
    split
    · exact passes_respond ..
    · split
      · exact passes_respond ..
      · split
        · exact passes_respond ..
        · rename_i idle
          have none : (acct s d).used + (acct s d).resv = 0 := by
            by_contra some
            refine idle ?_
            unfold departmentInUse
            rw [decide_eq_true (show 0 < (acct s d).committed from Nat.pos_of_ne_zero some)]; rfl
          have committed : (shelf s.store).sum Purse.borrow = sharedCommitted s := sum_shelf s _
          have guaranteed : (shelf s.store).sum Purse.guaranteed = Machine.guarantees s := sum_shelf s _
          have limit := h.guarantees
          have shared := h.shared
          have borrows : Account.absent.borrow = 0 := rfl
          have guarantees : (if Account.absent.configured then Account.absent.guarantee else 0) = 0 := rfl
          refine Passes.trans (passes_accountChanged ?_ ?_ (Nat.zero_le _) ?_ ?_ (fun _ => ⟨rfl, rfl, rfl, rfl⟩)) (passes_respond ..)
          · show 0 = (acct s d).used; omega
          · show 0 = (acct s d).resv; omega
          · rw [borrows, guarantees]; omega
          · rw [guarantees]; omega

theorem passes_setRoute {X : Site} (tag : Byte) (key : Text) (dept : Nat) (hold collect : Option Bool) (priority : Option Priority)
    (dests : List Text) (s : State) : Passes X s (setRoute tag key dept hold collect priority dests s) := by
  unfold setRoute
  split
  · split
    · exact passes_respond ..
    · split
      · exact passes_respond ..
      · dsimp only
        split
        · exact passes_respond ..
        · exact .same rfl rfl rfl rfl
  · exact passes_respond ..

theorem passes_removeRoute {X : Site} (tag : Byte) (key : Text) (s : State) : Passes X s (removeRoute tag key s) := by
  unfold removeRoute
  split
  · exact passes_respond ..
  · split
    · exact passes_respond ..
    · exact .same rfl rfl rfl rfl

/-! ## The journal and the link -/

theorem passes_setTime {X : Site} (tag : Byte) (sec : BitVec 32) (ms : Nat) (s : State) : Passes X s (setTime tag sec ms s) := by
  unfold setTime
  split
  · exact passes_respond ..
  · have set : Passes X s { s with clock.cal := ⟨sec.toNat, clamp 0 999 ms⟩, clock.trusted := true } := .same rfl rfl rfl rfl
    exact set.trans ((passes_append _ _).trans ((passes_mark _ _).trans (passes_respond ..)))

theorem passes_readJournal {X : Site} (tag : Byte) (n : Nat) (s : State) : Passes X s (readJournal tag n s) := by
  unfold readJournal
  split
  · exact passes_respond ..
  · split
    · dsimp only
      split
      · exact passes_respond ..
      · split
        · exact passes_respond ..
        · exact passes_respond ..
    · exact passes_respond ..

theorem passes_releaseJournal {X : Site} (tag : Byte) (n : Nat) (s : State) : Passes X s (releaseJournal tag n s) := by
  unfold releaseJournal
  dsimp only
  refine Passes.trans ?_ (passes_respond ..)
  split <;> split <;> split <;> exact .same rfl rfl rfl rfl

theorem passes_setNotices {X : Site} (tag : Byte) (a b c d e f : Enable) (s : State) : Passes X s (setNotices tag a b c d e f s) :=
  .same rfl rfl rfl rfl

/-! ## Documents -/

theorem passes_releaseHold {X : Site} (tag : Byte) (n : Nat) (s : State) : Passes X s (releaseHold tag n s) := by
  unfold releaseHold
  split
  · exact passes_respond ..
  · rename_i d found
    split
    · rename_i held
      refine (passes_enterOpen (fun e he => ?_)).trans (passes_respond ..)
      rw [found] at he; obtain rfl := Option.some.inj he; exact .inl held
    · exact passes_respond ..

theorem passes_dropCollect {X : Site} (n : Nat) (s : State) : Passes X s (dropCollect n s) := .same rfl rfl rfl rfl

theorem storeOk_discardDocument {s : State} (h : StoreOk s) (tag : Byte) (n : Nat) : StoreOk (discardDocument tag n s) := by
  unfold discardDocument
  split
  · exact h.passes (passes_respond ..)
  · rename_i d found
    split
    · exact h.passes (passes_respond ..)
    · rename_i free
      split
      · exact h.passes (passes_respond ..)
      · have cancelled : Passes noLine s (dropCollect n (append (.discard n) (cancelPending d s)).1) :=
          (passes_cancelPending d s).trans ((passes_append _ _).trans (passes_dropCollect n _))
        have kept := cancelled.not_landing (h.okBut noLine).1 (n := n) (fun e he => by
          rw [found] at he; obtain rfl := Option.some.inj he
          unfold discardBlocked at free
          intro landing; rw [landing] at free; exact free rfl)
        exact h.passes (cancelled.trans ((passes_purgeEvent kept).trans (passes_respond ..)))

theorem passes_verifyDocument {X : Site} (tag : Byte) (n : Nat) (s : State) : Passes X s (verifyDocument tag n s) := by
  unfold verifyDocument
  split
  · exact passes_respond ..
  · split
    · exact passes_respond ..
    · split
      · exact passes_respond ..
      · split
        · exact passes_respond ..
        · refine (passes_modDoc (n := n) (f := fun e => { e with verifying := true }) s (fun _ => rfl)).trans ?_
          exact .same rfl rfl rfl rfl

theorem passes_listDocuments {X : Site} (tag : Byte) (dept : Nat) (filter : Option LifeFilter) (start : Nat) (s : State) :
    Passes X s (listDocuments tag dept filter start s) := by
  unfold listDocuments
  split
  · split
    · exact passes_respond ..
    · exact passes_respond ..
  · exact passes_respond ..

/-! ## Collect -/

theorem passes_makeOffer {X : Site} (d : Document) (tag : Byte) (timeout : Nat) (s : State) : Passes X s (makeOffer d tag timeout s) := by
  unfold makeOffer
  refine Passes.trans (Passes.trans ?_ (passes_modDoc (n := d.number) (f := fun e => { e with disposition := .offered })
    (setReady d.dept (fun q => q.filter (· ≠ d.number)) s) (fun _ => rfl))) ?_
  · exact .same rfl rfl rfl rfl
  · exact .same rfl rfl rfl rfl

theorem passes_collect {X : Site} (tag : Byte) (dept timeout : Nat) (s : State) : Passes X s (collect tag dept timeout s) := by
  unfold collect
  split
  · exact passes_respond ..
  · split
    · exact passes_respond ..
    · split
      · unfold waitCollect
        split
        · exact passes_respond ..
        · exact .same rfl rfl rfl rfl
      · split
        · exact passes_makeOffer ..
        · exact .refl _ _

theorem passes_setTransfer {X : Site} (t : Option Transfer) (s : State) : Passes X s (setTransfer t s) := .same rfl rfl rfl rfl

theorem passes_readSpan {X : Site} (reader : Reader) (doc : Nat) (pg : Page) (off size : Nat) (s : State) :
    Passes X s (readSpan reader doc pg off size s).1 :=
  .same (by simp) (readSpan_books ..).1 (readSpan_books ..).2 (by simp)

theorem passes_prepareFrame {X : Site} (fuel : Nat) (s : State) : Passes X s (prepareFrame fuel s) := by
  induction fuel generalizing s with
  | zero => exact .refl _ _
  | succ k ih =>
    unfold prepareFrame
    split
    · exact .refl _ _
    · rename_i t _
      split
      · exact .refl _ _
      · split
        · exact .same rfl rfl rfl rfl
        · rename_i p _
          dsimp only
          split
          · exact (passes_setTransfer _ s).trans (ih _)
          · have read := passes_readSpan (X := X) .transfer t.doc p t.offset chunkBytes s
            generalize readSpan .transfer t.doc p t.offset chunkBytes s = q at read
            obtain ⟨s1, data⟩ := q
            cases data with
            | none => exact read.trans ((passes_setTransfer _ s1).trans (ih _))
            | some bytes => exact read.trans (.same rfl rfl rfl rfl)

theorem passes_prepareNext {X : Site} (s : State) : Passes X s (prepareNext s) := by
  unfold prepareNext
  split
  · exact .refl _ _
  · exact passes_prepareFrame _ s

theorem passes_acceptOffer {X : Site} (tag : Byte) (doc : Nat) (s : State) : Passes X s (acceptOffer tag doc s) := by
  unfold acceptOffer
  split
  · exact passes_respond ..
  · split
    · exact passes_respond ..
    · split
      · exact passes_respond ..
      · refine Passes.trans ?_ (passes_respond ..)
        have dropped : Passes X s { s with collect.offers := s.collect.offers.filter (fun o => o.doc ≠ doc) } := .same rfl rfl rfl rfl
        exact dropped.trans ((passes_modDoc (n := doc) (f := fun d => { d with disposition := .transferring }) _ (fun _ => rfl)).trans
          ((passes_setTransfer _ _).trans (passes_prepareNext _)))

theorem passes_declineOpen {X : Site} (n : Nat) (s : State) : Passes X s (declineOpen n s) := by
  have dropped : Passes X s { s with collect.offers := s.collect.offers.filter (fun o => o.doc ≠ n) } := .same rfl rfl rfl rfl
  exact dropped.trans ((passes_modDoc (n := n) (f := fun d => { d with declines := satSucc 255 d.declines }) _ (fun _ => rfl)).trans
    (passes_becomeDue n _))

theorem passes_declineOffer {X : Site} (tag : Byte) (doc : Nat) (s : State) : Passes X s (declineOffer tag doc s) := by
  unfold declineOffer
  split
  · exact passes_respond ..
  · split
    · exact passes_respond ..
    · exact (passes_declineOpen doc s).trans (passes_respond ..)

theorem passes_abortTransfer {X : Site} (tag : Byte) (doc : Nat) (s : State) : Passes X s (abortTransfer tag doc s) := by
  unfold abortTransfer
  split
  · exact passes_respond ..
  · rename_i d _
    split
    · exact passes_respond ..
    · rename_i t _
      have ended : Passes X s (setTransfer (some { t with ending := some .aborted })
        { s with link.waiting := some (transferEndFrame t .aborted d.digest) }) := .same rfl rfl rfl rfl
      exact ended.trans ((passes_becomeDue doc _).trans (passes_respond ..))

theorem passes_confirmCollected {X : Site} (tag : Byte) (doc : Nat) (s : State) : Passes X s (confirmCollected tag doc s) := by
  unfold confirmCollected
  split
  · exact passes_respond ..
  · split
    · exact passes_respond ..
    · split
      · exact passes_respond ..
      · have appended := passes_append (X := X) (collectEntry s doc) s
        generalize append (collectEntry s doc) s = p at appended
        obtain ⟨s1, seq⟩ := p
        dsimp only at appended ⊢
        have dropped : Passes X s1 { s1 with collect.sent := s1.collect.sent.filter (fun x => x.doc ≠ doc) } := .same rfl rfl rfl rfl
        exact appended.trans (dropped.trans ((passes_modDoc (n := doc) (f := fun e => { e with disposition := .done }) _
          (fun _ => rfl)).trans ((passes_settle doc _).trans (passes_respond ..))))

/-! ## Forwards -/

/-- A SETTLED document returns to OPEN and leaves the reclaim list (R42). -/
theorem passes_reopen {X : Site} {n : Nat} {d : Document} {s : State} (found : findDoc s n = some d) (settled : d.life = .settled) :
    Passes X s (reopen n s) := by
  refine Rewrites.passes (d := d) (n := n) (f := fun e => { e with life := .opened, settleTime := none, deadline := none }) (bs := [])
    ⟨found, rfl, rfl, rfl, rfl, .nothing _ _, fun _ => rfl, rfl, by simp [heldBlocks, docBlocks], fun h => ?_, .inl (by rw [settled]; simp),
      .inl (by simp), fun nodup hn => ⟨nodup.filter _, fun m => ?_⟩⟩
  · rw [settled] at h; simp [bookOf, h.resolve_right (by simp)]
  · show m ∈ s.dir.reclaim.filter _ ↔ _
    by_cases hm : m = n <;> simp [hm]

theorem passes_addForward {X : Site} (tag : Byte) (doc : Nat) (digits : Text) (s : State) : Passes X s (addForward tag doc digits s) := by
  unfold addForward
  split
  · exact passes_respond ..
  · exact .refl _ _
  · rename_i d _ found
    have reopened : Passes X s (if d.life = .settled then reopen doc s else s) := by
      split
      · rename_i settled; exact passes_reopen found settled
      · exact .refl _ _
    refine reopened.trans ?_
    have entry (t : State) : Passes X t (addForwardEntry doc (ForwardEntry.fresh digits) t) := passes_modDoc t (fun _ => rfl)
    exact (entry _).trans ((passes_addJob _ _ _ _ _).trans (passes_respond ..))

theorem passes_releaseAttempt {X : Site} {n : LineNo} {s : State} (call : inSending (lineAt s n) = true) : Passes X s (releaseAttempt n s) := by
  obtain ⟨rx, chan⟩ := inSending_parts call
  exact (sender_releaseAttempt n s).passes rx chan

theorem passes_cancelJob {X : Site} (j : Job) (s : State) : Passes X s (cancelJob j s) := by
  have released : Passes X s (releaseCall j s) := by
    unfold releaseCall
    split
    · exact .refl _ _
    · split
      · rename_i call
        rw [Bool.and_eq_true] at call
        exact passes_releaseAttempt call.1
      · exact .refl _ _
  unfold cancelJob
  split
  · exact released.trans (.same rfl rfl rfl rfl)
  · exact .same rfl rfl rfl rfl

theorem passes_cancelForward {X : Site} (tag : Byte) (doc index : Nat) (s : State) : Passes X s (cancelForward tag doc index s) := by
  unfold cancelForward
  split
  · exact passes_respond ..
  · split
    · exact passes_respond ..
    · split
      · exact passes_respond ..
      · split
        · exact passes_respond ..
        · dsimp only
          refine Passes.trans (Passes.trans ?_ (passes_endEntry _ _ _ _ _)) (passes_respond ..)
          cases jobOf s doc index with
          | none => exact .refl _ _
          | some j => exact passes_cancelJob j s

theorem passes_resumeForwarding {X : Site} (tag : Byte) (s : State) : Passes X s (resumeForwarding tag s) := by
  unfold resumeForwarding
  refine Passes.trans ?_ (passes_respond ..)
  split
  · exact .same rfl rfl rfl rfl
  · exact .refl _ _

theorem passes_readJobs {X : Site} (tag : Byte) (doc start : Nat) (s : State) : Passes X s (readJobs tag doc start s) := by
  unfold readJobs
  split
  · exact passes_respond ..
  · exact passes_respond ..

theorem passes_forgetCaller {X : Site} (tag : Byte) (number : Text) (s : State) : Passes X s (forgetCaller tag number s) := by
  unfold forgetCaller
  split
  · exact passes_respond ..
  · split
    · exact passes_respond ..
    · exact .same rfl rfl rfl rfl

/-! ## Lines -/

theorem passes_applySettings {X : Site} (n : LineNo) (outbound : Bool) (maxStep : Nat) (key : Option Text) (s : State) :
    Passes X s (applySettings n outbound maxStep key s) := by
  have settings : Passes X s (modLine n (fun l => { l with outbound := outbound, maxStep := clamp 0 topStep maxStep, defaultKey := key }) s) :=
    calm_modLine ⟨rfl, id⟩
  unfold applySettings
  dsimp only
  split
  · exact settings
  · exact settings.trans (passes_reportRun n _)

theorem passes_applyService {X : Site} (n : LineNo) (want : Service) (s : State) : Passes X s (applyService n want s) := by
  unfold applyService
  split
  · split
    · exact .refl _ _
    · refine Passes.trans (calm_modLine ⟨rfl, id⟩) ((passes_sendCmd n _ _).trans ((passes_mark _ _).trans (passes_reportRun n _)))
  · exact calm_modLine ⟨rfl, id⟩

theorem passes_setLine {X : Site} (tag : Byte) (line : Nat) (service : Option ServiceRequest) (outbound : Option Bool) (maxStep : Nat)
    (key : Option Text) (s : State) : Passes X s (setLine tag line service outbound maxStep key s) := by
  unfold setLine
  split
  · rename_i n sv out _ _
    split
    · exact passes_respond ..
    · dsimp only
      refine (passes_applySettings n out maxStep key s).trans (Passes.trans ?_ (passes_respond ..))
      cases serviceAsked sv with
      | none => exact .refl _ _
      | some want => exact passes_applyService n want _
  · exact passes_respond ..

theorem passes_readLineStatistics {X : Site} (tag : Byte) (line : Nat) (clear : Bool) (s : State) :
    Passes X s (readLineStatistics tag line clear s) := by
  unfold readLineStatistics
  split
  · exact passes_respond ..
  · refine Passes.trans ?_ (passes_respond ..)
    split
    · exact passes_modStats _ _ s
    · exact .refl _ _

/-! ## Policy -/

theorem isReady_opened {s : State} (h : isReady s = true) : opened s.part = true := by
  unfold isReady at h; unfold opened; rw [h]; rfl

/-- An ALERTED call tested at each line keeps the law (R79). -/
theorem storeOk_testAdmissions {s : State} (h : StoreOk s) (isOpen : opened s.part = true) (ns : List LineNo) :
    StoreOk (ns.foldl (fun t n => testAdmission n t) s) := by
  induction ns generalizing s with
  | nil => exact h
  | cons n ns ih => exact ih (storeOk_testAdmission h isOpen n) (by rw [testAdmission_part]; exact isOpen)

theorem storeOk_setPolicy {s : State} (h : StoreOk s) (isOpen : opened s.part = true) (tag : Byte) (p : PolicyRequest) :
    StoreOk (setPolicy tag p s) := by
  unfold setPolicy
  split
  · exact h.passes (passes_respond ..)
  · dsimp only
    refine StoreOk.passes ?_ (passes_respond ..)
    have set : Passes noLine s (if (applyPolicy p s.policy).failLimit < s.policy.failLimit
        then { s with policy := applyPolicy p s.policy, callers.table := clampFails (applyPolicy p s.policy).failLimit s.callers.table }
        else { s with policy := applyPolicy p s.policy }) := by split <;> exact .same rfl rfl rfl rfl
    have ok := h.passes set
    have open₂ := set.phase.trans isOpen
    generalize (if (applyPolicy p s.policy).failLimit < s.policy.failLimit
        then { s with policy := applyPolicy p s.policy, callers.table := clampFails (applyPolicy p s.policy).failLimit s.callers.table }
        else { s with policy := applyPolicy p s.policy }) = s₂ at ok open₂
    have owed : StoreOk (if (policyMarks p).inboundReserve then oweRun s₂ else s₂) ∧
        opened (if (policyMarks p).inboundReserve then oweRun s₂ else s₂).part = true := by
      split
      · exact ⟨ok.passes (passes_oweRun s₂), open₂⟩
      · exact ⟨ok, open₂⟩
    split
    · exact storeOk_testAdmissions owed.1 owed.2 allLines
    · exact owed.1

end Sys2Proof.Machine
end

section
/-! The events of the lines and of the part, and every command, keep the store's books. -/

namespace Sys2Proof.Machine

open Sys2Proof

/-! ## Open stores -/

/-- A line that is not quiet shows an open store (R100). -/
theorem opened_of_busy {s : State} (h : LinesOk s) {n : LineNo} (busy : ¬ (lineAt s n).quiet) : opened s.part = true := by
  rcases phase : s.part.phase with _ | p
  · exact absurd (h.2 (.inl phase) n).2.1 busy
  · cases p with
    | starting => exact absurd (h.2 (.inr phase) n).2.1 busy
    | ready => unfold opened; rw [phase]; rfl
    | restarting => unfold opened; rw [phase]; rfl

theorem opened_of_chan {s : State} (h : LinesOk s) {n : LineNo} (chan : (lineAt s n).chan ≠ .idle) : opened s.part = true :=
  opened_of_busy h (n := n) (fun q => chan q.1)

theorem opened_of_call {s : State} (h : LinesOk s) {n : LineNo} (call : (lineAt s n).call ≠ none) : opened s.part = true :=
  opened_of_busy h (n := n) (fun q => call q.2.1)

theorem takesIn_parts {s : State} {n : LineNo} {c : Chan} (h : takesIn s n c = true) :
    (lineAt s n).chan = c ∧ opened s.part = true ∧ (lineAt s n).reset = .none := by
  unfold takesIn takesEvents at h
  simp only [Bool.and_eq_true, beq_iff_eq] at h
  obtain ⟨⟨⟨isOpen, -⟩, reset⟩, chan⟩ := h
  exact ⟨chan, isOpen, reset⟩

/-! ## Starts -/

/-- A part that starts anew has its books in order (R2, R222). -/
theorem storeOk_fresh (pending : List Instr) (part : Part) (rate : LinkRate) (rts : Bool) (mem : List Host.Cell) (dram : Dram)
    (closed : opened part = false) : StoreOk (State.fresh pending part rate rts mem dram) := by
  have quiet (n : LineNo) : lineAt (State.fresh pending part rate rts mem dram) n = Line.fresh := by
    unfold lineAt State.fresh; simp
  have allots (n : LineNo) : (shelf PageStore.fresh).allots n = ⟨none, 0⟩ := by unfold shelf PageStore.fresh; simp
  have purses (e : Dept) : (shelf PageStore.fresh).purses e = if e = 0 then purseOf Account.general else purseOf Account.absent := by
    have account : PageStore.fresh.accounts[e] = if e = 0 then Account.general else Account.absent := by
      unfold PageStore.fresh
      simp only [Fin.getElem_fin, Vector.getElem_set, Vector.getElem_replicate, Fin.ext_iff, Fin.val_zero, eq_comm]
    show purseOf PageStore.fresh.accounts[e] = _
    rw [account]; split <;> rfl
  refine (storeOk_iff _).2 ⟨?_, fun n => ?_⟩
  · refine ⟨List.Pairwise.nil, nofun, fun _ => rfl, fun ho => ?_, fun ho => ?_, fun e => ?_, fun e => ?_, fun e => ?_, ?_, ?_, fun e => ?_, ⟨List.nodup_nil, fun m => ⟨nofun, nofun⟩⟩, nofun⟩
    · exact absurd (closed.symm.trans ho) (by simp)
    · exact absurd (closed.symm.trans ho) (by simp)
    · show ((shelf PageStore.fresh).purses e).used = 0; rw [purses]; split <;> rfl
    · show ((shelf PageStore.fresh).purses e).resv = (shelf PageStore.fresh).allotted e
      unfold Shelf.allotted; simp only [allots]
      rw [purses]; split <;> simp [purseOf, Account.general, Account.absent]
    · show ((shelf PageStore.fresh).purses e).used + ((shelf PageStore.fresh).purses e).resv ≤ ((shelf PageStore.fresh).purses e).cap
      rw [purses]; split <;> simp [purseOf, Account.general, Account.absent]
    · show (shelf PageStore.fresh).sum Purse.borrow + (shelf PageStore.fresh).sum Purse.guaranteed ≤ 32704
      decide
    · show (shelf PageStore.fresh).sum Purse.guaranteed ≤ 31680
      decide
    · show ((shelf PageStore.fresh).purses e).configured = false → ((shelf PageStore.fresh).purses e).guarantee = 0 ∧
        ((shelf PageStore.fresh).purses e).cap = 0 ∧ ((shelf PageStore.fresh).purses e).used = 0 ∧ ((shelf PageStore.fresh).purses e).resv = 0
      rw [purses]; split <;> simp [purseOf, Account.general, Account.absent]
  · rw [quiet]
    exact LineOk.quiet rfl (allots n) (fun k => absurd rfl k)

theorem blocksFrom_all : blocksFrom 0 poolBlocks ++ blocksFrom poolBlocks spareBlocks = List.finRange 32768 := by
  unfold blocksFrom
  rw [← List.map_append, show List.range' 0 poolBlocks ++ List.range' poolBlocks spareBlocks = List.range' 0 32768 from
    List.range'_append_1 ..]
  refine List.ext_getElem (by simp) (fun i hi hj => Fin.ext ?_)
  have : i < 32768 := by simpa using hj
  simpa using Nat.mod_eq_of_lt this

/-- Store initialization opens the books (R2, R224): no document holds a block. -/
theorem storeOk_initialized {s : State} (h : StoreOk s) (starting : s.part.phase = some .starting) :
    StoreOk (initializedStore { s with part.phase := some .ready }) := by
  obtain ⟨b, lines⟩ := (storeOk_iff s).1 h
  have none := b.unopened (show opened s.part = false by unfold opened; rw [starting]; rfl)
  refine (storeOk_iff _).2 ⟨?_, lines⟩
  refine ⟨b.rising, b.below, nofun, fun _ => ?_, fun _ => ?_, b.used, b.resv, b.caps, b.shared, b.guarantees, b.absent, b.settled, b.strays⟩
  · show (blocksFrom 0 poolBlocks ++ blocksFrom poolBlocks spareBlocks ++ [] ++ (roll s.dir).books.flatMap Book.held).Perm _
    rw [none, blocksFrom_all]; simp
  · show (blocksFrom 0 poolBlocks).length + (shelf s.store).sum Purse.used = 32704
    have zero : (shelf s.store).sum Purse.used = 0 := by
      unfold Shelf.sum
      rw [List.sum_eq_zero_iff_forall_eq_nat]
      intro x hx
      obtain ⟨e, -, rfl⟩ := List.mem_map.1 hx
      rw [b.used e, none]; rfl
    rw [zero]; simp [blocksFrom, poolBlocks]

/-- Store initialization (R224). -/
theorem storeOk_initialization {s t : State} (h : StoreOk s) (e : execStoreInitializationComplete s = .next t) : StoreOk t := by
  obtain rfl := Host.Outcome.next.inj e
  split
  · rename_i starting
    exact (storeOk_initialized h starting).passes (Passes.foldl (fun t n => passes_sendCmd n _ t) _ _)
  · exact h

/-! ## The link -/

theorem passes_countLengthError {X : Site} (s : State) : Passes X s (countLengthError s) := .same rfl rfl rfl rfl
theorem passes_countCheckError {X : Site} (s : State) : Passes X s (countCheckError s) := .same rfl rfl rfl rfl

theorem passes_scan {X : Site} (fuel : Nat) (buf : List Byte) (s : State) : Passes X s (scan fuel buf s) := by
  have kept (buf : List Byte) (s : State) : Passes X s (keepBytes buf s) := .same rfl rfl rfl rfl
  have completed (f : Frame) (s : State) : Passes X s (completeFrame f s) := by
    unfold completeFrame
    dsimp only
    split
    · exact .same rfl rfl rfl rfl
    · split
      · exact .same rfl rfl rfl rfl
      · exact .same rfl rfl rfl rfl
  induction fuel, buf, s using scan.induct with
  | case1 => exact kept _ _
  | case2 => exact kept _ _
  | case3 => unfold scan; exact kept _ _
  | case4 k x y rest s h ih => unfold scan; rw [if_pos h]; exact ih
  | case5 k x y s h lo hi body n excess ih =>
    unfold scan; rw [if_neg h]; dsimp only; rw [if_pos excess]
    exact (passes_countLengthError _).trans ih
  | case6 k x y s h lo hi body n excess short =>
    unfold scan; rw [if_neg h]; dsimp only; rw [if_neg excess, if_pos short]; exact kept _ _
  | case7 k x y s h lo hi body n excess short checked check good ih =>
    unfold scan; rw [if_neg h]; dsimp only; rw [if_neg excess, if_neg short, if_pos good]
    exact (completed _ _).trans ih
  | case8 k x y s h lo hi body n excess short checked check bad ih =>
    unfold scan; rw [if_neg h]; dsimp only; rw [if_neg excess, if_neg short, if_neg bad]
    exact (passes_countCheckError _).trans ih
  | case9 k x y rest s h other =>
    unfold scan; rw [if_neg h]
    split
    · exact absurd rfl (other _ _ _)
    · exact kept _ _

theorem passes_abandonFrame {X : Site} (s : State) : Passes X s (abandonFrame s) := .same rfl rfl rfl rfl

theorem passes_receiveBytes {X : Site} (bytes : List Byte) (s : State) : Passes X s (receiveBytes bytes s) := by
  unfold receiveBytes
  have gap : Passes X s (if gapPassed s then abandonFrame s else s) := by
    split
    · exact passes_abandonFrame s
    · exact .refl _ _
  refine gap.trans ?_
  dsimp only
  generalize (if gapPassed s then abandonFrame s else s) = s₁
  have timed : Passes X s₁ { s₁ with link.rxTime := s₁.clock.run } := .same rfl rfl rfl rfl
  exact timed.trans (passes_scan _ _ _)

theorem passes_beginTransferFrame {X : Site} (f : TransferFrame) (s : State) : Passes X s (beginTransferFrame f s) := by
  have begun : Passes X s (raiseSendCount (putOnLine (.transfer s.link.sendCount f) { s with link.waiting := none })) := .same rfl rfl rfl rfl
  unfold beginTransferFrame
  refine begun.trans ?_
  dsimp only
  split
  · exact passes_prepareNext _
  · rename_i t _
    unfold closeTransfer
    dsimp only
    split
    · exact passes_setTransfer _ _
    · refine (passes_setTransfer none _).trans (Passes.trans ?_ (passes_modDoc (n := t.doc) (f := fun d => { d with disposition := .sent }) _
        (fun _ => rfl)))
      exact .same rfl rfl rfl rfl
  · exact .refl _ _

theorem storeOk_beginFrameSend {s t : State} (h : StoreOk s) (e : execBeginFrameSend s = .next t) : StoreOk t := by
  obtain rfl := Host.Outcome.next.inj e
  split
  · exact h
  · split
    · exact h.passes (.same rfl rfl rfl rfl)
    · split
      · exact h.passes (.same rfl rfl rfl rfl)
      · split
        · exact h.passes (passes_beginTransferFrame _ s)
        · exact h

/-! ## Restart -/

theorem passes_modTally {X : Site} (f : RestartTally → RestartTally) (s : State) : Passes X s (modTally f s) := .same rfl rfl rfl rfl

theorem passes_restartLink {X : Site} {s : State} (isOpen : opened s.part = true) (tag : Byte) : Passes X s (restartLink tag s) :=
  .same (isOpen.symm ▸ rfl) rfl rfl rfl

theorem passes_restartCollect {X : Site} (s : State) : Passes X s (restartCollect s) := by
  unfold restartCollect
  dsimp only
  have cleared : Passes X s (modTally (fun t => { t with
      collectDropped := s.collect.queue.length
      offersWithdrawn := s.collect.offers.length
      transferStopped := s.collect.transfer.map Transfer.doc }) { s with collect.queue := [], collect.offers := [] }) := .same rfl rfl rfl rfl
  have withdrawn := cleared.trans (Passes.foldl (f := withdrawOffer) (fun t o => passes_becomeDue o.doc t) s.collect.offers _)
  refine withdrawn.trans ?_
  split
  · exact .refl _ _
  · rename_i u tr _
    have stopped (t : State) : Passes X t (setTransfer none { t with link.waiting := none }) := .same rfl rfl rfl rfl
    split
    · exact stopped _
    · exact (stopped _).trans (passes_becomeDue _ _)

theorem storeOk_restartLine {s : State} (h : StoreOk s) (n : LineNo) : StoreOk (restartLine s n) := by
  unfold restartLine
  dsimp only
  split
  · rename_i alerted
    have quiet : callDoc (lineAt s n) = none := by unfold callDoc; rw [alerted]; rfl
    exact h.passes ((passes_releaseWith quiet).trans ((passes_mark _ _).trans (passes_modTally _ _)))
  · split
    · rename_i call; exact (storeOk_endsReleased h .restart call).passes (passes_modTally _ _)
    · split
      · rename_i call; exact h.passes ((passes_releaseAttempt call).trans (passes_modTally _ _))
      · exact h

theorem storeOk_restartLines {s : State} (h : StoreOk s) (ns : List LineNo) : StoreOk (ns.foldl restartLine s) := by
  induction ns generalizing s with
  | nil => exact h
  | cons n ns ih => exact ih (storeOk_restartLine h n)

theorem passes_restartVerifications {X : Site} (s : State) : Passes X s (restartVerifications s) := by
  unfold restartVerifications
  dsimp only
  refine Passes.trans (Passes.trans ?_ (Passes.foldl (fun t n => passes_modDoc (n := n) (f := fun d => { d with verifying := false }) t
    (fun _ => rfl)) _ _)) (Passes.foldl (fun t n => passes_purgeIfPassed n t) _ _)
  exact .same rfl rfl rfl rfl

theorem passes_restartForwarding {X : Site} (s : State) : Passes X s (restartForwarding s) := .same rfl rfl rfl rfl

/-- RESTART (R225, R226). -/
theorem storeOk_restart {s t : State} (h : StoreOk s) {r : Envelope} (e : execRestart r s = .next t) : StoreOk t := by
  obtain rfl := Host.Outcome.next.inj e
  refine storeOk_takeRequest h (fun u hu ready => ?_)
  have collected := hu.passes ((passes_restartLink (isReady_opened (ready (by simp))) r.tag).trans (passes_restartCollect _))
  exact (storeOk_restartLines collected allLines).passes ((passes_restartVerifications _).trans (passes_restartForwarding _))

theorem storeOk_restartEnd {s t : State} (h : StoreOk s) (e : execRestartEnd s = .next t) : StoreOk t := by
  obtain rfl := Host.Outcome.next.inj e
  split
  · rename_i phase
    have counted : Passes noLine s { s with part.restarts := satSucc maxNumber s.part.restarts } := .same rfl rfl rfl rfl
    have appended := passes_append (X := noLine) (.restart (satSucc maxNumber s.part.restarts))
      { s with part.restarts := satSucc maxNumber s.part.restarts }
    have still : (append (.restart (satSucc maxNumber s.part.restarts))
      { s with part.restarts := satSucc maxNumber s.part.restarts }).1.part.phase = some .restarting := by simp [phase]
    dsimp only
    generalize append (.restart (satSucc maxNumber s.part.restarts)) { s with part.restarts := satSucc maxNumber s.part.restarts } = p
      at appended still
    obtain ⟨s2, seq⟩ := p
    dsimp only at appended still ⊢
    have ready : Passes noLine s2 { s2 with part.cause := .restartRequest, part.phase := some .ready, part.tally := none } :=
      .same (by unfold opened; rw [still]; rfl) rfl rfl rfl
    have purged := Passes.foldl (X := noLine) (fun t n => passes_purgeIfPassed n t) s2.dir.reclaim
      { s2 with part.cause := .restartRequest, part.phase := some .ready, part.tally := none }
    have all := counted.trans (appended.trans (ready.trans purged))
    split
    · exact h.passes all
    · exact h.passes (all.trans (passes_respond ..))
  · exact h

/-! ## Documents and forwards -/

theorem passes_endVerification {X : Site} (v : Verification) (s : State) : Passes X s (endVerification v s) := by
  unfold endVerification
  have dropped : Passes X s { s with dir.verifications := s.dir.verifications.filter (fun x => x.doc ≠ v.doc) } := .same rfl rfl rfl rfl
  refine dropped.trans ?_
  dsimp only
  split
  · exact .refl _ _
  · exact (passes_respond ..).trans ((passes_modDoc (n := v.doc) (f := fun e => { e with verifying := false }) _ (fun _ => rfl)).trans
      (passes_purgeIfPassed _ _))

theorem passes_setVerification {X : Site} (v : Verification) (s : State) : Passes X s (setVerification v s) := .same rfl rfl rfl rfl

theorem passes_afterStretch {X : Site} (v : Verification) (pages : Nat) (s : State) : Passes X s (afterStretch v pages s) := by
  unfold afterStretch
  split
  · exact passes_endVerification v s
  · exact passes_setVerification v s

theorem storeOk_verifyStep {s t : State} (h : StoreOk s) {doc : Nat} (e : execVerifyStep doc s = .next t) : StoreOk t := by
  obtain rfl := Host.Outcome.next.inj e
  split
  · rename_i v d _ _
    split
    · exact h.passes (passes_endVerification v s)
    · rename_i p _
      have read := passes_readSpan (X := noLine) .verify doc p v.offset chunkBytes s
      generalize readSpan .verify doc p v.offset chunkBytes s = q at read
      obtain ⟨s1, data⟩ := q
      cases data with
      | none => exact h.passes (read.trans (passes_afterStretch _ _ s1))
      | some bytes =>
        dsimp only
        split
        · exact h.passes (read.trans (passes_afterStretch _ _ s1))
        · exact h.passes (read.trans (passes_setVerification _ s1))
  · exact h

theorem storeOk_retentionExpiry {s t : State} (h : StoreOk s) {doc : Nat} (e : execRetentionExpiry doc s = .next t) : StoreOk t := by
  obtain rfl := Host.Outcome.next.inj e
  split
  · exact h
  · split
    · exact h
    · split
      · dsimp only
        split
        · exact h.passes ((passes_advanceTo _ s).trans (passes_purgeIfPassed _ _))
        · exact h.passes (passes_advanceTo _ s)
      · exact h

theorem passes_endJob {X : Site} (j : Job) (state : ForwardState) (result : ForwardResult) (s : State) :
    Passes X s (endJob j state result s) := by
  have dropped : Passes X s (oweRun (dropJob j.number s)) := .same rfl rfl rfl rfl
  exact dropped.trans (passes_endEntry _ _ _ _ _)

theorem passes_takeOutcome {X : Site} (j : Job) (a : AttemptEnd) (s : State) : Passes X s (takeOutcome j a s) := by
  have counted (final : Bool) : Passes X s (countAttempt j a final s) := by
    have attempted : Passes X s (modJob j.number (fun x => { x with attempts := j.attempts + 1, line := none }) s) := .same rfl rfl rfl rfl
    unfold countAttempt
    dsimp only
    refine attempted.trans (Passes.trans (passes_modForward j.document j.index (fun e => { e with
      attempts := j.attempts + 1, last := some (.attempt a.outcome), pages := a.pages }) _) ?_)
    exact .same rfl rfl rfl rfl
  unfold takeOutcome
  split
  · exact (counted true).trans ((passes_modStats _ _ _).trans (passes_endJob _ _ _ _))
  · exact (counted true).trans (passes_endJob _ _ _ _)
  · exact (counted false).trans (.same rfl rfl rfl rfl)

theorem storeOk_attemptOutcome {s t : State} (h : StoreOk s) {a : AttemptEnd} (e : execAttemptOutcome a s = .next t) : StoreOk t := by
  obtain rfl := Host.Outcome.next.inj e
  have taken : StoreOk { s with fwd.handed := s.fwd.handed.erase a } := h.passes (.same rfl rfl rfl rfl)
  split
  · split
    · exact taken.passes (passes_takeOutcome _ _ _)
    · exact taken
  · exact taken

/-! ## The arbiter -/

theorem passes_grantSeize {X : Site} {n : LineNo} {s : State} (idle : (lineAt s n).chan = .idle) (j : Job) :
    Passes X s (grantSeize j n s) := by
  have seized : Passes X s (modLine n (fun l => { l with chan := .seized, call := some ⟨none, .sender (TxCall.seized j)⟩ }) s) :=
    calm_modLine ⟨by unfold callDoc; rw [idle]; rfl, fun ok ne => by rw [ok ne] at idle; cases idle⟩
  unfold grantSeize
  refine seized.trans ((passes_sendCmd n (.dial j.destination) _).trans ((passes_modStats n
    (fun st => { st with placed := satSucc counterTop st.placed }) _).trans ?_))
  exact .same rfl rfl rfl rfl

theorem passes_arbiterTests {X : Site} (k : Nat) (s : State) : Passes X s (arbiterTests k s) := by
  induction k generalizing s with
  | zero => exact .refl _ _
  | succ k ih =>
    unfold arbiterTests
    cases test : arbiterTest s with
    | none => exact .refl _ _
    | some s1 =>
      dsimp only
      refine Passes.trans ?_ (ih s1)
      unfold arbiterTest at test
      split at test
      · split at test
        · obtain rfl := Option.some.inj test
          split
          · rename_i grants
            unfold grantsSeize at grants
            simp only [Bool.and_eq_true, beq_iff_eq] at grants
            exact passes_grantSeize grants.2 _
          · exact passes_report _ s
        · cases test
      · cases test

/-! ## Ringing -/

theorem callDoc_alerted {l : Line} (h : l.chan = .alerted) : callDoc l = none := by unfold callDoc; rw [h]; rfl

theorem storeOk_ring {s t : State} (h : StoreOk s) {n : LineNo} (e : execRing n s = .next t) : StoreOk t := by
  obtain rfl := Host.Outcome.next.inj e
  split
  · rename_i takes
    unfold takesEvents at takes
    simp only [Bool.and_eq_true, beq_iff_eq] at takes
    obtain ⟨⟨⟨isOpen, -⟩, reset⟩, -⟩ := takes
    have isOpen : opened s.part = true := isOpen
    split
    · rename_i idle
      split
      · unfold beginRinging
        have began (f : Line → Line) (chan : (f (lineAt s n)).chan = .alerted) (same : (f (lineAt s n)).reset = (lineAt s n).reset) :
            Passes noLine s (modLine n f s) :=
          calm_modLine ⟨by rw [callDoc_alerted chan]; unfold callDoc; rw [idle]; rfl, fun _ ne => absurd (same.trans reset) ne⟩
        exact storeOk_testAdmission (h.passes ((began _ rfl rfl).trans ((passes_modStats n _ _).trans (passes_report n _)))) isOpen n
      · exact h
    · refine storeOk_testAdmission (h.passes (passes_modRx n _ s (by intro; rfl))) ?_ n
      exact isOpen
    · rename_i t tx _ _
      split
      · rename_i sending
        exact h.passes ((sender_glareRing n _ s).passes (rxOf_of_tx tx) (fun e => by rw [e] at sending; cases sending))
      · exact h
    · exact h
  · exact h

theorem storeOk_endRinging {s : State} (h : StoreOk s) {n : LineNo} (alerted : (lineAt s n).chan = .alerted) : StoreOk (endRinging n s) :=
  h.passes ((calm_returnToIdle (callDoc_alerted alerted)).trans (passes_mark _ _))

theorem storeOk_digits {s t : State} (h : StoreOk s) {n : LineNo} {string : Text} {complete : Bool}
    (e : execDigits n string complete s = .next t) : StoreOk t := by
  obtain rfl := Host.Outcome.next.inj e
  split
  · rename_i c rx
    split
    · rename_i takes
      simp only [Bool.and_eq_true] at takes
      obtain ⟨alerted, isOpen, -⟩ := takesIn_parts takes.1.1
      refine storeOk_testAdmission (s := modRx n (fun _ => gather c string complete) s) (h.passes ?_) isOpen n
      refine passes_calm rfl rfl rfl (fun _ hm => lineAt_modLine_ne hm _ s) ⟨?_, fun ok => ?_⟩
      · rw [callDoc_alerted alerted, callDoc_alerted ((chan_modRx n _ s).1.trans alerted)]
      · unfold resetOk; rw [(chan_modRx n _ s).1, (chan_modRx n _ s).2]; exact ok
    · exact h
  · exact h

theorem expireWait_passes {X : Site} {n : LineNo} {k : WaitKind} {s s₁ : State} (h : expireWait n k s = some s₁) :
    Passes X s s₁ ∧ (lineAt s n).call ≠ none := by
  unfold expireWait at h
  obtain ⟨t, wait, rfl⟩ := Option.map_eq_some_iff.1 h
  refine ⟨(passes_advanceTo t s).trans (passes_setWait n none _), fun none => ?_⟩
  unfold waitOf at wait
  rw [none] at wait; cases wait

theorem storeOk_digitWindowExpiry {s t : State} (lines : LinesOk s) (h : StoreOk s) {n : LineNo}
    (e : execDigitWindowExpiry n s = .next t) : StoreOk t := by
  obtain rfl := Host.Outcome.next.inj e
  split
  · rename_i s₁ c expired rx
    obtain ⟨p, call⟩ := expireWait_passes expired
    split
    · exact h.passes p
    · refine storeOk_testAdmission (h.passes (p.trans (passes_modRx n _ s₁ (by intro; rfl)))) ?_ n
      exact p.phase.trans (opened_of_call lines call)
  · rename_i s₁ expired _
    exact h.passes (expireWait_passes expired).1
  · exact h

/-! ## Acknowledgments -/

theorem passes_sendNext {X : Site} {n : LineNo} {s : State} (chan : (lineAt s n).chan ≠ .releasing) : Passes X s (sendNext n s) := by
  cases tx : txOf (lineAt s n) with
  | none => unfold sendNext; rw [tx]; exact .refl _ _
  | some t => exact (sender_sendNext n s).passes (rxOf_of_tx tx) chan

theorem passes_endAttempt {X : Site} {n : LineNo} {s : State} (chan : (lineAt s n).chan ≠ .releasing) (o : AttemptOutcome)
    (cause : TxCause) (rel : Bool) : Passes X s (endAttempt n o cause rel s) := by
  cases tx : txOf (lineAt s n) with
  | none => unfold endAttempt; rw [tx]; exact .refl _ _
  | some t => exact (sender_endAttempt n o cause rel s).passes (rxOf_of_tx tx) chan

theorem storeOk_afterAck {s : State} (h : StoreOk s) (lines : (lineAt s n).chan ≠ .idle → opened s.part = true) (c : PortCommand) :
    StoreOk (afterAck n c s) := by
  unfold afterAck
  split
  · rename_i chan
    exact h.passes ((passes_setChan (.inl (by rw [chan]; rfl)) (by rw [chan]; simp)).trans (passes_startWait n _ _ _))
  · rename_i chan
    exact h.passes (passes_sendNext (by rw [chan]; simp))
  · rename_i chan
    exact h.passes ((passes_setChan (.inl (by rw [chan]; rfl)) (by rw [chan]; simp)).trans (passes_startWait n _ _ _))
  · rename_i r chan rx
    exact storeOk_afterVerdict h (lines (by rw [chan]; simp)) rx (by rw [chan]; rfl)
  · exact h

theorem storeOk_completeCommand {s : State} (lines : LinesOk s) (h : StoreOk s) (n : LineNo) : StoreOk (completeCommand n s) := by
  unfold completeCommand
  split
  · exact h
  · rename_i w rest _
    have taken : Passes noLine s (modLine n (fun l => { l with acks := rest }) s) := calm_modLine ⟨rfl, id⟩
    dsimp only
    split
    · exact h.passes taken
    · refine storeOk_afterAck (h.passes taken) (fun busy => ?_) w.command
      rw [lineAt_modLine_self] at busy
      show opened s.part = true
      exact opened_of_chan lines busy

theorem storeOk_commandAck {s t : State} (lines : LinesOk s) (h : StoreOk s) {n : LineNo} {acked : Acked}
    (e : execCommandAck n acked s = .next t) : StoreOk t := by
  obtain rfl := Host.Outcome.next.inj e
  have releasing (ne : (lineAt s n).reset ≠ .none) : (lineAt s n).chan = .releasing := (h.line n).2.2 ne
  split
  · exact h
  · split
    · exact h
    · rename_i reset
      unfold afterReset
      have stage : Passes noLine s (modLine n (fun l => { l with acks := [], reset := .awaitPresent }) s) :=
        calm_modLine ⟨rfl, fun _ _ => releasing (by rw [reset]; simp)⟩
      exact h.passes (stage.trans (passes_sendCmd n _ _))
    · exact h
    · exact h
    · rename_i reset
      have chan := releasing (by rw [reset]; simp)
      have cleared : Passes noLine s (modLine n (fun l => { l with acks := [] }) s) := calm_modLine ⟨rfl, id⟩
      refine h.passes (cleared.trans ((calm_returnToIdle ?_).trans (passes_mark _ _)))
      rw [lineAt_modLine_self]
      unfold callDoc; rw [chan]; rfl
    · exact h
    · exact storeOk_completeCommand lines h n

/-! ## Losses and releases -/

theorem storeOk_released {s t : State} (h : StoreOk s) {n : LineNo} (e : execReleased n s = .next t) : StoreOk t := by
  obtain rfl := Host.Outcome.next.inj e
  split
  · split
    · exact h
    · split
      · rename_i alerted; exact storeOk_endRinging h alerted
      · split
        · rename_i call
          obtain ⟨ok, none⟩ := okBut_endReceiving h .lost false call
          exact ok.returns none
        · rename_i quiet
          split
          · rename_i call
            obtain ⟨rx, chan⟩ := inSending_parts call
            have step := sender_endAttempt n .lineLost .lost false s
            refine h.passes ((step.passes rx chan).trans (calm_returnToIdle ?_))
            unfold callDoc; rw [step.rx rx]; simp
          · exact h.passes (calm_returnToIdle ((callDoc_none_iff _).2 (Bool.eq_false_iff.2 quiet)))
  · exact h

theorem storeOk_waitLost {s : State} (h : StoreOk s) {n : LineNo} {k : WaitKind} {s₁ : State} (expired : expireWait n k s = some s₁) :
    StoreOk (lineLost n s₁) := storeOk_lineLost (h.passes (expireWait_passes expired).1) n

/-! ## Page events -/

theorem storeOk_pageData {s t : State} (h : StoreOk s) {n : LineNo} {bytes : List Byte} (e : execPageData n bytes s = .next t) : StoreOk t := by
  obtain rfl := Host.Outcome.next.inj e
  split
  · rename_i takes
    obtain ⟨chan, -, -⟩ := takesIn_parts takes
    split
    · exact h
    · rename_i c rx
      refine StoreOk.passes ?_ (passes_startWait n _ _ _)
      split
      · rename_i k d doc found
        rw [doc, Option.bind_some] at found
        exact storeOk_receiveData h rx (by rw [chan]; rfl) doc found bytes
      · exact h
  · exact h

theorem storeOk_pageEnd {s t : State} (h : StoreOk s) {n : LineNo} {total bad : Nat} {last : Bool}
    (e : execPageEnd n total bad last s = .next t) : StoreOk t := by
  obtain rfl := Host.Outcome.next.inj e
  split
  · rename_i takes
    obtain ⟨chan, -, -⟩ := takesIn_parts takes
    split
    · exact h
    · rename_i c rx
      split
      · rename_i k d doc found
        rw [doc, Option.bind_some] at found
        exact storeOk_judgePage h rx (by rw [chan]; rfl) doc found total bad last
      · exact h
  · exact h

theorem storeOk_choice {s t : State} (h : StoreOk s) {n : LineNo} {step : Nat} {res : Resolution} {identity : Text}
    (e : execRemoteChoice n step res identity s = .next t) : StoreOk t := by
  obtain rfl := Host.Outcome.next.inj e
  split
  · exact h
  · rename_i c rx
    split
    · rename_i takes
      have chan : receivingChan (lineAt s n).chan = true := by
        unfold takesChoice at takes
        simp only [Bool.and_eq_true, Bool.or_eq_true, beq_iff_eq] at takes
        rcases takes.2 with e | ⟨e, -⟩ <;> rw [e] <;> rfl
      exact storeOk_remoteChoice h rx chan step res identity
    · exact h

theorem storeOk_trainingDone {s t : State} (h : StoreOk s) {n : LineNo} {step : Nat} {pass : Bool}
    (e : execTrainingDone n step pass s = .next t) : StoreOk t := by
  obtain rfl := Host.Outcome.next.inj e
  split
  · rename_i takes
    obtain ⟨chan, -, -⟩ := takesIn_parts takes
    split
    · rename_i c rx; exact storeOk_rxTrained h rx (by rw [chan]; rfl) step pass
    · rename_i t rx tx; exact h.passes ((sender_txTrained n t step pass s).passes rx (by rw [chan]; simp))
    · exact h
  · exact h

/-! ## Sending events -/

theorem storeOk_connected {s t : State} (h : StoreOk s) {n : LineNo} (e : execConnected n s = .next t) : StoreOk t := by
  obtain rfl := Host.Outcome.next.inj e
  split
  · rename_i takes
    obtain ⟨chan, -, -⟩ := takesIn_parts takes
    exact h.passes ((passes_setChan (.inl (by rw [chan]; rfl)) (by rw [chan]; simp)).trans (passes_startWait n _ _ _))
  · exact h

theorem storeOk_dialFailed {s t : State} (h : StoreOk s) {n : LineNo} {reason : DialFailure}
    (e : execDialFailed n reason s = .next t) : StoreOk t := by
  obtain rfl := Host.Outcome.next.inj e
  split
  · rename_i takes
    obtain ⟨chan, -, -⟩ := takesIn_parts takes
    exact h.passes (passes_endAttempt (by rw [chan]; simp) _ _ _)
  · exact h

theorem storeOk_remoteOffer {s t : State} (h : StoreOk s) {n : LineNo} {maxStep : Nat} {fine : Bool} {identity : Text}
    (e : execRemoteOffer n maxStep fine identity s = .next t) : StoreOk t := by
  obtain rfl := Host.Outcome.next.inj e
  split
  · rename_i takes
    obtain ⟨chan, -, -⟩ := takesIn_parts takes
    split
    · exact h
    · rename_i u tx
      split
      · exact h.passes (passes_endAttempt (by rw [chan]; simp) _ _ _)
      · exact h.passes ((sender_beginSending n u maxStep s).passes (rxOf_of_tx tx) (by rw [chan]; simp))
  · exact h

theorem storeOk_verdict {s t : State} (h : StoreOk s) {n : LineNo} {v : Verdict} (e : execVerdict n v s = .next t) : StoreOk t := by
  obtain rfl := Host.Outcome.next.inj e
  split
  · rename_i takes
    obtain ⟨chan, -, -⟩ := takesIn_parts takes
    split
    · exact h
    · rename_i u tx
      exact h.passes ((sender_takeVerdict n v u s).passes (rxOf_of_tx tx) (by rw [chan]; simp))
  · exact h

end Sys2Proof.Machine
end

section
/-! Every command keeps the law of the store's books. -/

namespace Sys2Proof.Machine

open Sys2Proof

theorem storeOk_of_next {s t : State} (e : (Host.Outcome.next s : Result State) = .next t) (h : StoreOk s) : StoreOk t :=
  Host.Outcome.next.inj e ▸ h

theorem passes_of_if {X : Site} {s t : State} {p : Prop} [Decidable p] (h : Passes X s t) : Passes X s (if p then t else s) := by
  split
  · exact h
  · exact .refl _ _

/-- Every command keeps the law of the store's books, one lemma for each. -/
theorem storeOk_exec {c : Instr} {s t : State} (lines : LinesOk s) (h : StoreOk s) (e : exec c s = .next t) : StoreOk t := by
  cases c with
  | powerOn strap =>
    refine storeOk_of_next e ?_
    split
    · exact storeOk_fresh _ _ _ _ _ _ rfl
    · exact storeOk_fresh _ _ _ _ _ _ rfl
  | resetPinAssert => exact storeOk_of_next e (storeOk_fresh _ _ _ _ _ _ rfl)
  | resetPinRelease strap =>
    refine storeOk_of_next e ?_
    split
    · exact storeOk_fresh _ _ _ _ _ _ rfl
    · exact storeOk_fresh _ _ _ _ _ _ rfl
  | powerFailure => exact storeOk_of_next e (storeOk_fresh _ _ _ _ _ _ rfl)
  | storeInitializationComplete => exact storeOk_initialization h e
  | frameReceived bytes =>
    refine storeOk_of_next e ?_
    split
    · exact h
    · exact h.passes (passes_receiveBytes bytes s)
  | byteGapTimeout =>
    exact storeOk_of_next e (h.passes (passes_of_if ((passes_advanceTo _ s).trans (passes_abandonFrame _))))
  | byteWithoutStopBit =>
    refine storeOk_of_next e ?_
    split
    · exact h.passes (passes_abandonFrame s)
    · exact h.passes (.same rfl rfl rfl rfl)
  | requestToSendChange active => exact storeOk_of_next e (h.passes (.same rfl rfl rfl rfl))
  | beginFrameSend => exact storeOk_beginFrameSend h e
  | unknownKindRequest tag kind => exact storeOk_of_next e (h.passes (passes_of_if (.same rfl rfl rfl rfl)))
  | setDepartment r dept name guarantee cap retention =>
    exact storeOk_of_next e (storeOk_takeRequest h (fun u hu _ => hu.passes (passes_setDepartment (hu.okBut noLine).1 ..)))
  | removeDepartment r dept =>
    exact storeOk_of_next e (storeOk_takeRequest h (fun u hu _ => hu.passes (passes_removeDepartment (hu.okBut noLine).1 ..)))
  | setRoute r key dept hold collect priority dests => exact storeOk_of_next e (storeOk_request h (fun u => passes_setRoute ..))
  | removeRoute r key => exact storeOk_of_next e (storeOk_request h (passes_removeRoute r.tag key))
  | setLine r line service outbound maxStep key => exact storeOk_of_next e (storeOk_request h (fun u => passes_setLine ..))
  | resetLine r line => exact storeOk_of_next e (storeOk_takeRequest h (fun u hu _ => storeOk_resetLine hu r.tag line))
  | readLineStatistics r line clear => exact storeOk_of_next e (storeOk_request h (passes_readLineStatistics r.tag line clear))
  | setPolicy r p =>
    exact storeOk_of_next e (storeOk_takeRequest h (fun u hu ready => storeOk_setPolicy hu (isReady_opened (ready (by simp))) r.tag p))
  | readStatus r =>
    refine storeOk_of_next e (storeOk_request h (fun u => ?_))
    split
    · exact .refl _ _
    · exact passes_respond ..
  | restart r => exact storeOk_restart h e
  | restartEnd => exact storeOk_restartEnd h e
  | setTime r sec ms => exact storeOk_of_next e (storeOk_request h (passes_setTime r.tag sec ms))
  | readJournal r seq => exact storeOk_of_next e (storeOk_request h (passes_readJournal r.tag seq.toNat))
  | releaseJournal r seq => exact storeOk_of_next e (storeOk_request h (passes_releaseJournal r.tag seq.toNat))
  | setNotices r line dept store journal integrity forward =>
    refine storeOk_of_next e (storeOk_request h (fun u => ?_))
    split
    · exact passes_setNotices ..
    · exact passes_respond ..
  | readLinkStatistics r clear => exact storeOk_of_next e (storeOk_request h (fun u => .same rfl rfl rfl rfl))
  | releaseHold r doc => exact storeOk_of_next e (storeOk_request h (passes_releaseHold r.tag doc))
  | discardDocument r doc => exact storeOk_of_next e (storeOk_takeRequest h (fun u hu _ => storeOk_discardDocument hu r.tag doc))
  | verifyDocument r doc => exact storeOk_of_next e (storeOk_request h (passes_verifyDocument r.tag doc))
  | verifyStep doc => exact storeOk_verifyStep h e
  | readDocument r doc firstPage =>
    refine storeOk_of_next e (storeOk_request h (fun u => ?_))
    split
    · exact passes_respond ..
    · exact passes_respond ..
  | listDocuments r dept filter start => exact storeOk_of_next e (storeOk_request h (passes_listDocuments r.tag dept filter start))
  | collect r dept timeout => exact storeOk_of_next e (storeOk_request h (passes_collect r.tag dept timeout))
  | acceptOffer r doc => exact storeOk_of_next e (storeOk_request h (passes_acceptOffer r.tag doc))
  | declineOffer r doc => exact storeOk_of_next e (storeOk_request h (passes_declineOffer r.tag doc))
  | abortTransfer r doc => exact storeOk_of_next e (storeOk_request h (passes_abortTransfer r.tag doc))
  | confirmCollected r doc => exact storeOk_of_next e (storeOk_request h (passes_confirmCollected r.tag doc))
  | addForward r doc digits => exact storeOk_of_next e (storeOk_request h (passes_addForward r.tag doc digits))
  | cancelForward r doc index => exact storeOk_of_next e (storeOk_request h (passes_cancelForward r.tag doc index))
  | resumeForwarding r => exact storeOk_of_next e (storeOk_request h (passes_resumeForwarding r.tag))
  | readJobs r doc start => exact storeOk_of_next e (storeOk_request h (passes_readJobs r.tag doc start))
  | readCallerMemory r index => exact storeOk_of_next e (storeOk_request h (fun u => passes_respond ..))
  | forgetCaller r number => exact storeOk_of_next e (storeOk_request h (passes_forgetCaller r.tag number))
  | readErrorRecords r serial => exact storeOk_of_next e (storeOk_request h (fun u => passes_respond ..))
  | ring n => exact storeOk_ring h e
  | ringEnd n =>
    refine storeOk_of_next e ?_
    split
    · rename_i takes; exact storeOk_endRinging h (takesIn_parts takes).1
    · exact h
  | digits n string complete => exact storeOk_digits h e
  | callingNumber n number => exact storeOk_of_next e (h.passes (passes_of_if (passes_modRx n _ s (by intro; rfl))))
  | digitWindowExpiry n => exact storeOk_digitWindowExpiry lines h e
  | commandAck n acked => exact storeOk_commandAck lines h e
  | ackLimitExpiry n =>
    refine storeOk_of_next e ?_
    split
    · exact h
    · exact storeOk_enterFault (h.passes (passes_advanceTo _ s)) n _
  | frontEndFault n =>
    refine storeOk_of_next e ?_
    split
    · exact storeOk_enterFault h n _
    · exact h
  | remoteChoice n step resolution identity => exact storeOk_choice h e
  | trainingDone n step pass => exact storeOk_trainingDone h e
  | pageData n bytes => exact storeOk_pageData h e
  | pageEnd n total bad last => exact storeOk_pageEnd h e
  | carrierLost n =>
    refine storeOk_of_next e ?_
    split
    · exact storeOk_lineLost h n
    · exact h
  | released n => exact storeOk_released h e
  | receiverSignalWaitExpiry n =>
    refine storeOk_of_next e ?_
    split
    · rename_i expired; exact storeOk_waitLost h expired
    · exact h
  | pageWaitExpiry n =>
    refine storeOk_of_next e ?_
    split
    · rename_i expired; exact storeOk_waitLost h expired
    · exact h
  | releaseWaitExpiry n =>
    refine storeOk_of_next e ?_
    split
    · rename_i expired; exact storeOk_enterFault (h.passes (expireWait_passes expired).1) n _
    · exact h
  | dialWaitExpiry n =>
    refine storeOk_of_next e ?_
    split
    · rename_i expired; exact storeOk_waitLost h expired
    · exact h
  | senderWaitExpiry n =>
    refine storeOk_of_next e ?_
    split
    · rename_i expired; exact storeOk_waitLost h expired
    · exact h
  | connected n => exact storeOk_connected h e
  | dialFailed n reason => exact storeOk_dialFailed h e
  | remoteOffer n maxStep fine identity => exact storeOk_remoteOffer (identity := identity) h e
  | verdict n v => exact storeOk_verdict h e
  | attemptOutcome a => exact storeOk_attemptOutcome h e
  | callerClassification number cls => exact storeOk_of_next e (h.passes (passes_of_if (.same rfl rfl rfl rfl)))
  | jobDue job =>
    refine storeOk_of_next e ?_
    split
    · split
      · exact h
      · exact h.passes ((passes_advanceTo _ s).trans (passes_oweRun _))
    · exact h
  | arbiterRun =>
    have run : Passes noLine s { s with fwd.runOwed := false } := .same rfl rfl rfl rfl
    exact storeOk_of_next e (h.passes (run.trans (passes_arbiterTests _ _)))
  | collectExpiry tag =>
    refine storeOk_of_next e ?_
    split
    · exact h
    · exact h.passes (.same rfl rfl rfl rfl)
  | documentJoinsReadyQueue doc =>
    refine storeOk_of_next e ?_
    split
    · exact h.passes (passes_of_if (passes_joinReady doc s))
    · exact h
  | offerWindowExpiry doc =>
    refine storeOk_of_next e ?_
    split
    · exact h
    · exact h.passes ((passes_advanceTo _ s).trans (passes_declineOpen doc _))
  | retentionExpiry doc => exact storeOk_retentionExpiry h e
  | spontaneousAppend content => exact storeOk_of_next e (h.passes (passes_of_if (passes_append content s)))
  | calendarClockLimit => exact storeOk_of_next e (h.passes (passes_of_if (.same rfl rfl rfl rfl)))

theorem passes_idle {X : Site} (s : State) : Passes X s (idle s) := by
  unfold idle
  split
  · exact .refl _ _
  · split
    · exact .same rfl rfl rfl rfl
    · exact .same rfl rfl rfl rfl

/-- Every step keeps the law of the store's books. -/
theorem storeOk_step {s t : State} (lines : LinesOk s) (h : StoreOk s) (e : step s = .next t) : StoreOk t := by
  unfold step at e
  split at e
  · exact storeOk_of_next e (h.passes (passes_idle s))
  · rename_i c rest _
    exact storeOk_exec (s := { s with pending := rest }) lines (h.passes (.same rfl rfl rfl rfl)) e

end Sys2Proof.Machine
end

section
/-! The spare set and the retired list hold 64 blocks together through every step (R197). -/

namespace Sys2Proof.Machine

open Sys2Proof

/-- The blocks of the spare set and the retired list. -/
def spareTotal (st : PageStore) : Nat := st.spares.length + st.retired.length

theorem spareTotal_of_shelf {st st' : PageStore} (h : shelf st' = shelf st) : spareTotal st' = spareTotal st :=
  congrArg (fun sh => sh.spares.length + sh.retired.length) h

/-! ## Operations -/

@[simp] theorem spareTotal_retireCheck (b : Block) (s : State) : spareTotal (retireCheck b s).store = spareTotal s.store := by
  unfold retireCheck
  split
  · rfl
  · rename_i sp rest spares _
    simp only [spareTotal, mark_store, spares, List.length_append, List.length_cons, List.length_nil]; omega
  · dsimp only; split <;> rfl

@[simp] theorem spareTotal_freeBlocks (d : Dept) (bs : List Block) (s : State) :
    spareTotal (freeBlocks d bs s).store = spareTotal s.store :=
  foldl_keeps (freeBlock d) (fun s => spareTotal s.store) (fun t b => spareTotal_retireCheck b t) bs s

@[simp] theorem spareTotal_evalPressure (s : State) : spareTotal (evalPressure s).store = spareTotal s.store :=
  spareTotal_of_shelf (shelf_evalPressure s)

@[simp] theorem spareTotal_append (content : JournalContent) (s : State) :
    spareTotal (append content s).1.store = spareTotal s.store := by rw [append_store]

@[simp] theorem spareTotal_setAcct (d : Dept) (f : Account → Account) (s : State) :
    spareTotal (setAcct d f s).store = spareTotal s.store := rfl

@[simp] theorem spareTotal_setAllotment (n : LineNo) (a : Allotment) (s : State) :
    spareTotal (setAllotment n a s).store = spareTotal s.store := rfl

@[simp] theorem spareTotal_purgeDoc (n : Nat) (s : State) : spareTotal (purgeDoc n s).store = spareTotal s.store := by
  unfold purgeDoc
  split
  · rfl
  · simp

@[simp] theorem spareTotal_purgeEvent (n : Nat) (s : State) : spareTotal (purgeEvent n s).store = spareTotal s.store := by
  unfold purgeEvent; simp

@[simp] theorem spareTotal_purgeIfPassed (n : Nat) (s : State) : spareTotal (purgeIfPassed n s).store = spareTotal s.store := by
  unfold purgeIfPassed; (repeat' split) <;> simp

theorem spareTotal_rounds {s t : State} {d : Dept} {k : Nat} (rounds : Relation.ReflTransGen (ReclaimRound d k) s t) :
    spareTotal t.store = spareTotal s.store :=
  ReclaimRound.keeps rounds (P := fun t => spareTotal t.store = spareTotal s.store)
    (fun u m _ hu => (spareTotal_purgeDoc m u).trans hu) rfl

@[simp] theorem spareTotal_reserve (n : LineNo) (d : Dept) (k : Nat) (s : State) :
    spareTotal (reserve n d k s).1.store = spareTotal s.store := by
  obtain ⟨u, rounds, ⟨e, -⟩ | ⟨cause, e, -⟩⟩ := reserve_cases n d k s <;> rw [e, ← spareTotal_rounds rounds]
  · simp [reserved]
  · simp [allocFailed]

@[simp] theorem spareTotal_topUp (n : LineNo) (d : Dept) (s : State) : spareTotal (topUp n d s).store = spareTotal s.store := by
  unfold topUp; dsimp only; split <;> simp

@[simp] theorem spareTotal_releaseAllotment (n : LineNo) (s : State) : spareTotal (releaseAllotment n s).store = spareTotal s.store := by
  unfold releaseAllotment; split <;> simp

@[simp] theorem spareTotal_drawBlock (n : LineNo) (d : Dept) (held : Nat) (s : State) :
    spareTotal (drawBlock n d held s).1.store = spareTotal s.store := by
  unfold drawBlock
  split
  · rfl
  · split
    · split
      · rfl
      · rw [spareTotal_evalPressure]; rfl
    · obtain ⟨u, rounds, ⟨e, -⟩ | ⟨cause, e, -⟩⟩ := allocTest_cases d 1 s <;> rw [e, ← spareTotal_rounds rounds]
      · dsimp only; split
        · simp
        · rw [spareTotal_evalPressure]; rfl
      · simp [allocFailed]

theorem takeSlot_spareTotal (s : State) (p : State × Nat) (h : takeSlot s = some p) : spareTotal p.1.store = spareTotal s.store := by
  obtain ⟨-, t, same, rfl | ⟨m, -, rfl⟩⟩ := takeSlot_some (s₁ := p.1) (number := p.2) h
  · rw [same]
  · rw [same]; exact spareTotal_purgeEvent m s

@[simp] theorem joinReady_store (n : Nat) (s : State) : (joinReady n s).store = s.store := by rw [joinReady_frame]

@[simp] theorem becomeDue_store (n : Nat) (s : State) : (becomeDue n s).store = s.store := by rw [becomeDue_frame]

@[simp] theorem fallback_store (n : Nat) (s : State) : (fallback n s).store = s.store := by rw [fallback_frame]

@[simp] theorem declineOpen_store (n : Nat) (s : State) : (declineOpen n s).store = s.store := by
  unfold declineOpen; simp

@[simp] theorem spareTotal_settle (n : Nat) (s : State) : spareTotal (settle n s).store = spareTotal s.store := by
  unfold settle; dsimp only; (repeat' split) <;> simp

@[simp] theorem spareTotal_endEntry (n i : Nat) (state : ForwardState) (result : ForwardResult) (s : State) :
    spareTotal (endEntry n i state result s).store = spareTotal s.store := by
  unfold endEntry; dsimp only; split <;> simp

@[simp] theorem addJob_store (n i : Nat) (dest : Text) (urgent : Bool) (s : State) : (addJob n i dest urgent s).1.store = s.store := rfl

@[simp] theorem spareTotal_createJob (n i : Nat) (dest : Text) (urgent : Bool) (s : State) :
    spareTotal (createJob n i dest urgent s).store = spareTotal s.store := by
  unfold createJob; split <;> simp

@[simp] theorem spareTotal_openForwards (n : Nat) (urgent : Bool) (i : Nat) (dests : List Text) (s : State) :
    spareTotal (openForwards n urgent i dests s).store = spareTotal s.store := by
  induction dests generalizing i s with
  | nil => rfl
  | cons d ds ih => unfold openForwards; simp [ih]

@[simp] theorem spareTotal_enterOpen (n : Nat) (s : State) : spareTotal (enterOpen n s).store = spareTotal s.store := by
  unfold enterOpen; dsimp only; (repeat' split) <;> simp

@[simp] theorem closeGroup_store (l : Landing) (s : State) : (closeGroup l s).store = s.store := by rw [closeGroup_frame]

@[simp] theorem spareTotal_freeLanding (n : Nat) (s : State) : spareTotal (freeLanding n s).store = spareTotal s.store := by
  unfold freeLanding; (repeat' split) <;> simp

@[simp] theorem spareTotal_landDocument (n : Nat) (o : ReceiptOutcome) (s : State) :
    spareTotal (landDocument n o s).store = spareTotal s.store := by
  unfold landDocument; dsimp only; (repeat' split) <;> simp

@[simp] theorem spareTotal_endDocument (n : Nat) (o : ReceiptOutcome) (s : State) :
    spareTotal (endDocument n o s).store = spareTotal s.store := by
  unfold endDocument dropEmpty; dsimp only; (repeat' split) <;> simp

theorem continueDoc_spareTotal (a : Nat) (s : State) (p : State × Nat) (h : continueDoc a s = some p) :
    spareTotal p.1.store = spareTotal s.store := by
  unfold continueDoc at h
  split at h
  · cases h
  · obtain ⟨q, slot, rfl⟩ := Option.map_eq_some_iff.1 h
    simpa using takeSlot_spareTotal s q slot

@[simp] theorem lookupCaller_store (number : Text) (s : State) : (lookupCaller number s).1.store = s.store := by
  unfold lookupCaller; split <;> rfl

@[simp] theorem applyPending_store (n : LineNo) (s : State) : (applyPending n s).store = s.store := by
  unfold applyPending; split <;> rfl

@[simp] theorem returnToIdle_store (n : LineNo) (s : State) : (returnToIdle n s).store = s.store := by
  unfold returnToIdle; simp

@[simp] theorem spareTotal_endReceiving (n : LineNo) (e : RxEnd) (rel : Bool) (s : State) :
    spareTotal (endReceiving n e rel s).store = spareTotal s.store := by
  unfold endReceiving; dsimp only; (repeat' split) <;> simp

@[simp] theorem endAttempt_store (n : LineNo) (o : AttemptOutcome) (cause : TxCause) (rel : Bool) (s : State) :
    (endAttempt n o cause rel s).store = s.store := by
  unfold endAttempt; dsimp only; (repeat' split) <;> simp

@[simp] theorem releaseAttempt_store (n : LineNo) (s : State) : (releaseAttempt n s).store = s.store := by
  unfold releaseAttempt; split <;> simp

@[simp] theorem spareTotal_endByFault (n : LineNo) (e : RxEnd) (s : State) : spareTotal (endByFault n e s).store = spareTotal s.store := by
  unfold endByFault; (repeat' split) <;> simp

@[simp] theorem spareTotal_enterFault (n : LineNo) (cause : FaultCause) (s : State) :
    spareTotal (enterFault n cause s).store = spareTotal s.store := by
  unfold enterFault; simp

@[simp] theorem spareTotal_lineLost (n : LineNo) (s : State) : spareTotal (lineLost n s).store = spareTotal s.store := by
  unfold lineLost; (repeat' split) <;> simp

@[simp] theorem spareTotal_refuseCall (n : LineNo) (c : RxCall) (reason : Option RefusedReason) (s : State) :
    spareTotal (refuseCall n c reason s).store = spareTotal s.store := by
  unfold refuseCall; dsimp only; split <;> simp

@[simp] theorem sendOffer_store (n : LineNo) (c : RxCall) (s : State) : (sendOffer n c s).store = s.store := by
  unfold sendOffer; dsimp only; split <;> simp

@[simp] theorem spareTotal_admission (n : LineNo) (s : State) : spareTotal (admission n s).store = spareTotal s.store := by
  unfold admission
  split
  · rfl
  · dsimp only
    split
    · simp
    · split
      · simp
      · rename_i t m slot
        have taken := takeSlot_spareTotal _ _ slot
        split <;>
          (rename_i made; have := congrArg (fun q => spareTotal q.1.store) made; simp at taken this; simp [← this, taken])

@[simp] theorem spareTotal_testAdmission (n : LineNo) (s : State) : spareTotal (testAdmission n s).store = spareTotal s.store := by
  unfold testAdmission; (repeat' split) <;> simp

@[simp] theorem spareTotal_readSpan (reader : Reader) (doc : Nat) (pg : Page) (off size : Nat) (s : State) :
    spareTotal (readSpan reader doc pg off size s).1.store = spareTotal s.store := spareTotal_of_shelf (readSpan_books ..).1

@[simp] theorem spareTotal_sendNext (n : LineNo) (s : State) : spareTotal (sendNext n s).store = spareTotal s.store :=
  spareTotal_of_shelf (sender_sendNext n s).store

/-! ## What every command keeps -/

/-- A command keeps the spare and the retired blocks together, and the store open or closed. -/
def Kept (s t : State) : Prop := opened t.part = opened s.part ∧ spareTotal t.store = spareTotal s.store

theorem Kept.trans {s t u : State} (h : Kept s t) (k : Kept t u) : Kept s u := ⟨k.1.trans h.1, k.2.trans h.2⟩

theorem kept_refl (s : State) : Kept s s := ⟨rfl, rfl⟩

theorem kept_respond (tag : Byte) (k : ReqKind) (st : Status) (c : Content) (s : State) : Kept s (respond tag k st c s) := ⟨rfl, rfl⟩

theorem kept_takeRequest {r : Envelope} {k : ReqKind} {own : State → State} {s : State}
    (owns : ∀ t, (k ≠ .readStatus → isReady t = true) → Kept t (own t)) : Kept s (takeRequest r k own s) := by
  unfold takeRequest
  split
  · rename_i takes
    dsimp only
    split
    · exact ⟨rfl, rfl⟩
    · split
      · exact ⟨rfl, rfl⟩
      · rename_i late
        refine Kept.trans (t := takeFrame r.tag s) ⟨rfl, rfl⟩ (owns _ (fun hk => ?_))
        unfold takesRequests at takes
        simp only [Bool.and_eq_true, Bool.or_eq_true, beq_iff_eq] at takes
        have : s.part.phase ≠ some .starting := fun e => late ⟨e, hk⟩
        show (s.part.phase == some .ready) = true
        rw [takes.1.1.resolve_left this]; rfl
  · exact kept_refl s

theorem kept_request {r : Envelope} {k : ReqKind} {own : State → State} {s : State} (owns : ∀ t, Kept t (own t)) :
    Kept s (takeRequest r k own s) := kept_takeRequest (fun t _ => owns t)

/-! ## Requests -/

theorem kept_setDepartment (tag : Byte) (dept : Nat) (name : Text) (guarantee cap retention : Nat) (s : State) :
    Kept s (setDepartment tag dept name guarantee cap retention s) := by
  unfold setDepartment markPoolChange; dsimp only; (repeat' split) <;> simp [Kept]

theorem kept_removeDepartment (tag : Byte) (dept : Nat) (s : State) : Kept s (removeDepartment tag dept s) := by
  unfold removeDepartment markPoolChange; dsimp only; (repeat' split) <;> simp [Kept]

theorem kept_setRoute (tag : Byte) (key : Text) (dept : Nat) (hold collect : Option Bool) (priority : Option Priority) (dests : List Text)
    (s : State) : Kept s (setRoute tag key dept hold collect priority dests s) := by
  unfold setRoute; dsimp only; (repeat' split) <;> simp [Kept]

theorem kept_removeRoute (tag : Byte) (key : Text) (s : State) : Kept s (removeRoute tag key s) := by
  unfold removeRoute; dsimp only; (repeat' split) <;> simp [Kept]

theorem kept_setLine (tag : Byte) (line : Nat) (service : Option ServiceRequest) (outbound : Option Bool) (maxStep : Nat)
    (key : Option Text) (s : State) : Kept s (setLine tag line service outbound maxStep key s) := by
  unfold setLine applySettings applyService; dsimp only; (repeat' split) <;> simp [Kept]

theorem kept_resetLine (tag : Byte) (line : Nat) (s : State) : Kept s (resetLine tag line s) := by
  unfold resetLine beginReset; dsimp only; (repeat' split) <;> simp [Kept]

theorem kept_readLineStatistics (tag : Byte) (line : Nat) (clear : Bool) (s : State) : Kept s (readLineStatistics tag line clear s) := by
  unfold readLineStatistics; (repeat' split) <;> simp [Kept]

theorem kept_testAdmissions (ns : List LineNo) (s : State) : Kept s (ns.foldl (fun t n => testAdmission n t) s) :=
  ⟨congrArg opened (foldl_keeps _ State.part (fun t n => testAdmission_part n t) ns s),
    foldl_keeps _ (fun s => spareTotal s.store) (fun t n => spareTotal_testAdmission n t) ns s⟩

theorem kept_setPolicy (tag : Byte) (p : PolicyRequest) (s : State) : Kept s (setPolicy tag p s) := by
  unfold setPolicy
  split
  · exact kept_respond ..
  · dsimp only
    refine Kept.trans ?_ (kept_respond ..)
    split
    · refine Kept.trans ?_ (kept_testAdmissions allLines _)
      split <;> split <;> exact ⟨rfl, rfl⟩
    · split <;> split <;> exact ⟨rfl, rfl⟩

theorem kept_setTime (tag : Byte) (sec : BitVec 32) (ms : Nat) (s : State) : Kept s (setTime tag sec ms s) := by
  unfold setTime; dsimp only; (repeat' split) <;> simp [Kept]

theorem kept_readJournal (tag : Byte) (n : Nat) (s : State) : Kept s (readJournal tag n s) := by
  unfold readJournal; dsimp only; (repeat' split) <;> simp [Kept]

theorem kept_releaseJournal (tag : Byte) (n : Nat) (s : State) : Kept s (releaseJournal tag n s) := by
  unfold releaseJournal; dsimp only; (repeat' split) <;> simp [Kept]

theorem kept_releaseHold (tag : Byte) (n : Nat) (s : State) : Kept s (releaseHold tag n s) := by
  unfold releaseHold; (repeat' split) <;> simp [Kept]

theorem spareTotal_cancelPending (d : Document) (s : State) : spareTotal (cancelPending d s).store = spareTotal s.store :=
  (foldl_keeps (cancelEntry d.number) (fun s => spareTotal s.store) (fun t p => by unfold cancelEntry; simp) _ _).trans rfl

theorem kept_discardDocument (tag : Byte) (n : Nat) (s : State) : Kept s (discardDocument tag n s) := by
  unfold discardDocument; dsimp only; (repeat' split) <;> simp [Kept, spareTotal_cancelPending]

theorem kept_verifyDocument (tag : Byte) (n : Nat) (s : State) : Kept s (verifyDocument tag n s) := by
  unfold verifyDocument; dsimp only; (repeat' split) <;> simp [Kept]

theorem kept_listDocuments (tag : Byte) (dept : Nat) (filter : Option LifeFilter) (start : Nat) (s : State) :
    Kept s (listDocuments tag dept filter start s) := by
  unfold listDocuments; dsimp only; (repeat' split) <;> simp [Kept]

theorem kept_collect (tag : Byte) (dept timeout : Nat) (s : State) : Kept s (collect tag dept timeout s) := by
  unfold collect waitCollect makeOffer; (repeat' split) <;> simp [Kept]

theorem spareTotal_prepareNext (s : State) : spareTotal (prepareNext s).store = spareTotal s.store := by
  have frames (fuel : Nat) (s : State) : spareTotal (prepareFrame fuel s).store = spareTotal s.store := by
    induction fuel generalizing s with
    | zero => rfl
    | succ k ih =>
      unfold prepareFrame
      split
      · rfl
      · rename_i t _
        split
        · rfl
        · split
          · rfl
          · rename_i p _
            dsimp only
            split
            · exact ih _
            · have read := spareTotal_readSpan .transfer t.doc p t.offset chunkBytes s
              generalize readSpan .transfer t.doc p t.offset chunkBytes s = q at read
              obtain ⟨s1, data⟩ := q
              cases data with
              | none => exact (ih _).trans read
              | some bytes => exact read
  unfold prepareNext; split <;> simp [frames]

theorem kept_acceptOffer (tag : Byte) (doc : Nat) (s : State) : Kept s (acceptOffer tag doc s) := by
  unfold acceptOffer openTransfer; dsimp only; (repeat' split) <;> simp [Kept, spareTotal_prepareNext]

theorem kept_declineOffer (tag : Byte) (doc : Nat) (s : State) : Kept s (declineOffer tag doc s) := by
  unfold declineOffer; (repeat' split) <;> simp [Kept]

theorem kept_abortTransfer (tag : Byte) (doc : Nat) (s : State) : Kept s (abortTransfer tag doc s) := by
  unfold abortTransfer; dsimp only; (repeat' split) <;> simp [Kept]

theorem kept_confirmCollected (tag : Byte) (doc : Nat) (s : State) : Kept s (confirmCollected tag doc s) := by
  unfold confirmCollected; dsimp only; (repeat' split) <;> simp [Kept]

theorem kept_addForward (tag : Byte) (doc : Nat) (digits : Text) (s : State) : Kept s (addForward tag doc digits s) := by
  unfold addForward reopen; dsimp only; (repeat' split) <;> simp [Kept]

theorem kept_cancelJob (j : Job) (s : State) : Kept s (cancelJob j s) := by
  unfold cancelJob releaseCall; (repeat' split) <;> simp [Kept]

theorem kept_cancelForward (tag : Byte) (doc index : Nat) (s : State) : Kept s (cancelForward tag doc index s) := by
  have ended (t : State) : Kept t (endEntry doc index .cancelled .cancelled t) := by simp [Kept]
  unfold cancelForward
  split
  · exact kept_respond ..
  · split
    · exact kept_respond ..
    · split
      · exact kept_respond ..
      · split
        · exact kept_respond ..
        · refine Kept.trans (Kept.trans ?_ (ended _)) (kept_respond ..)
          split
          · exact kept_cancelJob _ s
          · exact kept_refl s

theorem kept_resumeForwarding (tag : Byte) (s : State) : Kept s (resumeForwarding tag s) := by
  unfold resumeForwarding; dsimp only; split <;> simp [Kept]

theorem kept_readJobs (tag : Byte) (doc start : Nat) (s : State) : Kept s (readJobs tag doc start s) := by
  unfold readJobs; split <;> simp [Kept]

theorem kept_forgetCaller (tag : Byte) (number : Text) (s : State) : Kept s (forgetCaller tag number s) := by
  unfold forgetCaller; (repeat' split) <;> simp [Kept]

/-! ## Restart -/

theorem kept_restartCollect (s : State) : Kept s (restartCollect s) := by
  have withdrawn (os : List Offer) (t : State) : (os.foldl withdrawOffer t).store = t.store ∧ (os.foldl withdrawOffer t).part = t.part :=
    ⟨foldl_keeps withdrawOffer State.store (fun t o => becomeDue_store o.doc t) os t,
      foldl_keeps withdrawOffer State.part (fun t o => becomeDue_part o.doc t) os t⟩
  unfold restartCollect modTally
  dsimp only
  (repeat' split) <;> simp [Kept, withdrawn, opened]

theorem kept_restartLine (s : State) (n : LineNo) : Kept s (restartLine s n) := by
  unfold restartLine modTally; dsimp only; (repeat' split) <;> simp [Kept, opened]

theorem kept_foldl {α : Type} {f : State → α → State} (h : ∀ s x, Kept s (f s x)) (xs : List α) (s : State) : Kept s (xs.foldl f s) := by
  induction xs generalizing s with
  | nil => exact kept_refl s
  | cons x xs ih => exact (h s x).trans (ih _)

theorem kept_purges (ns : List Nat) (s : State) : Kept s (ns.foldl (fun t n => purgeIfPassed n t) s) :=
  kept_foldl (fun t n => by simp [Kept]) ns s

theorem kept_restartVerifications (s : State) : Kept s (restartVerifications s) := by
  unfold restartVerifications modTally
  dsimp only
  refine Kept.trans (Kept.trans ?_ (kept_foldl (fun t n => by simp [Kept]) _ _)) (kept_purges _ _)
  exact ⟨rfl, rfl⟩

theorem kept_restartForwarding (s : State) : Kept s (restartForwarding s) := ⟨rfl, rfl⟩

theorem kept_restart (r : Envelope) (s : State) (ready : isReady s = true) :
    Kept s (restartForwarding (restartVerifications (allLines.foldl restartLine (restartCollect (restartLink r.tag s))))) := by
  have linked : Kept s (restartLink r.tag s) := ⟨(isReady_opened ready).symm ▸ rfl, rfl⟩
  exact linked.trans ((kept_restartCollect _).trans ((kept_foldl kept_restartLine _ _).trans
    ((kept_restartVerifications _).trans (kept_restartForwarding _))))

/-! ## Events -/

theorem kept_scan (fuel : Nat) (buf : List Byte) (s : State) : Kept s (scan fuel buf s) := by
  have completed (f : Frame) (s : State) : Kept s (completeFrame f s) := by
    unfold completeFrame; dsimp only; (repeat' split) <;> simp [Kept, opened]
  induction fuel, buf, s using scan.induct with
  | case1 => exact ⟨rfl, rfl⟩
  | case2 => exact ⟨rfl, rfl⟩
  | case3 => unfold scan; exact ⟨rfl, rfl⟩
  | case4 k x y rest s h ih => unfold scan; rw [if_pos h]; exact ih
  | case5 k x y s h lo hi body n excess ih =>
    unfold scan; rw [if_neg h]; dsimp only; rw [if_pos excess]; exact ih
  | case6 k x y s h lo hi body n excess short =>
    unfold scan; rw [if_neg h]; dsimp only; rw [if_neg excess, if_pos short]; exact ⟨rfl, rfl⟩
  | case7 k x y s h lo hi body n excess short checked check good ih =>
    unfold scan; rw [if_neg h]; dsimp only; rw [if_neg excess, if_neg short, if_pos good]; exact (completed _ _).trans ih
  | case8 k x y s h lo hi body n excess short checked check bad ih =>
    unfold scan; rw [if_neg h]; dsimp only; rw [if_neg excess, if_neg short, if_neg bad]; exact ih
  | case9 k x y rest s h other =>
    unfold scan; rw [if_neg h]
    split
    · exact absurd rfl (other _ _ _)
    · exact ⟨rfl, rfl⟩

end Sys2Proof.Machine
end

section
/-! Every step keeps the spare and the retired blocks at 64 together, and the law of the store's books. -/

namespace Sys2Proof.Machine

open Sys2Proof

theorem SenderStep.kept {n : LineNo} {s t : State} (h : SenderStep n s t) : Kept s t := ⟨h.part, spareTotal_of_shelf h.store⟩

theorem kept_of_if {s t : State} {p : Prop} [Decidable p] (h : Kept s t) : Kept s (if p then t else s) := by
  split
  · exact h
  · exact kept_refl s

/-! ## Events -/

theorem kept_receiveBytes (bytes : List Byte) (s : State) : Kept s (receiveBytes bytes s) := by
  unfold receiveBytes
  refine Kept.trans ?_ (kept_scan _ _ _)
  dsimp only
  split <;> exact ⟨rfl, rfl⟩

theorem kept_beginTransferFrame (f : TransferFrame) (s : State) : Kept s (beginTransferFrame f s) := by
  have next (t : State) : Kept t (prepareNext t) := ⟨by rw [prepareNext_part], spareTotal_prepareNext t⟩
  have begun : Kept s (raiseSendCount (putOnLine (.transfer s.link.sendCount f) { s with link.waiting := none })) := ⟨rfl, rfl⟩
  unfold beginTransferFrame
  refine begun.trans ?_
  dsimp only
  split
  · exact next _
  · unfold closeTransfer; dsimp only; split <;> exact ⟨rfl, rfl⟩
  · exact kept_refl _

theorem kept_beginFrameSend {s t : State} (e : execBeginFrameSend s = .next t) : Kept s t := by
  obtain rfl := Host.Outcome.next.inj e
  split
  · exact kept_refl s
  · split
    · exact ⟨rfl, rfl⟩
    · split
      · exact ⟨rfl, rfl⟩
      · split
        · exact kept_beginTransferFrame _ s
        · exact kept_refl s

theorem kept_restartEnd {s t : State} (e : execRestartEnd s = .next t) : Kept s t := by
  obtain rfl := Host.Outcome.next.inj e
  split
  · rename_i phase
    have closed : opened s.part = true := by unfold opened; rw [phase]; rfl
    have appended := spareTotal_append (.restart (satSucc maxNumber s.part.restarts))
      { s with part.restarts := satSucc maxNumber s.part.restarts }
    dsimp only
    generalize append (.restart (satSucc maxNumber s.part.restarts)) { s with part.restarts := satSucc maxNumber s.part.restarts } = p
      at appended
    obtain ⟨s2, seq⟩ := p
    dsimp only at appended ⊢
    have ready : Kept s { s2 with part.cause := .restartRequest, part.phase := some .ready, part.tally := none } := ⟨closed.symm, appended⟩
    have ended := ready.trans (kept_purges s2.dir.reclaim _)
    split
    · exact ended
    · exact ended.trans (kept_respond ..)
  · exact kept_refl s

theorem kept_endVerification (v : Verification) (s : State) : Kept s (endVerification v s) := by
  unfold endVerification; dsimp only; split <;> simp [Kept]

theorem kept_afterStretch (v : Verification) (pages : Nat) (s : State) : Kept s (afterStretch v pages s) := by
  unfold afterStretch
  split
  · exact kept_endVerification v s
  · exact ⟨rfl, rfl⟩

theorem kept_readSpan (reader : Reader) (doc : Nat) (pg : Page) (off size : Nat) (s : State) :
    Kept s (readSpan reader doc pg off size s).1 := by simp [Kept]

theorem kept_verifyStep {s t : State} {doc : Nat} (e : execVerifyStep doc s = .next t) : Kept s t := by
  obtain rfl := Host.Outcome.next.inj e
  split
  · rename_i v d _ _
    split
    · exact kept_endVerification v s
    · rename_i p _
      have read := kept_readSpan .verify doc p v.offset chunkBytes s
      generalize readSpan .verify doc p v.offset chunkBytes s = q at read
      obtain ⟨s1, data⟩ := q
      cases data with
      | none => exact read.trans (kept_afterStretch _ _ s1)
      | some bytes =>
        dsimp only
        split
        · exact read.trans (kept_afterStretch _ _ s1)
        · exact read
  · exact kept_refl s

theorem kept_takeOutcome (j : Job) (a : AttemptEnd) (s : State) : Kept s (takeOutcome j a s) := by
  unfold takeOutcome endJob countAttempt; dsimp only; split <;> simp [Kept]

theorem kept_arbiterTests (k : Nat) (s : State) : Kept s (arbiterTests k s) := by
  induction k generalizing s with
  | zero => exact kept_refl s
  | succ k ih =>
    unfold arbiterTests
    cases test : arbiterTest s with
    | none => exact kept_refl s
    | some s1 =>
      refine Kept.trans ?_ (ih s1)
      unfold arbiterTest at test
      split at test
      · split at test
        · obtain rfl := Option.some.inj test
          split <;> exact ⟨rfl, rfl⟩
        · cases test
      · cases test

/-! ## Lines -/

theorem kept_testAdmission (n : LineNo) (s : State) : Kept s (testAdmission n s) := by simp [Kept]

theorem kept_ring {s t : State} {n : LineNo} (e : execRing n s = .next t) : Kept s t := by
  obtain rfl := Host.Outcome.next.inj e
  split
  · split
    · split
      · exact Kept.trans ⟨rfl, rfl⟩ (kept_testAdmission n _)
      · exact kept_refl s
    · exact Kept.trans ⟨rfl, rfl⟩ (kept_testAdmission n _)
    · exact kept_of_if (sender_glareRing n _ s).kept
    · exact kept_refl s
  · exact kept_refl s

theorem kept_expireWait {n : LineNo} {k : WaitKind} {s s₁ : State} (h : expireWait n k s = some s₁) : Kept s s₁ := by
  obtain ⟨t, -, rfl⟩ := Option.map_eq_some_iff.1 h
  exact ⟨rfl, rfl⟩

theorem kept_endReceiving (n : LineNo) (e : RxEnd) (rel : Bool) (s : State) : Kept s (endReceiving n e rel s) := by simp [Kept]

theorem kept_awaitPage (n : LineNo) (s : State) : Kept s (awaitPage n s) := ⟨rfl, rfl⟩

theorem kept_pageLimit (n : LineNo) (doc : Nat) (s : State) : Kept s (pageLimit n doc s) := by
  unfold pageLimit
  split
  · exact kept_endReceiving ..
  · split
    · rename_i p b made
      have continued : Kept s p := ⟨congrArg opened (continueDoc_part _ _ _ made), continueDoc_spareTotal _ _ _ made⟩
      exact continued.trans ⟨rfl, rfl⟩
    · exact kept_endReceiving ..

theorem kept_afterVerdict (n : LineNo) (c : RxCall) (s : State) : Kept s (afterVerdict n c s) := by
  unfold afterVerdict
  (repeat' split) <;> simp only [kept_endReceiving, kept_awaitPage, kept_pageLimit]

theorem kept_afterAck (n : LineNo) (c : PortCommand) (s : State) : Kept s (afterAck n c s) := by
  unfold afterAck
  split
  · exact ⟨rfl, rfl⟩
  · exact (sender_sendNext n s).kept
  · exact ⟨rfl, rfl⟩
  · exact kept_afterVerdict n _ s
  · exact kept_refl s

theorem kept_commandAck {s t : State} {n : LineNo} {acked : Acked} (e : execCommandAck n acked s = .next t) : Kept s t := by
  obtain rfl := Host.Outcome.next.inj e
  split
  · exact kept_refl s
  · split
    · exact kept_refl s
    · exact ⟨rfl, rfl⟩
    · exact kept_refl s
    · exact kept_refl s
    · simp [Kept, endReset]
    · exact kept_refl s
    · unfold completeCommand
      split
      · exact kept_refl s
      · dsimp only
        split
        · exact ⟨rfl, rfl⟩
        · exact Kept.trans ⟨rfl, rfl⟩ (kept_afterAck n _ _)

theorem kept_returnToIdle (n : LineNo) (s : State) : Kept s (returnToIdle n s) := by simp [Kept]

theorem kept_released {s t : State} {n : LineNo} (e : execReleased n s = .next t) : Kept s t := by
  obtain rfl := Host.Outcome.next.inj e
  split
  · split
    · exact kept_refl s
    · split
      · exact (kept_returnToIdle n s).trans ⟨rfl, rfl⟩
      · split
        · exact (kept_endReceiving n .lost false s).trans (kept_returnToIdle n _)
        · split
          · exact (sender_endAttempt n .lineLost .lost false s).kept.trans (kept_returnToIdle n _)
          · exact kept_returnToIdle n s
  · exact kept_refl s

theorem kept_lineLost (n : LineNo) (s : State) : Kept s (lineLost n s) := by simp [Kept]

theorem kept_enterFault (n : LineNo) (cause : FaultCause) (s : State) : Kept s (enterFault n cause s) := by simp [Kept]

theorem kept_waitLost {s s₁ : State} {n : LineNo} {k : WaitKind} (h : expireWait n k s = some s₁) : Kept s (lineLost n s₁) :=
  (kept_expireWait h).trans (kept_lineLost n s₁)

/-! ## Pages -/

theorem kept_fillPage (fuel : Nat) (n : LineNo) (d : Dept) (bytes : List Byte) (l : Landing) (s : State) :
    Kept s (fillPage fuel n d bytes l s).2 := by
  induction fuel generalizing bytes l s with
  | zero => exact kept_refl s
  | succ fuel ih =>
    unfold fillPage
    dsimp only
    have frame := putBytes_frame (bytes.take (l.blocks.length * blockBytes - l.length)) l s
    generalize putBytes (bytes.take (l.blocks.length * blockBytes - l.length)) l s = p at frame
    obtain ⟨l1, s1⟩ := p
    dsimp only at frame ⊢
    have put : Kept s s1 := by rw [frame]; exact ⟨rfl, rfl⟩
    split
    · exact put
    · have drew : Kept s1 (drawBlock n d l1.blocks.length s1).1 := ⟨by rw [drawBlock_part], spareTotal_drawBlock ..⟩
      generalize drawBlock n d l1.blocks.length s1 = q at drew
      obtain ⟨s2, draw⟩ := q
      cases draw with
      | block b => exact put.trans (drew.trans (ih _ _ s2))
      | oversize => exact put.trans drew
      | storeFull => exact put.trans drew

theorem kept_receiveData (n : LineNo) (doc : Nat) (d : Document) (c : RxCall) (bytes : List Byte) (s : State) :
    Kept s (receiveData n doc d c bytes s) := by
  unfold receiveData
  split
  · exact kept_refl s
  · have filled := kept_fillPage (bytes.length / blockBytes + 2) n d.dept bytes (d.landing.getD (startLanding d c)) s
    generalize fillPage (bytes.length / blockBytes + 2) n d.dept bytes (d.landing.getD (startLanding d c)) s = p at filled
    obtain ⟨⟨l, cause⟩, s1⟩ := p
    cases cause with
    | none => exact filled
    | some why => exact filled

theorem kept_pageData {s t : State} {n : LineNo} {bytes : List Byte} (e : execPageData n bytes s = .next t) : Kept s t := by
  obtain rfl := Host.Outcome.next.inj e
  split
  · split
    · exact kept_refl s
    · refine Kept.trans ?_ (show Kept _ (startWait n .page pageWaitMs _) from ⟨rfl, rfl⟩)
      split
      · exact kept_receiveData ..
      · exact kept_refl s
  · exact kept_refl s

theorem kept_judgePage (n : LineNo) (doc : Nat) (d : Document) (c : RxCall) (total bad : Nat) (last : Bool) (s : State) :
    Kept s (judgePage n doc d c total bad last s) := by
  have accepted (l : Landing) (v : Verdict) : (acceptLanding doc l v total bad s).part = s.part ∧
      (acceptLanding doc l v total bad s).store = s.store := by unfold acceptLanding; rw [closeGroup_frame]; exact ⟨rfl, rfl⟩
  unfold judgePage rejectPage acceptPage giveVerdict
  split <;> simp [Kept, topUp_part, accepted]

theorem kept_failTraining (n : LineNo) (back : Chan) (c : RxCall) (s : State) : Kept s (failTraining n back c s) := by
  unfold failTraining countRxFail; dsimp only; split <;> simp [Kept]

theorem kept_remoteChoice {s t : State} {n : LineNo} {step : Nat} {res : Resolution} {identity : Text}
    (e : execRemoteChoice n step res identity s = .next t) : Kept s t := by
  obtain rfl := Host.Outcome.next.inj e
  have noted (c : RxCall) : Kept s (noteIdentity c identity s) := by unfold noteIdentity; split <;> exact ⟨rfl, rfl⟩
  split
  · exact kept_refl s
  · rename_i c _
    split
    · split
      · exact (noted c).trans ⟨rfl, rfl⟩
      · exact (noted c).trans (kept_failTraining ..)
    · exact kept_refl s

theorem kept_trainingDone {s t : State} {n : LineNo} {step : Nat} {pass : Bool} (e : execTrainingDone n step pass s = .next t) : Kept s t := by
  obtain rfl := Host.Outcome.next.inj e
  split
  · split
    · unfold rxTrained
      split
      · exact ⟨rfl, rfl⟩
      · exact kept_failTraining ..
    · exact (sender_txTrained ..).kept
    · exact kept_refl s
  · exact kept_refl s

/-! ## Every command -/

theorem kept_of_next {s t u : State} (e : (Host.Outcome.next u : Result State) = .next t) (h : Kept s u) : Kept s t :=
  Host.Outcome.next.inj e ▸ h

/-- Every command but the starts keeps the spare and the retired blocks together, one lemma for each. -/
theorem kept_exec {c : Instr} {s t : State} (start : isStart c = false) (e : exec c s = .next t) : Kept s t := by
  cases c with
  | powerOn strap => cases start
  | resetPinAssert => cases start
  | resetPinRelease strap => cases start
  | powerFailure => cases start
  | storeInitializationComplete => cases start
  | frameReceived bytes =>
    refine kept_of_next e ?_
    split
    · exact kept_refl s
    · exact kept_receiveBytes bytes s
  | byteGapTimeout => exact kept_of_next e (kept_of_if ⟨rfl, rfl⟩)
  | byteWithoutStopBit =>
    refine kept_of_next e ?_
    split <;> exact ⟨rfl, rfl⟩
  | requestToSendChange active => exact kept_of_next e ⟨rfl, rfl⟩
  | beginFrameSend => exact kept_beginFrameSend e
  | unknownKindRequest tag kind => exact kept_of_next e (kept_of_if ⟨rfl, rfl⟩)
  | setDepartment r dept name guarantee cap retention => exact kept_of_next e (kept_request (fun u => kept_setDepartment ..))
  | removeDepartment r dept => exact kept_of_next e (kept_request (kept_removeDepartment r.tag dept))
  | setRoute r key dept hold collect priority dests => exact kept_of_next e (kept_request (fun u => kept_setRoute ..))
  | removeRoute r key => exact kept_of_next e (kept_request (kept_removeRoute r.tag key))
  | setLine r line service outbound maxStep key => exact kept_of_next e (kept_request (fun u => kept_setLine ..))
  | resetLine r line => exact kept_of_next e (kept_request (kept_resetLine r.tag line))
  | readLineStatistics r line clear => exact kept_of_next e (kept_request (kept_readLineStatistics r.tag line clear))
  | setPolicy r p => exact kept_of_next e (kept_request (kept_setPolicy r.tag p))
  | readStatus r =>
    refine kept_of_next e (kept_request (fun u => ?_))
    split <;> exact ⟨rfl, rfl⟩
  | restart r => exact kept_of_next e (kept_takeRequest (fun u ready => kept_restart r u (ready (by simp))))
  | restartEnd => exact kept_restartEnd e
  | setTime r sec ms => exact kept_of_next e (kept_request (kept_setTime r.tag sec ms))
  | readJournal r seq => exact kept_of_next e (kept_request (kept_readJournal r.tag seq.toNat))
  | releaseJournal r seq => exact kept_of_next e (kept_request (kept_releaseJournal r.tag seq.toNat))
  | setNotices r line dept store journal integrity forward =>
    refine kept_of_next e (kept_request (fun u => ?_))
    split <;> exact ⟨rfl, rfl⟩
  | readLinkStatistics r clear => exact kept_of_next e (kept_request (fun u => ⟨rfl, rfl⟩))
  | releaseHold r doc => exact kept_of_next e (kept_request (kept_releaseHold r.tag doc))
  | discardDocument r doc => exact kept_of_next e (kept_request (kept_discardDocument r.tag doc))
  | verifyDocument r doc => exact kept_of_next e (kept_request (kept_verifyDocument r.tag doc))
  | verifyStep doc => exact kept_verifyStep e
  | readDocument r doc firstPage =>
    refine kept_of_next e (kept_request (fun u => ?_))
    split <;> exact ⟨rfl, rfl⟩
  | listDocuments r dept filter first => exact kept_of_next e (kept_request (kept_listDocuments r.tag dept filter first))
  | collect r dept timeout => exact kept_of_next e (kept_request (kept_collect r.tag dept timeout))
  | acceptOffer r doc => exact kept_of_next e (kept_request (kept_acceptOffer r.tag doc))
  | declineOffer r doc => exact kept_of_next e (kept_request (kept_declineOffer r.tag doc))
  | abortTransfer r doc => exact kept_of_next e (kept_request (kept_abortTransfer r.tag doc))
  | confirmCollected r doc => exact kept_of_next e (kept_request (kept_confirmCollected r.tag doc))
  | addForward r doc digits => exact kept_of_next e (kept_request (kept_addForward r.tag doc digits))
  | cancelForward r doc index => exact kept_of_next e (kept_request (kept_cancelForward r.tag doc index))
  | resumeForwarding r => exact kept_of_next e (kept_request (kept_resumeForwarding r.tag))
  | readJobs r doc first => exact kept_of_next e (kept_request (kept_readJobs r.tag doc first))
  | readCallerMemory r index => exact kept_of_next e (kept_request (fun u => ⟨rfl, rfl⟩))
  | forgetCaller r number => exact kept_of_next e (kept_request (kept_forgetCaller r.tag number))
  | readErrorRecords r serial => exact kept_of_next e (kept_request (fun u => ⟨rfl, rfl⟩))
  | ring n => exact kept_ring e
  | ringEnd n => exact kept_of_next e (kept_of_if ((kept_returnToIdle n s).trans ⟨rfl, rfl⟩))
  | digits n string complete =>
    refine kept_of_next e ?_
    split
    · exact kept_of_if (Kept.trans ⟨rfl, rfl⟩ (kept_testAdmission n _))
    · exact kept_refl s
  | callingNumber n number => exact kept_of_next e (kept_of_if ⟨rfl, rfl⟩)
  | digitWindowExpiry n =>
    refine kept_of_next e ?_
    split
    · rename_i expired _
      split
      · exact kept_expireWait expired
      · exact (kept_expireWait expired).trans (Kept.trans ⟨rfl, rfl⟩ (kept_testAdmission n _))
    · rename_i expired _; exact kept_expireWait expired
    · exact kept_refl s
  | commandAck n acked => exact kept_commandAck e
  | ackLimitExpiry n =>
    refine kept_of_next e ?_
    split
    · exact kept_refl s
    · exact Kept.trans ⟨rfl, rfl⟩ (kept_enterFault n _ _)
  | frontEndFault n => exact kept_of_next e (kept_of_if (kept_enterFault n _ s))
  | remoteChoice n step resolution identity => exact kept_remoteChoice e
  | trainingDone n step pass => exact kept_trainingDone e
  | pageData n bytes => exact kept_pageData e
  | pageEnd n total bad last =>
    refine kept_of_next e ?_
    split
    · split
      · exact kept_refl s
      · split
        · exact kept_judgePage ..
        · exact kept_refl s
    · exact kept_refl s
  | carrierLost n => exact kept_of_next e (kept_of_if (kept_lineLost n s))
  | released n => exact kept_released e
  | receiverSignalWaitExpiry n =>
    refine kept_of_next e ?_
    split
    · rename_i expired; exact kept_waitLost expired
    · exact kept_refl s
  | pageWaitExpiry n =>
    refine kept_of_next e ?_
    split
    · rename_i expired; exact kept_waitLost expired
    · exact kept_refl s
  | releaseWaitExpiry n =>
    refine kept_of_next e ?_
    split
    · rename_i expired; exact (kept_expireWait expired).trans (kept_enterFault n _ _)
    · exact kept_refl s
  | dialWaitExpiry n =>
    refine kept_of_next e ?_
    split
    · rename_i expired; exact kept_waitLost expired
    · exact kept_refl s
  | senderWaitExpiry n =>
    refine kept_of_next e ?_
    split
    · rename_i expired; exact kept_waitLost expired
    · exact kept_refl s
  | connected n => exact kept_of_next e (kept_of_if ⟨rfl, rfl⟩)
  | dialFailed n reason => exact kept_of_next e (kept_of_if (sender_endAttempt ..).kept)
  | remoteOffer n maxStep fine identity =>
    refine kept_of_next e ?_
    split
    · split
      · exact kept_refl s
      · split
        · exact (sender_endAttempt ..).kept
        · exact (sender_beginSending ..).kept
    · exact kept_refl s
  | verdict n v =>
    refine kept_of_next e ?_
    split
    · split
      · exact kept_refl s
      · exact (sender_takeVerdict ..).kept
    · exact kept_refl s
  | attemptOutcome a =>
    refine kept_of_next e ?_
    split
    · split
      · exact Kept.trans ⟨rfl, rfl⟩ (kept_takeOutcome _ _ _)
      · exact ⟨rfl, rfl⟩
    · exact ⟨rfl, rfl⟩
  | callerClassification number cls => exact kept_of_next e (kept_of_if ⟨rfl, rfl⟩)
  | jobDue job =>
    refine kept_of_next e ?_
    split
    · split <;> exact ⟨rfl, rfl⟩
    · exact kept_refl s
  | arbiterRun => exact kept_of_next e (Kept.trans ⟨rfl, rfl⟩ (kept_arbiterTests _ _))
  | collectExpiry tag =>
    refine kept_of_next e ?_
    split <;> exact ⟨rfl, rfl⟩
  | documentJoinsReadyQueue doc =>
    refine kept_of_next e ?_
    split
    · exact kept_of_if (by simp [Kept])
    · exact kept_refl s
  | offerWindowExpiry doc =>
    refine kept_of_next e ?_
    split
    · exact kept_refl s
    · simp [Kept]
  | retentionExpiry doc =>
    refine kept_of_next e ?_
    split
    · exact kept_refl s
    · split
      · exact kept_refl s
      · split
        · dsimp only; split <;> simp [Kept]
        · exact kept_refl s
  | spontaneousAppend content => exact kept_of_next e (kept_of_if (by simp [Kept]))
  | calendarClockLimit => exact kept_of_next e (kept_of_if ⟨rfl, rfl⟩)

theorem kept_sendCmd (n : LineNo) (c : PortCommand) (s : State) : Kept s (sendCmd n c s) := ⟨rfl, rfl⟩

/-! ## Every step -/

theorem Kept.conserved {s t : State} (h : Kept s t) (ok : SparesConserved s) : SparesConserved t := by
  have phases (p : Part) : opened p = true ↔ p.phase = some .ready ∨ p.phase = some .restarting := by
    unfold opened; rw [Bool.or_eq_true, beq_iff_eq, beq_iff_eq]
  intro isOpen
  exact h.2.trans (ok ((phases _).1 (h.1 ▸ (phases _).2 isOpen)))

/-- A part that starts anew has no spare set yet (R222), and initialization builds one of 64 blocks (R2). -/
theorem conserved_start {c : Instr} {s t : State} (start : isStart c = true) (ok : SparesConserved s) (e : exec c s = .next t) :
    SparesConserved t := by
  have closed (pending : List Instr) (part : Part) (rate : LinkRate) (rts : Bool) (mem : List Host.Cell) (dram : Dram)
      (phase : part.phase = none ∨ part.phase = some .starting) : SparesConserved (State.fresh pending part rate rts mem dram) := by
    intro isOpen
    have isOpen : part.phase = some .ready ∨ part.phase = some .restarting := isOpen
    rcases phase with p | p <;> rw [p] at isOpen <;> simp at isOpen
  cases c <;> simp only [isStart, Bool.false_eq_true] at start
  case powerOn strap =>
    obtain rfl := Host.Outcome.next.inj e
    split
    · exact closed _ _ _ _ _ _ (.inl rfl)
    · exact closed _ _ _ _ _ _ (.inr rfl)
  case resetPinAssert => obtain rfl := Host.Outcome.next.inj e; exact closed _ _ _ _ _ _ (.inl rfl)
  case resetPinRelease strap =>
    obtain rfl := Host.Outcome.next.inj e
    split
    · exact closed _ _ _ _ _ _ (.inr rfl)
    · exact closed _ _ _ _ _ _ (.inl rfl)
  case powerFailure => obtain rfl := Host.Outcome.next.inj e; exact closed _ _ _ _ _ _ (.inl rfl)
  case storeInitializationComplete =>
    obtain rfl := Host.Outcome.next.inj e
    split
    · refine (kept_foldl (f := fun t n => sendCmd n .presentBusy t) (fun t n => kept_sendCmd n _ t) allLines _).conserved (fun _ => ?_)
      simp [initializedStore, blocksFrom, spareBlocks]
    · exact ok

theorem kept_idle (s : State) : Kept s (idle s) := by
  unfold idle
  split
  · exact kept_refl s
  · split <;> exact ⟨rfl, rfl⟩

theorem conserved_step {s t : State} (ok : SparesConserved s) (e : step s = .next t) : SparesConserved t := by
  unfold step at e
  split at e
  · exact (kept_of_next e (kept_idle s)).conserved ok
  · rename_i c rest _
    cases start : isStart c with
    | true => exact conserved_start (s := { s with pending := rest }) start ok e
    | false => exact (kept_exec (s := { s with pending := rest }) start e).conserved ok

/-- Settles O5, by what each command keeps of the blocks, the accounts, the documents and the lines. -/
theorem stepKeepsSparesConserved : Obligations.StepKeepsSparesConserved :=
  ⟨fun _ _ ok e => conserved_step ok e, fun _ _ lines ok e => storeOk_step lines ok e⟩

end Sys2Proof.Machine
end

section
/-! What a purge neither reads nor changes, and the allocation test in states with the same accounts and reclaim list. -/

namespace Sys2Proof.Machine

open Sys2Proof

/-! ## Purges beside a change elsewhere -/

/-- State s with the page data, the directory and the lines of u. -/
def overlay (u s : State) : State := { s with mem := u.mem, dram := u.dram, dir := u.dir, lines := u.lines }

theorem retireCheck_overlay (b : Block) (u s : State) : retireCheck b (overlay u s) = overlay u (retireCheck b s) := by
  unfold retireCheck
  rw [show (overlay u s).integrity = s.integrity from rfl, show (overlay u s).store = s.store from rfl]
  split
  · rfl
  · rfl
  · dsimp only; split <;> rfl

theorem freeBlocks_overlay (d : Dept) (bs : List Block) (u s : State) : freeBlocks d bs (overlay u s) = overlay u (freeBlocks d bs s) := by
  unfold freeBlocks
  induction bs generalizing s with
  | nil => rfl
  | cons b bs ih =>
    have one : freeBlock d (overlay u s) b = overlay u (freeBlock d s b) := by
      unfold freeBlock; rw [retireCheck_overlay]; rfl
    rw [List.foldl_cons, List.foldl_cons, one, ih]

theorem evalPressure_overlay (u s : State) : evalPressure (overlay u s) = overlay u (evalPressure s) := by
  unfold evalPressure
  rw [apply_ite (overlay u), apply_ite (overlay u)]
  rfl

/-- State s with the records of u, from which document m has been purged. -/
def recordsWithout (m : Nat) (u s : State) : State :=
  { u with dir := { s.dir with docs := u.dir.docs.filter (fun x => decide (x.number ≠ m)), nextNumber := u.dir.nextNumber } }

/-- A purge frees the same blocks, and leaves the same of the store and the queues, beside other lines, page data and records. -/
theorem purgeDoc_beside {s u : State} {m : Nat} {x : Document} (found : findDoc s m = some x) (same : findDoc u m = findDoc s m)
    (frame : u = { s with
      mem := u.mem, dram := u.dram, lines := u.lines, dir := { s.dir with docs := u.dir.docs, nextNumber := u.dir.nextNumber } }) :
    purgeDoc m u = overlay (recordsWithout m u (purgeDoc m s)) (purgeDoc m s) := by
  rw [purgeDoc_eq (same.trans found), purgeDoc_eq found]
  have start : setReady x.dept (fun q => q.filter (fun y => decide (y ≠ m)))
        { u with dir.reclaim := u.dir.reclaim.filter (fun y => decide (y ≠ m)) } =
      overlay { u with dir := (setReady x.dept (fun q => q.filter (fun y => decide (y ≠ m)))
          { u with dir.reclaim := u.dir.reclaim.filter (fun y => decide (y ≠ m)) }).dir }
        (setReady x.dept (fun q => q.filter (fun y => decide (y ≠ m)))
          { s with dir.reclaim := s.dir.reclaim.filter (fun y => decide (y ≠ m)) }) := by
    rw [frame]; rfl
  rw [start, freeBlocks_overlay]
  have kept := freeBlocks_frame x.dept (docBlocks x) (setReady x.dept (fun q => q.filter (fun y => decide (y ≠ m)))
    { s with dir.reclaim := s.dir.reclaim.filter (fun y => decide (y ≠ m)) })
  have dir := congrArg State.dir kept
  generalize freeBlocks x.dept (docBlocks x) _ = t at dir ⊢
  have ready : u.dir.ready = s.dir.ready := by rw [frame]
  have reclaim : u.dir.reclaim = s.dir.reclaim := by rw [frame]
  have verifications : u.dir.verifications = s.dir.verifications := by rw [frame]
  simp only [overlay, recordsWithout, mark, dir, setReady, ready, reclaim, verifications]

/-! ## The test elsewhere -/

/-- State t has the accounts and the reclaim list of s, with documents of the same departments that the same verifications read. -/
structure SameTest (s t : State) : Prop where
  accounts : t.store.accounts = s.store.accounts
  reclaim : t.dir.reclaim = s.dir.reclaim
  docs : ∀ y ∈ s.dir.reclaim, (findDoc t y).map (fun x => (x.dept, x.verifying)) = (findDoc s y).map (fun x => (x.dept, x.verifying))

theorem SameTest.symm {s t : State} (h : SameTest s t) : SameTest t s :=
  ⟨h.accounts.symm, h.reclaim.symm, fun y hy => (h.docs y (h.reclaim ▸ hy)).symm⟩

theorem SameTest.found {s t : State} (h : SameTest s t) {y : Nat} (hy : y ∈ s.dir.reclaim) {x : Document} (found : findDoc s y = some x) :
    ∃ z, findDoc t y = some z ∧ z.dept = x.dept ∧ z.verifying = x.verifying := by
  have := h.docs y hy
  rw [found, Option.map_some, Option.map_eq_some_iff] at this
  obtain ⟨z, hz, e⟩ := this
  exact ⟨z, hz, congrArg Prod.fst e, congrArg Prod.snd e⟩

theorem SameTest.oldest {s t : State} (h : SameTest s t) {P : Dept → Prop} {m : Nat} (old : Oldest s (fun x => P x.dept) m) :
    Oldest t (fun x => P x.dept) m := by
  obtain ⟨front, x, back, e, found, idle, px, before⟩ := old
  obtain ⟨z, hz, dept, verifying⟩ := h.found (by simp [e]) found
  refine ⟨front, z, back, h.reclaim.trans e, hz, verifying.trans idle, by simpa only [dept] using px, fun y hy a ha => ?_⟩
  obtain ⟨b, hb, dept, verifying⟩ := h.symm.found (by simp [h.reclaim, e, hy]) ha
  simpa only [verifying, dept] using before y hy b hb

theorem SameTest.noneLeft {s t : State} (h : SameTest s t) {P : Dept → Prop} (none : NoneLeft s (fun x => P x.dept)) :
    NoneLeft t (fun x => P x.dept) := by
  intro y hy a ha
  obtain ⟨b, hb, dept, verifying⟩ := h.symm.found hy ha
  simpa only [verifying, dept] using none y (h.reclaim ▸ hy) b hb

theorem SameTest.cap {s t : State} (h : SameTest s t) {d : Dept} {k : Nat} : CapPasses t d k ↔ CapPasses s d k := by
  unfold CapPasses; rw [acct_congr h.accounts]

theorem SameTest.shared {s t : State} (h : SameTest s t) {d : Dept} {k : Nat} : SharedPasses t d k ↔ SharedPasses s d k := by
  unfold SharedPasses; rw [acct_congr h.accounts, sharedCommitted_congr h.accounts, sharedPool_congr h.accounts]

/-- A department borrows (R8). -/
def Borrows (s : State) (d : Dept) : Prop := (acct s d).guarantee < (acct s d).used + (acct s d).resv

theorem SameTest.borrows {s t : State} (h : SameTest s t) : Borrows t = Borrows s := by
  funext d; unfold Borrows; rw [acct_congr h.accounts]

theorem SameTest.reclaims {s t : State} (h : SameTest s t) {d : Dept} {k m : Nat} (r : Reclaims s d k m) : Reclaims t d k m := by
  obtain ⟨fails, own | ⟨noOwn, cap, lend⟩⟩ := r
  · exact ⟨by rwa [h.cap, h.shared], .inl (h.oldest (P := fun e => e = d) own)⟩
  · refine ⟨by rwa [h.cap, h.shared], .inr ⟨h.noneLeft (P := fun e => e = d) noOwn, h.cap.2 cap, ?_⟩⟩
    have := h.oldest (P := Borrows s) lend
    rw [← h.borrows] at this
    exact this

theorem SameTest.fails {s t : State} (h : SameTest s t) {d : Dept} {k : Nat} {cause : AllocCause} (f : TestFails s d k cause) :
    TestFails t d k cause := by
  obtain ⟨noOwn, ⟨cap, e⟩ | ⟨cap, shared, e, noLend⟩⟩ := f
  · exact ⟨h.noneLeft (P := fun e => e = d) noOwn, .inl ⟨by rwa [h.cap], e⟩⟩
  · refine ⟨h.noneLeft (P := fun e => e = d) noOwn, .inr ⟨h.cap.2 cap, by rwa [h.shared], e, ?_⟩⟩
    have := h.noneLeft (P := Borrows s) noLend
    rw [← h.borrows] at this
    exact this

end Sys2Proof.Machine
end

section
/-! Admission (R79 to R82): the events that bring a call to it, and how it ends (O53). -/

namespace Sys2Proof.Machine

open Sys2Proof

/-! ## Changes of a receiving call's record -/

/-- A line whose call record is that of a receiving call, with the wait given. -/
def Line.hears (l : Line) (w : Option Wait) (c : RxCall) : Line := { l with call := some ⟨w, .receiver c⟩ }

theorem modLine_congr {n : LineNo} {f g : Line → Line} {s : State} (h : f (lineAt s n) = g (lineAt s n)) : modLine n f s = modLine n g s := by
  unfold lineAt at h; unfold modLine; rw [h]

theorem modLine_same {n : LineNo} {f : Line → Line} {s : State} (h : f (lineAt s n) = lineAt s n) : modLine n f s = s := by
  rw [modLine_congr (g := id) h]
  simp [modLine]

theorem modRx_receiver {n : LineNo} {s : State} {w : Option Wait} {c : RxCall} (h : (lineAt s n).call = some ⟨w, .receiver c⟩)
    (f : RxCall → RxCall) : modRx n f s = modLine n (fun l => l.hears w (f c)) s :=
  modLine_congr (by simp [h, Line.hears])

theorem modRx_hears (n : LineNo) (f : RxCall → RxCall) (w : Option Wait) (c : RxCall) (s : State) :
    modRx n f (modLine n (fun l => l.hears w c) s) = modLine n (fun l => l.hears w (f c)) s := by
  unfold modRx; rw [modLine_modLine]; rfl

theorem rxOf_hears (l : Line) (w : Option Wait) (c : RxCall) : rxOf (l.hears w c) = some c := rfl

/-! ## The events that bring a call to admission -/

theorem testAdmission_passes {n : LineNo} {s : State} {c : RxCall} (rx : rxOf (lineAt s n) = some c) (alerted : (lineAt s n).chan = .alerted)
    (rings : s.policy.answerRings ≤ c.rings) (closed : c.closed = true) : testAdmission n s = admission n s := by
  simp [testAdmission, rx, alerted, rings, closed]

/-- No time passes up to a run time that has been reached (R186). -/
theorem advanceTo_reached {s : State} {e : Nat} (reached : e ≤ s.clock.run) (ms : s.clock.cal.ms ≤ 999) (sec : s.clock.cal.sec ≤ 4294967295) :
    advanceTo e s = s := by
  have run : later s.clock.run 0 = s.clock.run := by unfold later; omega
  have cal : CalTime.advance s.clock.cal 0 = s.clock.cal := by
    unfold CalTime.advance calendarEnd
    generalize s.clock.cal = cal at ms sec ⊢
    obtain ⟨sec', ms'⟩ := cal
    dsimp only at ms sec ⊢
    split
    · congr 1 <;> omega
    · congr 1 <;> omega
  have due : becomesDue s 0 = false := by
    unfold becomesDue
    rw [run, List.any_eq_false]
    intro j _
    simp only [Bool.and_eq_true, decide_eq_true_eq, not_and]
    omega
  unfold advanceTo advance
  rw [show e - s.clock.run = 0 by omega, run, cal, due, Bool.or_false, if_pos rfl]

/-- An event brings the call of a line to admission, with the record and the wait it then has (R76, R77, R79). -/
def Brings (s : State) (n : LineNo) (w w' : Option Wait) (c c' : RxCall) (ev : Instr) : Prop :=
  (ev = .ring n ∧ w' = w ∧ c' = { c with rings := min 255 (c.rings + 1) }) ∨
    (∃ x b, ev = .digits n x b ∧ w' = w ∧ c.closed = false ∧ allDigits x = true ∧ c' = { c with
      digits := (c.digits ++ x).take 16, closed := b || decide (16 ≤ (c.digits ++ x).length) }) ∨
    (∃ e, ev = .digitWindowExpiry n ∧ w = some ⟨.digitWindow, e⟩ ∧ e ≤ s.clock.run ∧ s.clock.cal.ms ≤ 999 ∧
      s.clock.cal.sec ≤ 4294967295 ∧ w' = none ∧ c.closed = false ∧ c' = { c with closed := true })

/-- A call in ALERTED, in phase READY, that an event brings to admission (R79). -/
structure Admits (s : State) (n : LineNo) (w w' : Option Wait) (c c' : RxCall) (ev : Instr) : Prop where
  hears : Hears s n
  phase : s.part.phase = some .ready
  chan : (lineAt s n).chan = .alerted
  call : (lineAt s n).call = some ⟨w, .receiver c⟩
  closed : c'.closed = true
  rings : s.policy.answerRings ≤ c'.rings
  event : Brings s n w w' c c' ev

theorem satSucc_rings (r : Nat) : satSucc 255 r = min 255 (r + 1) := by unfold satSucc; split <;> omega

theorem gather_eq (c : RxCall) (x : Text) (b : Bool) : gather c x b = { c with
    digits := (c.digits ++ x).take 16, closed := b || decide (16 ≤ (c.digits ++ x).length) } := by
  have full : ((c.digits ++ x).take 16).length = 16 ↔ 16 ≤ (c.digits ++ x).length := by rw [List.length_take]; omega
  unfold gather maxDigits
  simp only [full]

theorem testAdmission_hears {n : LineNo} {s : State} {w : Option Wait} {c : RxCall} (chan : (lineAt s n).chan = .alerted)
    (rings : s.policy.answerRings ≤ c.rings) (closed : c.closed = true) :
    testAdmission n (modLine n (fun l => l.hears w c) s) = admission n (modLine n (fun l => l.hears w c) s) := by
  have line := lineAt_modLine_self n (fun l => l.hears w c) s
  exact testAdmission_passes (c := c) (by rw [line, rxOf_hears]) (by rw [line]; exact chan) rings closed

/-- Such an event does what admission does with the call as it then stands (R79). -/
theorem Admits.admitted {s : State} {n : LineNo} {w w' : Option Wait} {c c' : RxCall} {ev : Instr} (h : Admits s n w w' c c' ev) :
    exec ev s = .next (admission n (modLine n (fun l => l.hears w' c') s)) := by
  obtain ⟨hears, phase, chan, call, closed, rings, event⟩ := h
  have takes := takesEvents_of_hears hears
  have inState : takesIn s n .alerted = true := by simp [takesIn, takes, chan]
  have rx := rxOf_receiver call
  rcases event with ⟨rfl, rfl, e⟩ | ⟨x, b, rfl, rfl, gathering, digits, e⟩ | ⟨t, rfl, rfl, reached, ms, sec, rfl, gathering, e⟩
  · show execRing n s = _
    have ready : isReady s = true := by simp [isReady, phase]
    have change : modRx n (fun c => { c with rings := satSucc 255 c.rings }) s = modLine n (fun l => l.hears w' c') s := by
      rw [modRx_receiver call, e, satSucc_rings]
    simp only [execRing, takes, ready, Bool.and_self, if_true, chan]
    rw [change, testAdmission_hears chan rings closed]
  · show execDigits n x b s = _
    have change : modRx n (fun _ => gather c x b) s = modLine n (fun l => l.hears w' c') s := by
      rw [modRx_receiver call, e, gather_eq]
    simp only [execDigits, rx, inState, gathering, digits, Bool.not_false, Bool.and_self, if_true]
    rw [change, testAdmission_hears chan rings closed]
  · show execDigitWindowExpiry n s = _
    have expires : expireWait n .digitWindow s = some (modLine n (fun l => l.hears none c) s) := by
      unfold expireWait
      rw [show waitOf (lineAt s n) .digitWindow = some t by simp [waitOf, call], Option.map_some, advanceTo_reached reached ms sec]
      exact congrArg some (modLine_congr (by simp [call, Line.hears]))
    simp only [execDigitWindowExpiry, expires, rx, gathering, Bool.false_eq_true, if_false]
    rw [modRx_hears, ← e, testAdmission_hears chan rings closed]

/-! ## The branches of admission -/

/-- The route of a call on a line (R61, R62). -/
def callRoute (s : State) (n : LineNo) (c : RxCall) : RouteResult := lookupRoute s.routes (calledString c.digits (lineAt s n).defaultKey)

/-- The call of a line has been looked up (R80). -/
def lookedUp (n : LineNo) (w : Option Wait) (c : RxCall) (s : State) : State :=
  modLine n (fun l => l.hears w { c with route := some (callRoute s n c) }) s

/-- The record of a call that is looked up joins the directory (R30, R81). -/
def newcomer (n : LineNo) (w : Option Wait) (c : RxCall) (s : State) : State :=
  addDoc (newDocument s.dir.nextNumber (callRoute s n c) n c.digits c.calling s.clock.cal)
    { lookedUp n w c s with dir := { s.dir with nextNumber := s.dir.nextNumber + 1 } }

/-- A call whose landing allotment is reserved is answered, and an offer sent (R81, R82). -/
def takeCall (n : LineNo) (c : RxCall) (number : Nat) (s : State) : State :=
  startWait n .receiverSignal signalWaitMs (sendOffer n c (setChan n .negotiating
    (modStats n (fun st => { st with answered := satSucc counterTop st.answered })
      (sendCmd n .answer (modRx n (fun r => { r with document := some number }) s)))))

theorem hears_defaultKey (l : Line) (w : Option Wait) (c : RxCall) : (l.hears w c).defaultKey = l.defaultKey := rfl

section
variable {s : State} {n : LineNo} {w : Option Wait} {c : RxCall}

theorem admission_highWater (high : 8128 ≤ s.journal.unreleased) :
    admission n (modLine n (fun l => l.hears w c) s) = refuseCall n c none (lookedUp n w c s) := by
  have water : atHighWater (lookedUp n w c s) = true := decide_eq_true high
  simp only [admission, lineAt_modLine_self, rxOf_hears, modRx_hears, hears_defaultKey, modLine_routes]
  exact if_pos water

theorem belowHighWater (low : s.journal.unreleased < 8128) : ¬ atHighWater (lookedUp n w c s) = true := by
  rw [show atHighWater (lookedUp n w c s) = decide (8128 ≤ s.journal.unreleased) from rfl]; simpa using low

theorem admission_noSlot (low : s.journal.unreleased < 8128) (slot : takeSlot (lookedUp n w c s) = none) :
    admission n (modLine n (fun l => l.hears w c) s) = refuseCall n c (some .directory) (lookedUp n w c s) := by
  simp only [admission, lineAt_modLine_self, rxOf_hears, modRx_hears, hears_defaultKey, modLine_routes]
  refine (if_neg (belowHighWater (w := w) low)).trans ?_
  unfold lookedUp callRoute at slot
  rw [slot]; rfl

theorem admission_slot (low : s.journal.unreleased < 8128) {s₁ t : State} {number : Nat} {made : Bool}
    (slot : takeSlot (lookedUp n w c s) = some (s₁, number))
    (answer : reserve n (callRoute s n c).dept s₁.policy.landingAllotment
      (addDoc (newDocument number (callRoute s n c) n c.digits c.calling s₁.clock.cal) s₁) = (t, made)) :
    admission n (modLine n (fun l => l.hears w c) s) =
      if made then takeCall n c number t else refuseCall n c (some .quota) (dropDoc number t) := by
  simp only [admission, lineAt_modLine_self, rxOf_hears, modRx_hears, hears_defaultKey, modLine_routes]
  refine (if_neg (belowHighWater (w := w) low)).trans ?_
  unfold callRoute at answer
  unfold lookedUp callRoute at slot
  simp only [slot, addDoc_policy, answer]
  cases made <;> rfl

theorem takeSlot_free (numbers : s.dir.nextNumber ≤ 4294967295) (room : s.dir.docs.length < 4096) :
    takeSlot s = some ({ s with dir := { s.dir with nextNumber := s.dir.nextNumber + 1 } }, s.dir.nextNumber) := by
  have inRange : ¬ maxNumber < s.dir.nextNumber := by show ¬ 4294967295 < s.dir.nextNumber; omega
  unfold takeSlot
  rw [if_neg inRange, if_pos (show s.dir.docs.length < recordSlots from room)]

theorem admission_newcomer (low : s.journal.unreleased < 8128) (numbers : s.dir.nextNumber ≤ 4294967295) (room : s.dir.docs.length < 4096)
    {t : State} {made : Bool} (answer : reserve n (callRoute s n c).dept s.policy.landingAllotment (newcomer n w c s) = (t, made)) :
    admission n (modLine n (fun l => l.hears w c) s) =
      if made then takeCall n c s.dir.nextNumber t else refuseCall n c (some .quota) (dropDoc s.dir.nextNumber t) :=
  admission_slot low (takeSlot_free (s := lookedUp n w c s) numbers room) answer

end

/-! ## A call refused -/

/-- A line whose call is refused at admission (R80). -/
def Line.refused (l : Line) (run : Nat) : Line :=
  { l.releases run .reject with stats := { l.stats with refused := min 65535 (l.stats.refused + 1) } }

theorem refuseCall_none {n : LineNo} {s : State} {w : Option Wait} {x : RxCall} (call : (lineAt s n).call = some ⟨w, .receiver x⟩)
    (c : RxCall) : refuseCall n c none s =
      mark (.line n) (modLine n (fun l => (l.hears w { x with route := none }).refused s.clock.run) s) := by
  unfold refuseCall modStats
  rw [modRx_receiver call, releaseWith_eq, modLine_modLine]
  simp only [modLine_modLine, satSucc_counter]
  rfl

/-- A refusal changes its line, writes the entry of its reason and marks (R80, R98). -/
structure Refused (s t : State) (n : LineNo) (l : Line) : Prop where
  others : OtherLines s t n
  line : lineAt t n = l.refused s.clock.run
  marked : s.link.classes.line = true → Subject.line n ∈ t.link.notices
  grows : s.link.notices <+: t.link.notices

theorem refuseCall_refused {n : LineNo} {s : State} {w : Option Wait} {x : RxCall} (call : (lineAt s n).call = some ⟨w, .receiver x⟩)
    (c : RxCall) (why : RefusedReason) : Refused s (refuseCall n c (some why) s) n ((lineAt s n).hears w { x with route := none }) := by
  have base := refuseCall_none call c
  have entry : refuseCall n c (some why) s = (append (.refused n c.digits c.calling why) (refuseCall n c none s)).1 := rfl
  have lines : (refuseCall n c (some why) s).lines = (refuseCall n c none s).lines := by rw [entry, append_frame]
  have marks := mark_marked (.line n) (modLine n (fun l => (l.hears w { x with route := none }).refused s.clock.run) s)
  have more := append_grows (.refused n c.digits c.calling why) (refuseCall n c none s)
  rw [← base] at marks
  rw [← entry] at more
  refine ⟨fun m hm => ?_, ?_, fun enabled => more.subset ((marks.2 _).2 (.inr ⟨enabled, rfl⟩)), marks.1.trans more⟩
  · rw [lineAt_of_lines lines, base, lineAt_of_lines (mark_lines _ _)]
    exact lineAt_modLine_ne hm _ s
  · rw [lineAt_of_lines lines, base, lineAt_of_lines (mark_lines _ _)]
    exact lineAt_modLine_self n _ s

theorem refuseCall_frame (n : LineNo) (c : RxCall) (why : RefusedReason) (s : State) : refuseCall n c (some why) s =
    { s with
      lines := (refuseCall n c (some why) s).lines
      journal := s.journal.offered (.refused n c.digits c.calling why) s.clock.cal s.clock.trusted
      link := { s.link with notices := (refuseCall n c (some why) s).link.notices } } := by
  unfold refuseCall
  dsimp only
  rw [append_frame, releaseWith_eq]
  rfl

theorem offered_written {j : Journal} (low : j.unreleased < 8128) (content : JournalContent) (time : CalTime) (trusted : Bool) :
    j.offered content time trusted = j.written content time trusted := if_pos (by omega)

theorem lineAt_lookedUp (n : LineNo) (w : Option Wait) (c : RxCall) (s : State) :
    lineAt (lookedUp n w c s) n = (lineAt s n).hears w { c with route := some (callRoute s n c) } :=
  lineAt_modLine_self n _ s

/-! ## A call taken -/

theorem findCaller_setCaller {e : CallerEntry} {table : List CallerEntry} {number : Text} (found : findCaller table number = some e)
    (f : CallerEntry) (same : f.number = e.number) : findCaller (setCaller f table) number = some f := by
  induction table with
  | nil => cases found
  | cons x xs ih =>
    unfold findCaller setCaller at *
    rw [List.find?_cons] at found
    split at found
    · rename_i hit
      obtain rfl := Option.some.inj found
      have hit' := of_decide_eq_true hit
      simp [same, hit']
    · rename_i miss
      have entry : e.number = number := by simpa using List.find?_some found
      have other : ¬ x.number = f.number := by rw [same, entry]; simpa using miss
      have passed : decide (x.number = number) = false := by simpa using miss
      rw [List.map_cons, List.find?_cons, if_neg other, passed]
      exact ih found

/-- The ceiling an offer to a call keeps under, and the Caller Memory once it has been asked (R82, R105). -/
structure Asked (s : State) (c : RxCall) (ceiling : Nat) (table : List CallerEntry) : Prop where
  nobody : c.calling = none → ceiling = 5 ∧ table = s.callers.table
  stranger : ∀ x, c.calling = some x → findCaller s.callers.table x = none → ceiling = 5 ∧ table = s.callers.table
  known : ∀ x e, c.calling = some x → findCaller s.callers.table x = some e → ceiling = e.ceiling ∧
    findCaller table x = some { e with lastUsed := s.clock.run }

theorem lookupCaller_frame (number : Text) (s : State) : (lookupCaller number s).1 =
    { s with callers := { s.callers with table := (lookupCaller number s).1.callers.table } } := by
  unfold lookupCaller; split <;> rfl

theorem sendOffer_eq {n : LineNo} {s : State} {w : Option Wait} {x : RxCall} (call : (lineAt s n).call = some ⟨w, .receiver x⟩)
    (c : RxCall) : ∃ ceiling table, Asked s c ceiling table ∧ sendOffer n c s =
      modLine n (fun l => (l.hears w { x with
        offeredMax := some (min (lineAt s n).maxStep ceiling), fineAllowed := some (!s.store.pressure) }).sends s.clock.run
          (.offer (min (lineAt s n).maxStep ceiling) (!s.store.pressure)))
        { s with callers := { s.callers with table := table } } := by
  have sends (table : List CallerEntry) (f : RxCall → RxCall) (cmd : PortCommand) :
      sendCmd n cmd (modRx n f { s with callers := { s.callers with table := table } }) =
        modLine n (fun l => (l.hears w (f x)).sends s.clock.run cmd) { s with callers := { s.callers with table := table } } := by
    rw [modRx_receiver (s := { s with callers := { s.callers with table := table } }) call, sendCmd_eq, modLine_modLine]; rfl
  unfold sendOffer
  cases calling : c.calling with
  | none =>
    exact ⟨5, s.callers.table, ⟨fun _ => ⟨rfl, rfl⟩, by simp [calling], by simp [calling]⟩, sends s.callers.table _ _⟩
  | some number =>
    dsimp only
    cases found : findCaller s.callers.table number with
    | none =>
      have asked : lookupCaller number s = (s, 5) := by unfold lookupCaller; rw [found]; rfl
      rw [asked]
      refine ⟨5, s.callers.table, ⟨by simp [calling], fun _ _ _ => ⟨rfl, rfl⟩, ?_⟩, sends s.callers.table _ _⟩
      intro x e hx he
      rw [calling] at hx; obtain rfl := Option.some.inj hx
      rw [found] at he; cases he
    | some e =>
      have asked : lookupCaller number s =
          ({ s with callers.table := setCaller { e with lastUsed := s.clock.run } s.callers.table }, e.ceiling) := by
        unfold lookupCaller; rw [found]
      rw [asked]
      refine ⟨e.ceiling, _, ⟨by simp [calling], ?_, ?_⟩, sends _ _ _⟩
      · intro x hx he
        rw [calling] at hx; obtain rfl := Option.some.inj hx
        rw [found] at he; cases he
      · intro x e' hx he
        rw [calling] at hx; obtain rfl := Option.some.inj hx
        rw [found] at he; obtain rfl := Option.some.inj he
        exact ⟨rfl, findCaller_setCaller found _ rfl⟩

/-- A line whose call is answered and offered (R81, R82). -/
def Line.offered (l : Line) (run most : Nat) (fine : Bool) (c : RxCall) : Line :=
  { (l.sends run .answer).sends run (.offer most fine) with
    chan := .negotiating
    call := some ⟨some ⟨.receiverSignal, run + 6000⟩, .receiver { c with offeredMax := some most, fineAllowed := some fine }⟩
    stats := { l.stats with answered := min 65535 (l.stats.answered + 1) } }

theorem modLine_withCallers (n : LineNo) (f : Line → Line) (s : State) (x : Callers) :
    ({ modLine n f s with callers := x } : State) = modLine n f { s with callers := x } := rfl

theorem takeCall_eq {n : LineNo} {s : State} {w : Option Wait} {x : RxCall} (call : (lineAt s n).call = some ⟨w, .receiver x⟩)
    (c : RxCall) (number : Nat) : ∃ ceiling table, Asked s c ceiling table ∧ takeCall n c number s =
      modLine n (fun l => l.offered s.clock.run (min (lineAt s n).maxStep ceiling) (!s.store.pressure) { x with document := some number })
        { s with callers := { s.callers with table := table } } := by
  have before : setChan n .negotiating (modStats n (fun st => { st with answered := satSucc counterTop st.answered })
      (sendCmd n .answer (modRx n (fun r => { r with document := some number }) s))) =
    modLine n (fun l => { (l.hears w { x with document := some number }).sends s.clock.run .answer with
      chan := .negotiating, stats := { l.stats with answered := min 65535 (l.stats.answered + 1) } }) s := by
    unfold setChan modStats
    rw [modRx_receiver call, sendCmd_eq]
    simp only [modLine_modLine, satSucc_counter]
    rfl
  unfold takeCall startWait setWait
  rw [before]
  obtain ⟨ceiling, table, asked, e⟩ := sendOffer_eq (s := modLine n (fun l => { (l.hears w { x with document := some number }).sends
      s.clock.run .answer with
      chan := .negotiating, stats := { l.stats with answered := min 65535 (l.stats.answered + 1) } }) s)
    (w := w) (x := { x with document := some number }) (by rw [lineAt_modLine_self]; rfl) c
  refine ⟨ceiling, table, ⟨asked.nobody, asked.stranger, asked.known⟩, ?_⟩
  rw [e, lineAt_modLine_self, modLine_withCallers]
  simp only [modLine_modLine]
  rfl

end Sys2Proof.Machine
end

section
/-! Admission: purges for a call, and what each end leaves (O53). -/
namespace Sys2Proof.Machine

open Sys2Proof

/-! ## Purges for a call -/

theorem Admits.congr {s t : State} {n : LineNo} {w w' : Option Wait} {c c' : RxCall} {ev : Instr} (h : Admits s n w w' c c' ev)
    (part : t.part = s.part) (lines : t.lines = s.lines) (policy : t.policy = s.policy) (clock : t.clock = s.clock) :
    Admits t n w w' c c' ev := by
  obtain ⟨hears, phase, chan, call, closed, rings, event⟩ := h
  have line := lineAt_of_lines lines n
  exact ⟨by unfold Hears at *; rwa [part, line], by rwa [part], by rwa [line], by rwa [line], closed, by rwa [policy],
    by unfold Brings at *; rwa [clock]⟩

section
variable {s : State} {n : LineNo} {w : Option Wait} {c : RxCall} {m : Nat}

theorem findDoc_newcomer (h : m ≠ s.dir.nextNumber) : findDoc (newcomer n w c s) m = findDoc s m := by
  have other : decide ((newDocument s.dir.nextNumber (callRoute s n c) n c.digits c.calling s.clock.cal).number = m) = false :=
    decide_eq_false (Ne.symm h)
  show (s.dir.docs ++ [_]).find? _ = s.dir.docs.find? _
  rw [List.find?_append, List.find?_cons, other]
  exact Option.or_none

theorem sameTest_newcomer (fresh : s.dir.nextNumber ∉ s.dir.reclaim) : SameTest s (newcomer n w c s) :=
  ⟨rfl, rfl, fun y hy => by rw [findDoc_newcomer (fun e => fresh (e ▸ hy))]⟩

theorem callRoute_purgeDoc : callRoute (purgeDoc m s) n c = callRoute s n c := by
  unfold callRoute; rw [purgeDoc_routes, lineAt_of_lines (purgeDoc_lines m s)]

theorem newcomer_purgeDoc {x : Document} (found : findDoc s m = some x) (other : m ≠ s.dir.nextNumber) :
    newcomer n w c (purgeDoc m s) = purgeDoc m (newcomer n w c s) := by
  rw [purgeDoc_beside (s := s) (u := newcomer n w c s) found (findDoc_newcomer other) rfl]
  unfold newcomer lookedUp
  rw [callRoute_purgeDoc, purgeDoc_nextNumber, purgeDoc_clock]
  have kept : decide ((newDocument s.dir.nextNumber (callRoute s n c) n c.digits c.calling s.clock.cal).number ≠ m) = true :=
    decide_eq_true (Ne.symm other)
  simp only [overlay, recordsWithout, addDoc, modLine, purgeDoc_docs found, purgeDoc_lines, purgeDoc_mem, purgeDoc_dram, List.filter_append,
    List.filter_cons, kept, if_true, List.filter_nil]

theorem lookedUp_purgeEvent {x : Document} (found : findDoc s m = some x) :
    lookedUp n w c (purgeEvent m s) = purgeEvent m (lookedUp n w c s) := by
  have purged := purgeDoc_beside (s := s) (u := lookedUp n w c s) found rfl rfl
  unfold purgeEvent
  rw [purged, evalPressure_overlay]
  have routes : callRoute (evalPressure (purgeDoc m s)) n c = callRoute s n c := by rw [evalPressure_frame]; exact callRoute_purgeDoc
  unfold lookedUp
  rw [routes, evalPressure_frame]
  simp only [overlay, recordsWithout, modLine, purgeDoc_lines, purgeDoc_mem, purgeDoc_dram]
  rw [show s.dir.docs.filter (fun x => decide (x.number ≠ m)) = (purgeDoc m s).dir.docs from (purgeDoc_docs found).symm,
    ← purgeDoc_nextNumber m s]

end

theorem reserve_reclaims {n : LineNo} {d : Dept} {k m : Nat} {s : State} (h : Reclaims s d k m) :
    reserve n d k s = reserve n d k (purgeDoc m s) := by
  unfold reserve; rw [allocTest_reclaims h]

/-! ## The statement -/

section
variable {s : State} {n : LineNo} {w w' : Option Wait} {c c' : RxCall} {ev : Instr}

/-- A refused call on its line, as the statement speaks of it. -/
theorem Refused.of_lookedUp {u t : State} (r : Refused u t n ((lineAt u n).hears w' { c' with route := none }))
    (lines : u.lines = (lookedUp n w' c' s).lines) (clock : u.clock = s.clock) (classes : u.link.classes = s.link.classes) :
    OtherLines s t n ∧ lineAt t n = ((lineAt s n).hears w' { c' with route := none }).refused s.clock.run ∧
      (s.link.classes.line = true → Subject.line n ∈ t.link.notices) := by
  have line := lineAt_of_lines lines
  refine ⟨fun m hm => ?_, ?_, by rw [← classes]; exact r.marked⟩
  · rw [r.others m hm, line]; exact lineAt_modLine_ne hm _ s
  · rw [r.line, line, lineAt_lookedUp, clock]; rfl

theorem Admits.highWater (h : Admits s n w w' c c' ev) (high : 8128 ≤ s.journal.unreleased) : exec ev s =
    .next (mark (.line n) (modLine n (fun l => (l.hears w' { c' with route := none }).refused s.clock.run) s)) := by
  rw [h.admitted, admission_highWater high, refuseCall_none (congrArg Line.call (lineAt_lookedUp n w' c' s))]
  unfold lookedUp
  rw [modLine_modLine]
  rfl

theorem takeSlot_none (full : 4294967295 < s.dir.nextNumber ∨ (4096 ≤ s.dir.docs.length ∧ NoneLeft s (fun _ => True))) :
    takeSlot s = none := by
  unfold takeSlot
  by_cases out : maxNumber < s.dir.nextNumber
  · rw [if_pos out]
  · rcases full with ranOut | ⟨held, nothing⟩
    · exact absurd ranOut out
    · have noRoom : ¬ s.dir.docs.length < recordSlots := Nat.not_lt.2 held
      rw [if_neg out, if_neg noRoom, (candidate_eq_none_iff s (fun _ => true)).2 (by simpa using nothing)]
      rfl

theorem takeSlot_purges {m : Nat} (numbers : s.dir.nextNumber ≤ 4294967295) (full : s.dir.docs.length = 4096)
    (old : Oldest s (fun _ => True) m) : ∃ taken, takeSlot s = some taken ∧ takeSlot (purgeEvent m s) = some taken := by
  obtain ⟨-, x, found, -, -⟩ := old.found
  have shorter : (purgeEvent m s).dir.docs.length < 4096 := by
    rw [(purgeEvent_purged found).docs, ← full, List.length_filter_lt_length_iff_exists]
    exact ⟨x, List.mem_of_find?_eq_some found, by simp⟩
  have number : (purgeEvent m s).dir.nextNumber = s.dir.nextNumber := by rw [purgeEvent_dir, purgeDoc_nextNumber]
  have choice := (candidate_eq_some_iff s (fun _ => true) m).2 (by simpa using old)
  have inRange : ¬ maxNumber < s.dir.nextNumber := Nat.not_lt.2 numbers
  refine ⟨_, ?_, takeSlot_free (by rw [number]; exact numbers) shorter⟩
  unfold takeSlot
  rw [if_neg inRange, if_neg (show ¬ s.dir.docs.length < recordSlots by rw [full]; decide), choice]
  rfl

/-- With every record in use the oldest document goes first (R30). -/
theorem Admits.purges {m : Nat} (h : Admits s n w w' c c' ev) (low : s.journal.unreleased < 8128)
    (numbers : s.dir.nextNumber ≤ 4294967295) (full : s.dir.docs.length = 4096) (old : Oldest s (fun _ => True) m) :
    exec ev s = exec ev (purgeEvent m s) := by
  obtain ⟨-, x, found, -, -⟩ := old.found
  have frame := purgeEvent_frame m s
  have again : Admits (purgeEvent m s) n w w' c c' ev := h.congr (by rw [frame]) (by rw [frame]) (by rw [frame]) (by rw [frame])
  obtain ⟨⟨s₁, number⟩, before, after⟩ := takeSlot_purges (s := lookedUp n w' c' s) numbers full old
  rw [← lookedUp_purgeEvent found] at after
  have route : callRoute (purgeEvent m s) n c' = callRoute s n c' := by
    unfold callRoute; rw [frame]; rfl
  rw [h.admitted, again.admitted]
  cases answer : reserve n (callRoute s n c').dept s₁.policy.landingAllotment
    (addDoc (newDocument number (callRoute s n c') n c'.digits c'.calling s₁.clock.cal) s₁) with
  | mk t made =>
    have same : reserve n (callRoute (purgeEvent m s) n c').dept s₁.policy.landingAllotment
        (addDoc (newDocument number (callRoute (purgeEvent m s) n c') n c'.digits c'.calling s₁.clock.cal) s₁) = (t, made) := by
      rw [route]; exact answer
    rw [admission_slot low before answer, admission_slot (by rw [frame]; exact low) after same]

/-- While the reservation fails and reclaim finds a document, that one goes first (R11). -/
theorem Admits.reclaims {m : Nat} (h : Admits s n w w' c c' ev) (low : s.journal.unreleased < 8128)
    (numbers : s.dir.nextNumber ≤ 4294967295) (room : s.dir.docs.length < 4096) (fresh : s.dir.nextNumber ∉ s.dir.reclaim)
    (r : Reclaims s (callRoute s n c').dept s.policy.landingAllotment m) : exec ev s = exec ev (purgeDoc m s) := by
  obtain ⟨listed, x, found, -⟩ := r.found
  have other : m ≠ s.dir.nextNumber := fun e => fresh (e ▸ listed)
  have again : Admits (purgeDoc m s) n w w' c c' ev := h.congr (by simp) (by simp) (by simp) (by simp)
  have shorter : (purgeDoc m s).dir.docs.length < 4096 := by
    rw [purgeDoc_docs found]; exact (List.length_filter_le _ _).trans_lt room
  rw [h.admitted, again.admitted]
  cases answer : reserve n (callRoute s n c').dept s.policy.landingAllotment (newcomer n w' c' s) with
  | mk t made =>
    have same : reserve n (callRoute (purgeDoc m s) n c').dept (purgeDoc m s).policy.landingAllotment
        (newcomer n w' c' (purgeDoc m s)) = (t, made) := by
      rw [callRoute_purgeDoc, newcomer_purgeDoc found other, purgeDoc_policy,
        ← reserve_reclaims ((sameTest_newcomer fresh).reclaims r), answer]
    rw [admission_newcomer low numbers room answer,
      admission_newcomer (by simpa using low) (by simpa using numbers) shorter same, purgeDoc_nextNumber]

/-- A call for which no record is to be had is refused (R29, R80). -/
theorem Admits.noRecord (h : Admits s n w w' c c' ev) (low : s.journal.unreleased < 8128)
    (full : 4294967295 < s.dir.nextNumber ∨ (4096 ≤ s.dir.docs.length ∧ NoneLeft s (fun _ => True))) :
    exec ev s = .next (refuseCall n c' (some .directory) (lookedUp n w' c' s)) := by
  rw [h.admitted, admission_noSlot low (takeSlot_none (s := lookedUp n w' c' s) full)]

/-- A call whose reservation fails is refused, and its record dropped (R12, R81). -/
theorem Admits.quota {cause : AllocCause} (h : Admits s n w w' c c' ev) (low : s.journal.unreleased < 8128)
    (numbers : s.dir.nextNumber ≤ 4294967295) (room : s.dir.docs.length < 4096) (fresh : s.dir.nextNumber ∉ s.dir.reclaim)
    (fails : TestFails s (callRoute s n c').dept s.policy.landingAllotment cause) : exec ev s = .next
      (refuseCall n c' (some .quota) (dropDoc s.dir.nextNumber
        (allocFailed (callRoute s n c').dept s.policy.landingAllotment cause (newcomer n w' c' s)))) := by
  have answer := reserve_of_fails (n := n) (allocTest_fails ((sameTest_newcomer (n := n) (w := w') (c := c') fresh).fails fails))
  rw [h.admitted, admission_newcomer low numbers room answer]
  rfl

/-- A call whose landing allotment is reserved is answered (R15, R81). -/
theorem Admits.taken (h : Admits s n w w' c c' ev) (low : s.journal.unreleased < 8128)
    (numbers : s.dir.nextNumber ≤ 4294967295) (room : s.dir.docs.length < 4096)
    (cap : CapPasses s (callRoute s n c').dept s.policy.landingAllotment)
    (shared : SharedPasses s (callRoute s n c').dept s.policy.landingAllotment) : exec ev s = .next
      (takeCall n c' s.dir.nextNumber (reserved n (callRoute s n c').dept s.policy.landingAllotment (newcomer n w' c' s))) := by
  have answer := reserve_of_passes (n := n) (allocTest_passes (s := newcomer n w' c' s) cap shared)
  rw [h.admitted, admission_newcomer low numbers room answer]
  rfl

end

theorem dropDoc_newcomer (n : LineNo) (w : Option Wait) (c : RxCall) (s : State) :
    (dropDoc s.dir.nextNumber (newcomer n w c s)).dir = { s.dir with
      docs := s.dir.docs.filter (fun x => decide (x.number ≠ s.dir.nextNumber)), nextNumber := s.dir.nextNumber + 1 } := by
  have gone : decide ((newDocument s.dir.nextNumber (callRoute s n c) n c.digits c.calling s.clock.cal).number ≠ s.dir.nextNumber) =
      false := decide_eq_false (fun e => e rfl)
  simp only [dropDoc, newcomer, addDoc, List.filter_append, List.filter_cons, gone, List.filter_nil, Bool.false_eq_true, if_false,
    List.append_nil]

/-- Settles O53, by the branches of admission with the call as the event leaves it. -/
theorem inboundCallsAreAdmitted : Obligations.InboundCallsAreAdmitted := by
  refine ⟨fun s n w c hears phase chan call closed rings one many => ?_,
    fun s n w w' c c' ev hears phase chan call closed rings event => ?_⟩
  · have before : modRx n (fun x => { x with rings := c.rings - 1 }) s =
        modLine n (fun l => l.hears w { c with rings := c.rings - 1 }) s := modRx_receiver call _
    have line := lineAt_modLine_self n (fun l => l.hears w { c with rings := c.rings - 1 }) s
    have back : min 255 (c.rings - 1 + 1) = c.rings := by omega
    have h : Admits (modLine n (fun l => l.hears w { c with rings := c.rings - 1 }) s) n w w { c with rings := c.rings - 1 } c
        (.ring n) :=
      ⟨by unfold Hears at *; rw [line]; exact hears, phase, by rw [line]; exact chan, by rw [line]; rfl, closed, rings,
        .inl ⟨rfl, rfl, by rw [back]⟩⟩
    have same : modLine n (fun l => l.hears w c) s = s := modLine_same (by unfold Line.hears; rw [← call])
    rw [before, h.admitted, modLine_modLine]
    exact congrArg (fun t => Host.Outcome.next (admission n t)) same
  · have h : Admits s n w w' c c' ev := ⟨hears, phase, chan, call, closed, rings, event⟩
    have route : lookupRoute s.routes (if c'.digits = [] then (lineAt s n).defaultKey.getD [] else c'.digits) = callRoute s n c' := rfl
    simp only [route]
    refine ⟨fun high => ?_, fun low full => ?_, fun m low numbers full old => h.purges low numbers full old,
      fun m low numbers room fresh r => h.reclaims low numbers room fresh r, fun cause low numbers room fresh fails => ?_,
      fun low numbers room unallotted cap shared => ?_⟩
    · have marks : Marked s (mark (.line n) (modLine n (fun l => (l.hears w' { c' with route := none }).refused s.clock.run) s))
        (fun x => x = .line n) := (mark_marked _ _).of_link rfl rfl rfl
      refine ⟨_, h.highWater high, ⟨fun m hm => (lineAt_of_lines (mark_lines _ _) m).trans (lineAt_modLine_ne hm _ s),
        (lineAt_of_lines (mark_lines _ _) n).trans (lineAt_modLine_self n _ s), fun enabled => (marks.2 _).2 (.inr ⟨enabled, rfl⟩)⟩, marks, rfl⟩
    · have r := refuseCall_refused (congrArg Line.call (lineAt_lookedUp n w' c' s)) c' .directory
      have frame := refuseCall_frame n c' .directory (lookedUp n w' c' s)
      refine ⟨_, h.noRecord low full, Refused.of_lookedUp r rfl rfl rfl, ?_, ?_⟩
      · rw [frame]; exact offered_written low _ _ _
      · rw [frame]; rfl
    · have failed := allocFailed_frame (callRoute s n c').dept s.policy.landingAllotment cause (newcomer n w' c' s)
      have marks := allocFailed_marked (callRoute s n c').dept s.policy.landingAllotment cause (newcomer n w' c' s)
      have account := acct_allocFailed (callRoute s n c').dept s.policy.landingAllotment cause (newcomer n w' c' s)
      have exit := h.quota low numbers room fresh fails
      generalize allocFailed (callRoute s n c').dept s.policy.landingAllotment cause (newcomer n w' c' s) = v at *
      have lines : (dropDoc s.dir.nextNumber v).lines = (lookedUp n w' c' s).lines := by rw [failed]; rfl
      have call : (lineAt (dropDoc s.dir.nextNumber v) n).call = some ⟨w', .receiver { c' with route := some (callRoute s n c') }⟩ := by
        rw [lineAt_of_lines lines, lineAt_lookedUp]; rfl
      have r := refuseCall_refused call c' .quota
      have frame := refuseCall_frame n c' .quota (dropDoc s.dir.nextNumber v)
      generalize refuseCall n c' (some .quota) (dropDoc s.dir.nextNumber v) = t at *
      have store : t.store = v.store := by rw [frame]; rfl
      have dir : t.dir = (dropDoc s.dir.nextNumber (newcomer n w' c' s)).dir := by rw [frame, failed]; rfl
      refine ⟨t, exit, r.of_lookedUp lines (by rw [failed]; rfl) (by rw [failed]; rfl), ?_, ?_, fun d other => ?_,
        dir.trans (dropDoc_newcomer n w' c' s), fun enabled => r.grows.subset ((marks.2 _).2 (.inr ⟨enabled, .inl rfl⟩)), ?_⟩
      · rw [frame, failed]; exact offered_written low _ _ _
      · rw [acct_congr (congrArg PageStore.accounts store), account, if_pos rfl]; rfl
      · rw [acct_congr (congrArg PageStore.accounts store), account, if_neg other]; rfl
      · rw [frame, failed]; rfl
    · have made := reserved_frame n (callRoute s n c').dept s.policy.landingAllotment (newcomer n w' c' s)
      have account := acct_reserved n (callRoute s n c').dept s.policy.landingAllotment (newcomer n w' c' s)
      have allotted := allotment_reserved n (callRoute s n c').dept s.policy.landingAllotment (newcomer n w' c' s)
      have pressure := reserved_pressure n (callRoute s n c').dept s.policy.landingAllotment (newcomer n w' c' s)
      have exit := h.taken low numbers room cap shared
      generalize reserved n (callRoute s n c').dept s.policy.landingAllotment (newcomer n w' c' s) = v at *
      have line : lineAt v n = (lineAt s n).hears w' { c' with route := some (callRoute s n c') } := by
        rw [← lineAt_lookedUp]; exact lineAt_of_lines (by rw [made]; rfl) n
      obtain ⟨ceiling, table, asked, e⟩ := takeCall_eq (w := w') (congrArg Line.call line) c' s.dir.nextNumber
      rw [e] at exit
      refine ⟨_, newDocument s.dir.nextNumber (callRoute s n c') n c'.digits c'.calling s.clock.cal, min (lineAt s n).maxStep ceiling,
        exit, ?_, ⟨rfl, rfl, rfl, rfl, rfl, rfl, rfl, rfl, rfl, rfl, rfl, rfl, rfl, rfl, rfl⟩, ?_, ?_, pressure, ?_, ?_, ?_, ?_, ?_, ?_, ?_⟩
      · rw [made]; rfl
      · exact (account _).trans (if_pos rfl)
      · refine (allotted n).trans ((if_pos rfl).trans ?_)
        rw [show allotment (newcomer n w' c' s) n = allotment s n from rfl, unallotted, Nat.zero_add]
      · intro nobody
        obtain ⟨top, kept⟩ := asked.nobody nobody
        exact ⟨by rw [top], by rw [kept, made]; rfl⟩
      · intro x calling stranger
        obtain ⟨top, kept⟩ := asked.stranger x calling (by rw [made]; exact stranger)
        exact ⟨by rw [top], by rw [kept, made]; rfl⟩
      · intro x e calling known
        obtain ⟨top, kept⟩ := asked.known x e calling (by rw [made]; exact known)
        exact ⟨by rw [top], by rw [made] at kept; exact kept⟩
      · rw [lineAt_modLine_self]
        show (lineAt v n).offered _ _ _ _ = _
        rw [line, show v.clock.run = s.clock.run by rw [made]; rfl]
        rfl
      · intro m hm
        rw [lineAt_modLine_ne hm]
        show lineAt v m = _
        rw [lineAt_of_lines (t := v) (s := lookedUp n w' c' s) (by rw [made]; rfl) m]
        exact lineAt_modLine_ne hm _ s
      · rw [made]; rfl
      · rw [made]; rfl

end Sys2Proof.Machine
end

section
/-! What the last group of a page, written as the page ends, leaves of the store memory and of its faults (R190). -/

namespace Sys2Proof.Machine

open Sys2Proof

/-! ## One group -/

/-- The bytes of a group lie in one block, behind one another (R5). -/
theorem pageAddress_group {off i : Nat} (blocks : List Block) (aligned : off % 8 = 0) (hi : i < 8) :
    pageAddress blocks (off + i) = (blocks[off / 8192]?).map (fun b => blockBase b + off % 8192 + i) := by
  have same : (off + i) / 8192 = off / 8192 := by omega
  have inside : (off + i) % 8192 = off % 8192 + i := by omega
  unfold pageAddress blockBytes
  rw [same, inside]
  simp only [Nat.add_assoc]

theorem readByte_writeGroup {s : State} {blocks : List Block} {off : Nat} {bytes : List Byte} (canonical : MemoryCanonical s)
    (aligned : off % 8 = 0) (full : bytes.length = 8) {i a : Nat} (hi : i < 8) (address : pageAddress blocks (off + i) = some a) :
    readByte (writeGroup blocks off bytes s).mem a = bytes.getD i 0 := by
  rw [pageAddress_group blocks aligned hi, Option.map_eq_some_iff] at address
  obtain ⟨b, hb, rfl⟩ := address
  have inside : i < bytes.length := by omega
  simp only [writeGroup, blockBytes, hb]
  rw [readByte_writeBytes _ _ canonical i inside, List.getD_eq_getElem _ _ inside]

theorem readByte_writeGroup_other {s : State} {blocks : List Block} {off : Nat} {bytes : List Byte} (aligned : off % 8 = 0)
    (full : bytes.length = 8) {a : Nat} (other : ∀ i, i < 8 → pageAddress blocks (off + i) ≠ some a) :
    readByte (writeGroup blocks off bytes s).mem a = readByte s.mem a := by
  unfold writeGroup blockBytes
  cases hb : blocks[off / 8192]? with
  | none => rfl
  | some b =>
    refine readByte_writeBytes_other _ _ _ _ ?_
    by_contra inside
    refine other (a - (blockBase b + off % 8192)) (by omega) ?_
    rw [pageAddress_group blocks aligned (by omega), hb, Option.map_some]
    congr 1; omega

theorem faults_writeGroup (s : State) (blocks : List Block) (off : Nat) (bytes : List Byte) (f : DramFault) :
    f ∈ (writeGroup blocks off bytes s).dram.faults ↔ f ∈ s.dram.faults ∧
      (f.persists = true ∨ ¬ (blocks[off / 8192]? = some f.block ∧ f.group.val = off % 8192 / 8)) := by
  unfold writeGroup blockBytes groupBytes
  cases hb : blocks[off / 8192]? with
  | none => simp
  | some b =>
    simp only [Dram.written, standsIn, List.mem_filter, Bool.or_eq_true, Bool.not_eq_true', Bool.and_eq_false_iff,
      decide_eq_false_iff_not, Option.some_inj, not_and_or, eq_comm (a := b)]

theorem draws_writeGroup (s : State) (blocks : List Block) (off : Nat) (bytes : List Byte) :
    (writeGroup blocks off bytes s).dram.draws = s.dram.draws := by
  unfold writeGroup; split <;> rfl

/-- What a group write leaves of memory and faults depends on them alone. -/
theorem writeGroup_congr {s t : State} (mem : t.mem = s.mem) (dram : t.dram = s.dram) (blocks : List Block) (off : Nat)
    (bytes : List Byte) : (writeGroup blocks off bytes t).mem = (writeGroup blocks off bytes s).mem ∧
      (writeGroup blocks off bytes t).dram = (writeGroup blocks off bytes s).dram := by
  unfold writeGroup
  split
  · exact ⟨mem, dram⟩
  · exact ⟨by rw [mem], by rw [dram]⟩

/-! ## The last group -/

theorem closeGroup_congr {s t : State} (mem : t.mem = s.mem) (dram : t.dram = s.dram) (l : Landing) :
    (closeGroup l t).mem = (closeGroup l s).mem ∧ (closeGroup l t).dram = (closeGroup l s).dram := by
  unfold closeGroup
  split
  · exact ⟨mem, dram⟩
  · exact writeGroup_congr mem dram _ _ _

/-- A state with the memory and the faults that the end of a page leaves. -/
theorem groupClosed {s t : State} {l : Landing} (mem : t.mem = (closeGroup l s).mem) (dram : t.dram = (closeGroup l s).dram) :
    GroupClosed s t l := by
  rw [closeGroup] at mem dram
  refine ⟨fun whole => ?_, fun part canonical fits => ?_⟩
  · rw [if_pos whole] at mem dram; exact ⟨mem, dram⟩
  · rw [if_neg part] at mem dram
    have aligned : (l.length - l.held.length) % 8 = 0 := by omega
    have full : (l.held ++ List.replicate (groupBytes - l.held.length) 0).length = 8 := by
      rw [List.length_append, List.length_replicate]; unfold groupBytes; omega
    refine ⟨fun i a hi address => ?_, fun a other => ?_, ?_, fun f => ?_⟩
    · rw [mem, readByte_writeGroup canonical aligned full hi address]
      simp only [List.getD_eq_getElem?_getD, List.getElem?_append, List.getElem?_replicate]
      split
      · rfl
      · rename_i past
        rw [List.getElem?_eq_none (Nat.not_lt.1 past)]; split <;> rfl
    · rw [mem, readByte_writeGroup_other aligned full other]
    · rw [dram, draws_writeGroup]
    · rw [dram, faults_writeGroup]

end Sys2Proof.Machine
end

section
/-! Verdicts on pages (R86 to R88): how a page is judged, and what its acceptance or rejection leaves (O56). -/

namespace Sys2Proof.Machine

open Sys2Proof

/-! ## The verdict -/

/-- A page is judged so (R86). -/
def Judged (c : RxCall) (d : Document) (T B : Nat) (v : Verdict) (cause : Option VerdictCause) : Prop :=
  (c.discard = some .oversize ∧ v = .reject ∧ cause = some .oversize) ∨
    (c.discard = some .storeFull ∧ v = .reject ∧ cause = some .storeFull) ∨
    (c.discard = none ∧ (∀ p, d.landing = some p → p.length = 0) ∧ v = .reject ∧ cause = some .empty) ∨
    (c.discard = none ∧ ∃ p, d.landing = some p ∧ 0 < p.length ∧
      ((T = 0 ∧ v = .reject ∧ cause = some .quality) ∨ (0 < T ∧ 64 * B ≤ T ∧ v = .accept ∧ cause = none) ∨
        (0 < T ∧ T < 64 * B ∧ 16 * B ≤ T ∧ v = .acceptRetrain ∧ cause = none) ∨
        (0 < T ∧ T < 16 * B ∧ v = .reject ∧ cause = some .quality)))

theorem judge_of_judged {c : RxCall} {d : Document} {total bad : Nat} {v : Verdict} {cause : Option VerdictCause}
    (h : Judged c d (scanLines total) (badLines total bad) v cause) :
    judge c.discard (d.landing.elim 0 Landing.length) total bad = (v, cause) := by
  unfold judge
  rcases h with ⟨e, rfl, rfl⟩ | ⟨e, rfl, rfl⟩ | ⟨e, empty, rfl, rfl⟩ | ⟨e, p, landing, some, quality⟩
  · rw [e]
  · rw [e]
  · have none : d.landing.elim 0 Landing.length = 0 := by
      cases landing : d.landing with
      | none => rfl
      | some p => exact empty p landing
    simp only [e, none, if_true]
  · have long : d.landing.elim 0 Landing.length ≠ 0 := by rw [landing]; exact Nat.ne_of_gt some
    simp only [e, if_neg long]
    rcases quality with ⟨zero, rfl, rfl⟩ | ⟨pos, few, rfl, rfl⟩ | ⟨pos, many, some, rfl, rfl⟩ | ⟨pos, many, rfl, rfl⟩
    · rw [if_pos zero]
    · rw [if_neg (by omega), if_pos (by omega)]
    · rw [if_neg (by omega), if_neg (by omega), if_pos (by omega)]
    · rw [if_neg (by omega), if_neg (by omega), if_neg (by omega)]

theorem Judged.accepts {c : RxCall} {d : Document} {T B : Nat} {v : Verdict} {cause : Option VerdictCause}
    (h : Judged c d T B v cause) (accepted : v ≠ .reject) : ∃ p, d.landing = some p ∧ cause = none := by
  rcases h with ⟨-, rfl, -⟩ | ⟨-, rfl, -⟩ | ⟨-, -, rfl, -⟩ | ⟨-, p, landing, -, quality⟩
  · exact absurd rfl accepted
  · exact absurd rfl accepted
  · exact absurd rfl accepted
  · rcases quality with ⟨-, rfl, -⟩ | ⟨-, -, -, none⟩ | ⟨-, -, -, -, none⟩ | ⟨-, -, rfl, -⟩
    · exact absurd rfl accepted
    · exact ⟨p, landing, none⟩
    · exact ⟨p, landing, none⟩
    · exact absurd rfl accepted

/-- A line that has given a verdict and waits for its acknowledgment (R87, R88). -/
def Line.verdict (l : Line) (run : Nat) (v : Verdict) (c : RxCall) (stats : LineStats) : Line :=
  { l.sends run (.sendVerdict v) with chan := .verdict, call := some ⟨none, .receiver c⟩, stats := stats }

/-! ## An accepted page -/

/-- The record of a receiving call once a page has been accepted (R87). -/
def RxCall.accepted (c : RxCall) (v : Verdict) (last : Bool) : RxCall := { c with
  pages := c.pages + 1, rejects := 0, firstVerdict := true, anyRetrain := c.anyRetrain || v == .acceptRetrain
  lastVerdict := some v, lastCause := none, discard := none, lastPage := last }

/-- The record of a receiving call once a page has been rejected (R88). -/
def RxCall.rejected (c : RxCall) (cause : Option VerdictCause) (last : Bool) : RxCall := { c with
  rejects := c.rejects + 1, firstVerdict := true, anyReject := true, lastVerdict := some .reject, lastCause := cause
  discard := none, lastPage := last }

/-- A page has been accepted, before the top-up check and the verdict (R87). -/
def pageAccepted (n : LineNo) (doc : Nat) (p : Landing) (v : Verdict) (total bad : Nat) (last : Bool) (s : State) : State :=
  modStats n (fun st => { st with pagesAccepted := satSucc counterTop st.pagesAccepted })
    (modRx n (fun c => c.accepted v last) (acceptLanding doc p v total bad s))

/-- A page has been rejected, before the verdict (R88). -/
def pageRejected (n : LineNo) (doc : Nat) (cause : Option VerdictCause) (last : Bool) (s : State) : State :=
  modStats n (fun st => { st with pagesRejected := satSucc counterTop st.pagesRejected })
    (modRx n (fun c => c.rejected cause last) (freeLanding doc s))

/-- A line in RECEIVING whose page ends, with its call's document (R86). -/
structure Receives (s : State) (n : LineNo) (w : Option Wait) (c : RxCall) (d : Document) : Prop where
  hears : Hears s n
  chan : (lineAt s n).chan = .receiving
  call : (lineAt s n).call = some ⟨w, .receiver c⟩
  document : c.document = some d.number
  found : findDoc s d.number = some d

theorem Receives.takesIn {s : State} {n : LineNo} {w : Option Wait} {c : RxCall} {d : Document} (h : Receives s n w c d) :
    takesIn s n .receiving = true := by
  simp [Machine.takesIn, takesEvents_of_hears h.hears, h.chan]

theorem Receives.purged {s : State} {n : LineNo} {w : Option Wait} {c : RxCall} {d x : Document} {m : Nat} (h : Receives s n w c d)
    (found : findDoc s m = some x) (other : m ≠ d.number) : Receives (purgeDoc m s) n w c d := by
  obtain ⟨hears, chan, call, document, record⟩ := h
  have line := lineAt_of_lines (purgeDoc_lines m s) n
  exact ⟨by unfold Hears at *; rwa [purgeDoc_part, line], by rwa [line], by rwa [line], document,
    by rw [findDoc_purgeDoc found, if_neg (Ne.symm other)]; exact record⟩

section
variable {s : State} {n : LineNo} {w : Option Wait} {c : RxCall} {d : Document} {total bad : Nat} {last : Bool} {v : Verdict}
  {cause : Option VerdictCause}

theorem Receives.rejects (h : Receives s n w c d) (j : Judged c d (scanLines total) (badLines total bad) .reject cause) :
    exec (.pageEnd n total bad last) s = .next (giveVerdict n .reject (pageRejected n d.number cause last s)) := by
  show execPageEnd n total bad last s = _
  simp only [execPageEnd, h.takesIn, if_true, rxOf_receiver h.call, h.document, Option.bind_some, h.found, judgePage, judge_of_judged j]
  rfl

theorem Receives.accepts (h : Receives s n w c d) {p : Landing} (landing : d.landing = some p) (accepted : v ≠ .reject)
    (j : Judged c d (scanLines total) (badLines total bad) v cause) :
    exec (.pageEnd n total bad last) s = .next (giveVerdict n v (topUp n d.dept (pageAccepted n d.number p v total bad last s))) := by
  have judged := judge_of_judged j
  rw [landing] at judged
  show execPageEnd n total bad last s = _
  simp only [execPageEnd, h.takesIn, if_true, rxOf_receiver h.call, h.document, Option.bind_some, h.found, judgePage, landing, judged]
  cases v with
  | reject => exact absurd rfl accepted
  | accept => rfl
  | acceptRetrain => rfl

end

/-! ## What a verdict leaves -/

theorem giveVerdict_eq {n : LineNo} {s : State} {w : Option Wait} {c : RxCall} (call : (lineAt s n).call = some ⟨w, .receiver c⟩)
    (v : Verdict) : giveVerdict n v s = modLine n (fun l => l.verdict s.clock.run v c l.stats) s := by
  unfold giveVerdict setWait setChan
  rw [sendCmd_eq, modLine_modLine, modLine_modLine]
  exact modLine_congr (by simp [Line.sends, Line.verdict, call])

theorem pageAccepted_eq {n : LineNo} {s : State} {w : Option Wait} {c : RxCall} (call : (lineAt s n).call = some ⟨w, .receiver c⟩)
    (doc : Nat) (p : Landing) (v : Verdict) (total bad : Nat) (last : Bool) : pageAccepted n doc p v total bad last s =
      modLine n (fun l => { l.hears w (c.accepted v last) with
        stats := { l.stats with pagesAccepted := min 65535 (l.stats.pagesAccepted + 1) } }) (acceptLanding doc p v total bad s) := by
  have lines : (acceptLanding doc p v total bad s).lines = s.lines := closeGroup_lines p s
  unfold pageAccepted modStats
  rw [modRx_receiver (by rw [lineAt_of_lines lines]; exact call), modLine_modLine]
  simp only [satSucc_counter]
  rfl

theorem pageRejected_eq {n : LineNo} {s : State} {w : Option Wait} {c : RxCall} (call : (lineAt s n).call = some ⟨w, .receiver c⟩)
    (doc : Nat) (cause : Option VerdictCause) (last : Bool) : pageRejected n doc cause last s =
      modLine n (fun l => { l.hears w (c.rejected cause last) with
        stats := { l.stats with pagesRejected := min 65535 (l.stats.pagesRejected + 1) } }) (freeLanding doc s) := by
  unfold pageRejected modStats
  rw [modRx_receiver (by rw [lineAt_of_lines (freeLanding_lines doc s)]; exact call), modLine_modLine]
  simp only [satSucc_counter]
  rfl

theorem acceptLanding_frame (doc : Nat) (p : Landing) (v : Verdict) (total bad : Nat) (s : State) :
    acceptLanding doc p v total bad s = { s with
      mem := (closeGroup p s).mem, dram := (closeGroup p s).dram
      dir := { s.dir with docs := (acceptLanding doc p v total bad s).dir.docs } } := by
  unfold acceptLanding modDoc
  rw [closeGroup_frame]

/-- The blocks of a landing page are given back, and its last group is written (R18, R190). -/
structure LandingFreed (s t : State) (d : Document) (p : Landing) : Prop where
  freed : Freed s t d.dept p.blocks.length
  account : acct t d.dept = { acct s d.dept with used := (acct s d.dept).used - p.blocks.length }
  accounts : ∀ e : Dept, e ≠ d.dept → acct t e = acct s e
  allotments : t.store.allotments = s.store.allotments
  memory : t.mem = (closeGroup p s).mem ∧ t.dram = (closeGroup p s).dram
  frame : t = { s with
    mem := t.mem, dram := t.dram, dir := { s.dir with docs := t.dir.docs }, store := t.store
    integrity := { s.integrity with exhausted := t.integrity.exhausted }, link := { s.link with notices := t.link.notices } }

theorem landingFreed {s : State} {d : Document} {p : Landing} (found : findDoc s d.number = some d) (landing : d.landing = some p) :
    LandingFreed s (freeLanding d.number s) d p := by
  obtain ⟨own, others, free, grows, spares, retired, total⟩ := freeBlocks_spec d.dept p.blocks (closeGroup p s)
  have frame := freeBlocks_frame d.dept p.blocks (closeGroup p s)
  rw [freeLanding_eq found landing]
  generalize freeBlocks d.dept p.blocks (closeGroup p s) = u at *
  have closed := closeGroup_frame p s
  have store : (closeGroup p s).store = s.store := by rw [closed]
  have settled := evalPressure_settled (modDoc d.number (fun e => { e with landing := none }) u)
  have accounts (e : Dept) : acct (evalPressure (modDoc d.number (fun e => { e with landing := none }) u)) e = acct u e :=
    acct_evalPressure _ e
  have kept := evalPressure_frame (modDoc d.number (fun e => { e with landing := none }) u)
  generalize evalPressure (modDoc d.number (fun e => { e with landing := none }) u) = t at *
  have before : u.store.pressure = s.store.pressure := by rw [frame, store]
  rw [show acct (closeGroup p s) = acct s from by unfold acct; rw [store]] at own others
  rw [store] at free grows spares retired total
  rw [modDoc_store, before] at settled
  refine ⟨⟨?_, ?_, ?_, settled⟩, ?_, fun e he => ?_, ?_, ⟨?_, ?_⟩, ?_⟩
  · rw [accounts, own]
  · rw [kept]; exact ⟨free, grows⟩
  · rw [kept]; exact ⟨spares, retired, total⟩
  · rw [accounts, own]
  · rw [accounts, others e he]
  · rw [kept, modDoc_store, frame, store]
  · rw [kept, modDoc_mem, frame]
  · rw [kept, modDoc_dram, frame]
  · rw [kept]
    unfold modDoc
    rw [frame, closed]

/-! ## The top-up check -/

/-- What a line lacks of its allotment (R17). -/
def lacks (s : State) (n : LineNo) : Nat := s.policy.landingAllotment - (allotment s n).count

/-- A line's allotment has fallen below half (R17). -/
def Low (s : State) (n : LineNo) : Prop := 2 * (allotment s n).count < s.policy.landingAllotment

theorem topUp_not {n : LineNo} {s : State} (h : ¬ Low s n) (d : Dept) : topUp n d s = s := if_neg (by unfold Low at h; omega)

theorem topUp_low {n : LineNo} {s : State} (h : Low s n) (d : Dept) : topUp n d s = (reserve n d (lacks s n) s).1 :=
  if_pos (by unfold Low at h; omega)

/-- A top-up check that purges nothing (R17, R20). -/
structure ToppedUp (s t : State) (n : LineNo) (d : Dept) : Prop where
  idle : ¬ Low s n → t.store = s.store
  pressure : Low s n → t.store.pressure = pressureAfter s.store.pressure t
  passes : Low s n → CapPasses s d (lacks s n) → SharedPasses s d (lacks s n) →
    acct t d = { acct s d with resv := (acct s d).resv + lacks s n } ∧ allotment t n = ⟨some d, s.policy.landingAllotment⟩ ∧
    ∀ m : LineNo, m ≠ n → allotment t m = allotment s m
  fails : Low s n → ∀ why, TestFails s d (lacks s n) why →
    acct t d = { acct s d with lastFailure := some ⟨why, lacks s n, s.clock.run⟩ } ∧ t.store.allotments = s.store.allotments ∧
    (s.link.classes.department = true → Subject.department d ∈ t.link.notices)
  accounts : ∀ e : Dept, e ≠ d → acct t e = acct s e
  frame : t = { s with
    store := { s.store with accounts := t.store.accounts, allotments := t.store.allotments, pressure := t.store.pressure }
    link := { s.link with notices := t.link.notices } }

theorem toppedUp {s : State} {n : LineNo} {d : Dept} (ends : ¬ Low s n ∨
    (CapPasses s d (lacks s n) ∧ SharedPasses s d (lacks s n)) ∨ ∃ why, TestFails s d (lacks s n) why) :
    ToppedUp s (topUp n d s) n d := by
  by_cases low : Low s n
  · rcases ends with full | ⟨cap, shared⟩ | ⟨why, fails⟩
    · exact absurd low full
    · have frame := reserved_frame n d (lacks s n) s
      rw [topUp_low low, reserve_of_passes (allocTest_passes cap shared)]
      refine ⟨fun full => absurd low full, fun _ => reserved_pressure _ _ _ _, fun _ _ _ => ⟨?_, ?_, fun m hm => ?_⟩,
        fun _ why fails => absurd ⟨cap, shared⟩ fails.fails, fun e he => ?_, ?_⟩
      · rw [acct_reserved, if_pos rfl]
      · rw [allotment_reserved, if_pos rfl, show (allotment s n).count + lacks s n = s.policy.landingAllotment by
          unfold lacks; unfold Low at low; omega]
      · rw [allotment_reserved, if_neg hm]
      · rw [acct_reserved, if_neg he]
      · exact frame
    · have frame := allocFailed_frame d (lacks s n) why s
      have marks := allocFailed_marked d (lacks s n) why s
      rw [topUp_low low, reserve_of_fails (allocTest_fails fails)]
      refine ⟨fun full => absurd low full, fun _ => allocFailed_pressure _ _ _ _, fun _ cap shared => absurd ⟨cap, shared⟩ fails.fails,
        fun _ why' fails' => ⟨?_, ?_, fun enabled => (marks.2 _).2 (.inr ⟨enabled, .inl rfl⟩)⟩, fun e he => ?_, ?_⟩
      · have one : (s, some why) = (s, some why') := (allocTest_fails fails).symm.trans (allocTest_fails fails')
        obtain rfl := Option.some.inj (congrArg Prod.snd one)
        rw [acct_allocFailed, if_pos rfl]
      · show (allocFailed d (lacks s n) why s).store.allotments = _
        rw [frame]
      · rw [acct_allocFailed, if_neg he]
      · show allocFailed d (lacks s n) why s = _
        rw [frame]
  · rw [topUp_not low]
    exact ⟨fun _ => rfl, fun h => absurd h low, fun h => absurd h low, fun h => absurd h low, fun _ _ => rfl, rfl⟩

/-! ## Purges for a top-up -/

/-- A document whose landing page has joined its pages (R31, R32, R87). -/
def Document.joins (p : Landing) (v : Verdict) (total bad : Nat) (d : Document) : Document :=
  { d with pages := d.pages ++ [pageRecord p v total bad], landing := none, crc := p.crc }

theorem Document.joins_number (p : Landing) (v : Verdict) (total bad : Nat) (d : Document) : (d.joins p v total bad).number = d.number :=
  rfl

section
variable {s : State} {n : LineNo} {w : Option Wait} {c : RxCall} {d : Document} {p : Landing}

theorem pageAccepted_frame (call : (lineAt s n).call = some ⟨w, .receiver c⟩) (doc : Nat) (v : Verdict) (total bad : Nat) (last : Bool) :
    pageAccepted n doc p v total bad last s = { s with
      mem := (closeGroup p s).mem, dram := (closeGroup p s).dram, lines := (pageAccepted n doc p v total bad last s).lines
      dir := { s.dir with docs := (acceptLanding doc p v total bad s).dir.docs } } := by
  rw [pageAccepted_eq call, acceptLanding_frame]
  rfl

theorem docs_acceptLanding (doc : Nat) (v : Verdict) (total bad : Nat) : (acceptLanding doc p v total bad s).dir.docs =
    (modDoc doc (Document.joins p v total bad) s).dir.docs := by
  unfold acceptLanding modDoc
  rw [closeGroup_frame]
  rfl

theorem findDoc_pageAccepted (call : (lineAt s n).call = some ⟨w, .receiver c⟩) (doc m : Nat) (v : Verdict) (total bad : Nat)
    (last : Bool) : findDoc (pageAccepted n doc p v total bad last s) m = findDoc
      (modDoc doc (Document.joins p v total bad) s) m := by
  refine findDoc_dir ?_ m
  rw [pageAccepted_frame call]; exact docs_acceptLanding doc v total bad

end

theorem modDoc_filter (doc m : Nat) (f : Document → Document) (hf : ∀ e, (f e).number = e.number) (ds : List Document) :
    (ds.filter (fun x => decide (x.number ≠ m))).map (fun d => if d.number = doc then f d else d) =
      (ds.map (fun d => if d.number = doc then f d else d)).filter (fun x => decide (x.number ≠ m)) := by
  rw [List.filter_map]
  congr 2
  funext x
  simp only [Function.comp]
  split <;> simp [hf]

section
variable {s : State} {n : LineNo} {w : Option Wait} {c : RxCall} {d : Document} {p : Landing}

theorem sameTest_pageAccepted (call : (lineAt s n).call = some ⟨w, .receiver c⟩) (doc : Nat) (v : Verdict) (total bad : Nat)
    (last : Bool) : SameTest s (pageAccepted n doc p v total bad last s) := by
  have frame := pageAccepted_frame (p := p) call doc v total bad last
  refine ⟨by rw [frame], by rw [frame], fun y _ => ?_⟩
  rw [findDoc_pageAccepted call, findDoc_modDoc doc y _ (Document.joins_number p v total bad)]
  split
  · rename_i e; subst e; cases findDoc s y <;> rfl
  · rfl

theorem pageAccepted_purgeDoc {m : Nat} {x : Document} (call : (lineAt s n).call = some ⟨w, .receiver c⟩) (found : findDoc s m = some x)
    {doc : Nat} (other : m ≠ doc) (v : Verdict) (total bad : Nat) (last : Bool) :
    pageAccepted n doc p v total bad last (purgeDoc m s) = purgeDoc m (pageAccepted n doc p v total bad last s) := by
  have same : findDoc (pageAccepted n doc p v total bad last s) m = findDoc s m := by
    rw [findDoc_pageAccepted call, findDoc_modDoc doc m _ (Document.joins_number p v total bad), if_neg other]
  have frame := pageAccepted_frame (p := p) call doc v total bad last
  have lines := purgeDoc_lines m s
  have call' : (lineAt (purgeDoc m s) n).call = some ⟨w, .receiver c⟩ := by rw [lineAt_of_lines lines]; exact call
  obtain ⟨mem, dram⟩ := closeGroup_congr (purgeDoc_mem m s) (purgeDoc_dram m s) p
  have docs : (acceptLanding doc p v total bad (purgeDoc m s)).dir.docs =
      (acceptLanding doc p v total bad s).dir.docs.filter (fun x => decide (x.number ≠ m)) := by
    rw [docs_acceptLanding, docs_acceptLanding]
    unfold modDoc
    rw [purgeDoc_docs found, modDoc_filter doc m _ (Document.joins_number p v total bad)]
  have moved : (pageAccepted n doc p v total bad last (purgeDoc m s)).lines = (pageAccepted n doc p v total bad last s).lines := by
    rw [pageAccepted_eq call', pageAccepted_eq call]
    unfold modLine acceptLanding
    rw [modDoc_lines, modDoc_lines, closeGroup_lines, closeGroup_lines, lines]
  rw [purgeDoc_beside found same (by rw [frame]), pageAccepted_frame call', docs, moved, mem, dram]
  generalize pageAccepted n doc p v total bad last s = u at frame ⊢
  have memory : u.mem = (closeGroup p s).mem := by rw [frame]
  have faults : u.dram = (closeGroup p s).dram := by rw [frame]
  have records : u.dir.docs = (acceptLanding doc p v total bad s).dir.docs := by rw [frame]
  have number : u.dir.nextNumber = (purgeDoc m s).dir.nextNumber := by rw [frame, purgeDoc_nextNumber]
  simp only [overlay, recordsWithout, memory, faults, records, number]

end

/-! ## The statement -/

section
variable {s : State} {n : LineNo} {w : Option Wait} {c : RxCall} {d : Document} {p : Landing} {v : Verdict} {cause : Option VerdictCause}
  {total bad : Nat} {last : Bool}

/-- While the top-up's test fails and reclaim finds a document, that one goes first (R11, R17). -/
theorem Receives.reclaims {m : Nat} (h : Receives s n w c d) (j : Judged c d (scanLines total) (badLines total bad) v cause)
    (accepted : v ≠ .reject) (low : Low s n) (other : m ≠ d.number) (r : Reclaims s d.dept (lacks s n) m) :
    exec (.pageEnd n total bad last) s = exec (.pageEnd n total bad last) (purgeDoc m s) := by
  obtain ⟨-, x, found, -⟩ := r.found
  obtain ⟨p, landing, -⟩ := j.accepts accepted
  have frame := pageAccepted_frame (p := p) h.call d.number v total bad last
  have lacking : lacks (pageAccepted n d.number p v total bad last s) n = lacks s n := by rw [frame]; rfl
  have lacking' : lacks (purgeDoc m (pageAccepted n d.number p v total bad last s)) n = lacks s n := by
    unfold lacks; rw [purgeDoc_policy, allotment_congr (purgeDoc_allotments _ _)]; exact lacking
  have lowers : Low (pageAccepted n d.number p v total bad last s) n := by rw [frame]; exact low
  have lowers' : Low (purgeDoc m (pageAccepted n d.number p v total bad last s)) n := by
    unfold Low; rw [purgeDoc_policy, allotment_congr (purgeDoc_allotments _ _)]; exact lowers
  have reclaims := (sameTest_pageAccepted (p := p) h.call d.number v total bad last).reclaims r
  rw [h.accepts landing accepted j, (h.purged found other).accepts landing accepted j, pageAccepted_purgeDoc h.call found other,
    topUp_low lowers, topUp_low lowers', lacking, lacking', reserve_reclaims reclaims]

end

end Sys2Proof.Machine
end

section
/-! What a verdict leaves on the line and in the store (O56). -/

namespace Sys2Proof.Machine

open Sys2Proof

/-! ## Rejection and acceptance on the line -/

theorem reserve_clock (n : LineNo) (d : Dept) (k : Nat) (s : State) : (reserve n d k s).1.clock = s.clock := by
  obtain ⟨u, rounds, ⟨e, -⟩ | ⟨cause, e, -⟩⟩ := reserve_cases n d k s
  · rw [e, reserved_frame]; exact (ReclaimRound.keeps_accounts rounds).2.1
  · rw [e, allocFailed_frame]; exact (ReclaimRound.keeps_accounts rounds).2.1

theorem topUp_clock (n : LineNo) (d : Dept) (s : State) : (topUp n d s).clock = s.clock := by
  by_cases low : Low s n
  · rw [topUp_low low]; exact reserve_clock _ _ _ _
  · rw [topUp_not low]

theorem pressureAfter_of_store {s t : State} (h : t.store = s.store) (was : Bool) : pressureAfter was t = pressureAfter was s :=
  pressureAfter_congr (congrArg PageStore.accounts h) was

theorem Freed.of_store {s t u : State} {d : Dept} {k : Nat} (h : Freed s t d k) (same : u.store = t.store) : Freed s u d k := by
  obtain ⟨used, free, spares, pressure⟩ := h
  exact ⟨by rw [acct_congr (congrArg PageStore.accounts same)]; exact used, by rw [same]; exact free, by rw [same]; exact spares,
    by rw [pressureAfter_of_store same, same]; exact pressure⟩

theorem OtherDocs.of_docs {s t u : State} {n : Nat} (h : OtherDocs s t n) (same : u.dir.docs = t.dir.docs) : OtherDocs s u n :=
  ⟨fun m hm => (findDoc_dir same m).trans (h.1 m hm), by rw [same]; exact h.2⟩

theorem freeLanding_none {s : State} {d : Document} (found : findDoc s d.number = some d) (landing : d.landing = none) :
    freeLanding d.number s = s :=
  freeLanding_not (fun e he => by rw [found] at he; obtain rfl := Option.some.inj he; exact landing)

/-- What giving a landing page's blocks back may change (R18, R190). -/
theorem freeLanding_frame (n : Nat) (s : State) : freeLanding n s = { s with
    mem := (freeLanding n s).mem, dram := (freeLanding n s).dram, dir := { s.dir with docs := (freeLanding n s).dir.docs }
    store := (freeLanding n s).store, integrity := { s.integrity with exhausted := (freeLanding n s).integrity.exhausted }
    link := { s.link with notices := (freeLanding n s).link.notices } } := by
  cases found : findDoc s n with
  | none => rw [freeLanding_not (fun d hd => by rw [found] at hd; cases hd)]
  | some d =>
    obtain rfl := findDoc_number found
    cases landing : d.landing with
    | none => rw [freeLanding_none found landing]
    | some p => exact (landingFreed found landing).frame

theorem freeLanding_others {s : State} {d : Document} (found : findDoc s d.number = some d) :
    OtherDocs s (freeLanding d.number s) d.number ∧ ∀ e : Dept, e ≠ d.dept → acct (freeLanding d.number s) e = acct s e := by
  cases landing : d.landing with
  | none => rw [freeLanding_none found landing]; exact ⟨⟨fun _ _ => rfl, rfl⟩, fun _ _ => rfl⟩
  | some p => exact ⟨(modDoc_others d.number (fun e => { e with landing := none }) (fun _ => rfl) s).of_docs (docs_freeLanding found landing),
      (landingFreed found landing).accounts⟩

section
variable {s : State} {n : LineNo} {w : Option Wait} {c : RxCall} {d : Document} {p : Landing} {v : Verdict} {cause : Option VerdictCause}
  {total bad : Nat} {last : Bool}

theorem Receives.rejectedLine (h : Receives s n w c d) (j : Judged c d (scanLines total) (badLines total bad) .reject cause) :
    ∃ t, exec (.pageEnd n total bad last) s = .next t ∧
      lineAt t n = (lineAt s n).verdict s.clock.run .reject (c.rejected cause last)
        { (lineAt s n).stats with pagesRejected := min 65535 ((lineAt s n).stats.pagesRejected + 1) } ∧ OtherLines s t n ∧
      t = { freeLanding d.number s with lines := t.lines } := by
  have before := pageRejected_eq h.call d.number cause last
  have lines := freeLanding_lines d.number s
  have line : lineAt (pageRejected n d.number cause last s) n = { (lineAt s n).hears w (c.rejected cause last) with
      stats := { (lineAt s n).stats with pagesRejected := min 65535 ((lineAt s n).stats.pagesRejected + 1) } } := by
    rw [before, lineAt_modLine_self, lineAt_of_lines lines]
  have clock : (pageRejected n d.number cause last s).clock = s.clock := by
    rw [before, modLine_clock, freeLanding_frame]
  refine ⟨_, h.rejects j, ?_, fun m hm => ?_, ?_⟩
  · rw [giveVerdict_eq (congrArg Line.call line), lineAt_modLine_self, line, clock]; rfl
  · rw [giveVerdict_eq (congrArg Line.call line), lineAt_modLine_ne hm, before, lineAt_modLine_ne hm, lineAt_of_lines lines]
  · rw [giveVerdict_eq (congrArg Line.call line), before]; rfl

theorem Receives.acceptedLine (h : Receives s n w c d) (landing : d.landing = some p) (accepted : v ≠ .reject)
    (j : Judged c d (scanLines total) (badLines total bad) v cause) : ∃ t, exec (.pageEnd n total bad last) s = .next t ∧
      lineAt t n = (lineAt s n).verdict s.clock.run v (c.accepted v last)
        { (lineAt s n).stats with pagesAccepted := min 65535 ((lineAt s n).stats.pagesAccepted + 1) } ∧ OtherLines s t n ∧
      t = { topUp n d.dept (pageAccepted n d.number p v total bad last s) with lines := t.lines } := by
  have before := pageAccepted_eq (p := p) h.call d.number v total bad last
  have lines := topUp_lines n d.dept (pageAccepted n d.number p v total bad last s)
  have same : (acceptLanding d.number p v total bad s).lines = s.lines := by rw [acceptLanding_frame]
  have line : lineAt (topUp n d.dept (pageAccepted n d.number p v total bad last s)) n = { (lineAt s n).hears w (c.accepted v last) with
      stats := { (lineAt s n).stats with pagesAccepted := min 65535 ((lineAt s n).stats.pagesAccepted + 1) } } := by
    rw [lineAt_of_lines lines, before, lineAt_modLine_self, lineAt_of_lines same]
  have clock : (topUp n d.dept (pageAccepted n d.number p v total bad last s)).clock = s.clock := by
    rw [topUp_clock, pageAccepted_frame h.call]
  refine ⟨_, h.accepts landing accepted j, ?_, fun m hm => ?_, ?_⟩
  · rw [giveVerdict_eq (congrArg Line.call line), lineAt_modLine_self, line, clock]; rfl
  · rw [giveVerdict_eq (congrArg Line.call line), lineAt_modLine_ne hm, lineAt_of_lines lines, before, lineAt_modLine_ne hm,
      lineAt_of_lines same]
  · rw [giveVerdict_eq (congrArg Line.call line)]; rfl

end

/-- Settles O56, by the verdict on the page: a rejected page gives its blocks back, an accepted one is followed by the top-up check. -/
theorem pagesAreJudged : Obligations.PagesAreJudged := by
  refine ⟨fun s n total bad last chan => ?_, fun s n w c d total bad last hears chan call document found => ?_⟩
  · show execPageEnd n total bad last s = _
    have elsewhere : takesIn s n .receiving = false := by simp [takesIn, chan]
    simp only [execPageEnd, elsewhere, Bool.false_eq_true, if_false]
  · have h : Receives s n w c d := ⟨hears, chan, call, document, found⟩
    dsimp only
    intro v cause judged
    have j : Judged c d (scanLines total) (badLines total bad) v cause := judged
    refine ⟨fun m accepted low other r => h.reclaims j accepted low other r, fun ends => ?_⟩
    by_cases rejected : v = .reject
    · subst rejected
      obtain ⟨t, exit, line, others, leaves⟩ := h.rejectedLine (last := last) j
      obtain ⟨docs, accounts⟩ := freeLanding_others found
      have records := findDoc_freeLanding found
      have frame := freeLanding_frame d.number s
      have freed (p : Landing) (landing : d.landing = some p) := landingFreed found landing
      have nothing (none : d.landing = none) : freeLanding d.number s = s := freeLanding_none found none
      generalize freeLanding d.number s = u at *
      have store : t.store = u.store := by rw [leaves]
      have dir : t.dir = u.dir := by rw [leaves]
      have page : t.mem = u.mem ∧ t.dram = u.dram := by rw [leaves]; exact ⟨rfl, rfl⟩
      have account := acct_congr (congrArg PageStore.accounts store)
      refine ⟨t, exit, others, docs.of_docs (congrArg Directory.docs dir), fun _ => ⟨?_, fun none => ?_, fun p landing => ?_, line⟩,
        fun k => absurd rfl k, fun k => absurd rfl k, fun k => absurd rfl k, fun e he => (account e).trans (accounts e he),
        fun p landing => ?_, fun none => ?_, ?_⟩
      · exact (findDoc_dir (congrArg Directory.docs dir) _).trans records
      · rw [store, nothing none]
      · have f := freed p landing
        exact ⟨f.freed.of_store store, (account _).trans f.account, by rw [store]; exact f.allotments⟩
      · obtain ⟨memory, faults⟩ := (freed p landing).memory
        exact groupClosed (page.1.trans memory) (page.2.trans faults)
      · rw [page.1, page.2, nothing none]; exact ⟨rfl, rfl⟩
      · rw [leaves, frame]
    · obtain ⟨p, landing, -⟩ := j.accepts rejected
      obtain ⟨t, exit, line, others, leaves⟩ := h.acceptedLine (last := last) landing rejected j
      have before := pageAccepted_frame (p := p) call d.number v total bad last
      have same := sameTest_pageAccepted (p := p) call d.number v total bad last
      generalize pageAccepted n d.number p v total bad last s = u at *
      have store : u.store = s.store := by rw [before]
      have lacking : lacks u n = lacks s n := by rw [before]; rfl
      have lowers : Low u n ↔ Low s n := by rw [before]; rfl
      have topped : ToppedUp u (topUp n d.dept u) n d.dept := by
        refine toppedUp ?_
        rw [lacking, lowers, same.cap, same.shared]
        rcases ends with no | idle | passes | ⟨why, fails⟩
        · exact absurd no rejected
        · exact .inl idle
        · exact .inr (.inl passes)
        · exact .inr (.inr ⟨why, same.fails fails⟩)
      obtain ⟨idle, pressure, passes, fails, accounts, frame⟩ := topped
      generalize topUp n d.dept u = x at *
      rw [lacking, lowers, same.cap, same.shared] at passes
      rw [lacking, lowers] at fails
      rw [lowers] at idle pressure
      have late : t.store = x.store := by rw [leaves]
      have docs : t.dir.docs = (modDoc d.number (Document.joins p v total bad) s).dir.docs := by
        rw [leaves, frame, before]; exact docs_acceptLanding d.number v total bad
      have account (e : Dept) : acct t e = acct x e := acct_congr (congrArg PageStore.accounts late) e
      have early (e : Dept) : acct u e = acct s e := acct_congr (congrArg PageStore.accounts store) e
      have allotted (m : LineNo) : allotment t m = allotment x m := allotment_congr (congrArg PageStore.allotments late) m
      have allotments (m : LineNo) : allotment u m = allotment s m := allotment_congr (congrArg PageStore.allotments store) m
      have link : t.link.notices = x.link.notices := by rw [leaves]
      have retrain : (c.anyRetrain || v == .acceptRetrain) = (c.anyRetrain || decide (v = .acceptRetrain)) := by cases v <;> rfl
      refine ⟨t, exit, others, (modDoc_others d.number _ (Document.joins_number p v total bad) s).of_docs docs,
        fun k => absurd k rejected, fun _ => ⟨p, landing, ?_, ?_⟩, fun _ full => ?_,
        fun _ low => ⟨?_, fun cap shared => ?_, fun why failed => ?_, ?_⟩, fun e he => ?_, fun q hq => ?_, fun none => ?_, ?_⟩
      · exact (findDoc_dir docs _).trans (findDoc_modDoc_self found (Document.joins_number p v total bad))
      · rw [line, RxCall.accepted, retrain]; rfl
      · rw [late, idle full, store]
      · rw [late, pressure low, store, pressureAfter_of_store late]
      · obtain ⟨own, mine, theirs⟩ := passes low cap shared
        rw [early] at own
        exact ⟨(account _).trans own, (allotted n).trans (mine.trans (by rw [before])),
          fun m hm => (allotted m).trans ((theirs m hm).trans (allotments m))⟩
      · obtain ⟨own, kept, marked⟩ := fails low why (same.fails failed)
        rw [early] at own
        refine ⟨(account _).trans (own.trans (by rw [before]; rfl)), by rw [late, kept, store], fun enabled => ?_⟩
        rw [link]; exact marked (by rw [before]; exact enabled)
      · rw [late, frame, store]
      · rw [account, accounts e he, early]
      · rw [landing] at hq
        obtain rfl := Option.some.inj hq
        exact groupClosed (by rw [leaves, frame, before]) (by rw [leaves, frame, before])
      · rw [landing] at none; cases none
      · rw [leaves, frame, before]

end Sys2Proof.Machine
end

section
/-! Page data on its way to the store memory (R5, R85, R190): what the bytes that join a landing page write. -/

namespace Sys2Proof.Machine

open Sys2Proof

/-! ## Addresses -/

theorem pageAddress_some {blocks : List Block} {off : Nat} (inside : off < blocks.length * 8192) : ∃ a, pageAddress blocks off = some a := by
  have block : off / 8192 < blocks.length := by omega
  unfold pageAddress blockBytes
  rw [List.getElem?_eq_getElem block]
  exact ⟨_, rfl⟩

/-- Different bytes of a page whose blocks are distinct have different addresses (R5). -/
theorem pageAddress_inj {blocks : List Block} (distinct : blocks.Nodup) {x y a : Nat} (hx : pageAddress blocks x = some a)
    (hy : pageAddress blocks y = some a) : x = y := by
  unfold pageAddress blockBytes blockBase blockBytes at hx hy
  rw [Option.map_eq_some_iff] at hx hy
  obtain ⟨b, hb, eb⟩ := hx
  obtain ⟨c, hc, ec⟩ := hy
  have same : b = c := Fin.ext (by omega)
  subst same
  obtain ⟨ix, gx⟩ := List.getElem?_eq_some_iff.1 hb
  obtain ⟨iy, gy⟩ := List.getElem?_eq_some_iff.1 hc
  have index := (distinct.getElem_inj_iff (hi := ix) (hj := iy)).1 (gx.trans gy.symm)
  omega

/-! ## The bytes that join a page -/

theorem putBytes_cons (b : Byte) (bs : List Byte) (l : Landing) (s : State) : putBytes (b :: bs) l s =
    if (l.held ++ [b]).length < groupBytes then
      putBytes bs { l with length := l.length + 1, crc := crc32Byte l.crc b, held := l.held ++ [b] } s
    else
      putBytes bs { l with length := l.length + 1, crc := crc32Byte l.crc b, held := [] }
        (writeGroup l.blocks (l.length + 1 - groupBytes) (l.held ++ [b]) s) := by rw [putBytes]

theorem putBytes_append (xs ys : List Byte) (l : Landing) (s : State) :
    putBytes (xs ++ ys) l s = putBytes ys (putBytes xs l s).1 (putBytes xs l s).2 := by
  induction xs generalizing l s with
  | nil => rfl
  | cons x xs ih =>
    rw [List.cons_append, putBytes_cons, putBytes_cons]
    split
    · exact ih _ _
    · exact ih _ _

/-- What joins a page, and what is written, depends on the page and on the memory alone. -/
theorem putBytes_congr {s t : State} (mem : t.mem = s.mem) (dram : t.dram = s.dram) (bs : List Byte) (l : Landing) :
    (putBytes bs l t).1 = (putBytes bs l s).1 ∧ (putBytes bs l t).2.mem = (putBytes bs l s).2.mem ∧
      (putBytes bs l t).2.dram = (putBytes bs l s).2.dram := by
  induction bs generalizing l s t with
  | nil => exact ⟨rfl, mem, dram⟩
  | cons b bs ih =>
    rw [putBytes_cons, putBytes_cons]
    split
    · exact ih mem dram _
    · obtain ⟨mem', dram'⟩ := writeGroup_congr mem dram l.blocks (l.length + 1 - groupBytes) (l.held ++ [b])
      exact ih mem' dram' _

/-- Blocks beyond those the bytes fill are not looked at. -/
theorem putBytes_blocks (bs : List Byte) (l : Landing) (s : State) (more : List Block) (fits : l.length + bs.length ≤ l.blocks.length * 8192) :
    putBytes bs { l with blocks := l.blocks ++ more } s = ({ (putBytes bs l s).1 with blocks := l.blocks ++ more }, (putBytes bs l s).2) := by
  induction bs generalizing l s with
  | nil => rfl
  | cons b bs ih =>
    rw [List.length_cons] at fits
    rw [putBytes_cons, putBytes_cons]
    split
    · exact ih { l with length := l.length + 1, crc := crc32Byte l.crc b, held := l.held ++ [b] } s (by dsimp only; omega)
    · have block : (l.length + 1 - groupBytes) / blockBytes < l.blocks.length := by unfold groupBytes blockBytes; omega
      have same : writeGroup (l.blocks ++ more) (l.length + 1 - groupBytes) (l.held ++ [b]) s =
          writeGroup l.blocks (l.length + 1 - groupBytes) (l.held ++ [b]) s := by
        unfold writeGroup
        rw [List.getElem?_append_left block]
      rw [same]
      exact ih { l with length := l.length + 1, crc := crc32Byte l.crc b, held := [] } _ (by dsimp only; omega)

/-- The bytes that join a page, behind those held of its last group. -/
def Landing.data (l : Landing) (bs : List Byte) : List Byte := l.held ++ bs

/-- The bytes of whole groups have been written in their places, and no other byte (R190). -/
structure Wrote (s t : State) (blocks : List Block) (start : Nat) (data : List Byte) : Prop where
  written : ∀ i, i < data.length / 8 * 8 → ∃ a, pageAddress blocks (start + i) = some a ∧ some (readByte t.mem a) = data[i]?
  others : ∀ a, (∀ i, i < data.length / 8 * 8 → pageAddress blocks (start + i) ≠ some a) → readByte t.mem a = readByte s.mem a

/-- One more group in front of those written. -/
theorem Wrote.group {s t : State} {blocks : List Block} {start : Nat} {group data : List Byte} (distinct : blocks.Nodup)
    (canonical : MemoryCanonical s) (aligned : start % 8 = 0) (full : group.length = 8) (inside : start + 8 ≤ blocks.length * 8192)
    (h : Wrote (writeGroup blocks start group s) t blocks (start + 8) data) : Wrote s t blocks start (group ++ data) := by
  have total : (group ++ data).length / 8 * 8 = 8 + data.length / 8 * 8 := by rw [List.length_append]; omega
  refine ⟨fun i hi => ?_, fun a other => ?_⟩
  · rw [total] at hi
    by_cases first : i < 8
    · obtain ⟨a, address⟩ := pageAddress_some (off := start + i) (blocks := blocks) (by omega)
      refine ⟨a, address, ?_⟩
      rw [h.others a (fun j _ again => by have := pageAddress_inj distinct address again; omega),
        readByte_writeGroup canonical aligned full first address, List.getElem?_append_left (by omega),
        List.getD_eq_getElem _ _ (by omega), List.getElem?_eq_getElem (by omega)]
    · obtain ⟨a, address, content⟩ := h.written (i - 8) (by omega)
      refine ⟨a, by rwa [show start + 8 + (i - 8) = start + i by omega] at address, ?_⟩
      rw [content, List.getElem?_append_right (by omega), full]
  · rw [total] at other
    rw [h.others a (fun i hi => by rw [Nat.add_assoc]; exact other (8 + i) (by omega)),
      readByte_writeGroup_other aligned full (fun i hi => other i (by omega))]

/-- What bytes that join a page with room for them write, and what of its last group they leave held (R85, R190). -/
theorem putBytes_wrote (bs : List Byte) (l : Landing) (s : State) (distinct : l.blocks.Nodup) (canonical : MemoryCanonical s)
    (fits : l.length + bs.length ≤ l.blocks.length * 8192) (held : l.held.length = l.length % 8) :
    (putBytes bs l s).1.held = (l.data bs).drop ((l.data bs).length / 8 * 8) ∧
      Wrote s (putBytes bs l s).2 l.blocks (l.length - l.held.length) (l.data bs) := by
  induction bs generalizing l s with
  | nil =>
    have part : (l.data []).length / 8 * 8 = 0 := by unfold Landing.data; rw [List.append_nil]; omega
    refine ⟨?_, fun i hi => by omega, fun _ _ => rfl⟩
    rw [part]; unfold Landing.data; rw [List.append_nil]; rfl
  | cons b bs ih =>
    rw [List.length_cons] at fits
    have longer : (l.held ++ [b]).length = l.held.length + 1 := List.length_append
    rw [putBytes_cons]
    split
    · rename_i part
      unfold groupBytes at part
      have next := ih { l with length := l.length + 1, crc := crc32Byte l.crc b, held := l.held ++ [b] } s distinct canonical
        (by dsimp only; omega) (by dsimp only; omega)
      have same : Landing.data { l with length := l.length + 1, crc := crc32Byte l.crc b, held := l.held ++ [b] } bs = l.data (b :: bs) := by
        simp [Landing.data]
      have start : l.length + 1 - (l.held ++ [b]).length = l.length - l.held.length := by omega
      rw [same] at next
      dsimp only at next
      rw [start] at next
      exact next
    · rename_i full
      unfold groupBytes at full ⊢
      have eight : (l.held ++ [b]).length = 8 := by omega
      have start : l.length - l.held.length = l.length + 1 - 8 := by omega
      obtain ⟨left, wrote⟩ := ih { l with length := l.length + 1, crc := crc32Byte l.crc b, held := [] }
        (writeGroup l.blocks (l.length + 1 - 8) (l.held ++ [b]) s) distinct (memoryWf_writeGroup _ _ _ _ canonical)
        (by dsimp only; omega) (by dsimp only [List.length_nil]; omega)
      have split : l.data (b :: bs) = (l.held ++ [b]) ++ bs := by simp [Landing.data]
      have rest : Landing.data { l with length := l.length + 1, crc := crc32Byte l.crc b, held := [] } bs = bs := rfl
      rw [rest] at left wrote
      dsimp only [List.length_nil] at wrote
      rw [split, start]
      refine ⟨?_, .group distinct canonical (by omega) eight (by omega) ?_⟩
      · rw [left, List.length_append, eight, show (8 + bs.length) / 8 * 8 = 8 + bs.length / 8 * 8 by omega, ← List.drop_drop,
          List.drop_left' eight]
      · rwa [show l.length + 1 - 8 + 8 = l.length + 1 - 0 by omega]

end Sys2Proof.Machine
end

section
/-! Draws of blocks (R5, R16) and page data that reaches the store (O55). -/

namespace Sys2Proof.Machine

open Sys2Proof

/-! ## Draws -/

/-- What a draw, or its failure, leaves of the store (R16): grew says whether a block came, direct whether it came by the test. -/
structure Drew (s t : State) (n : LineNo) (d : Dept) (grew direct : Bool) (failed : Option AllocCause) : Prop where
  idle : grew = false → failed = none → t.store = s.store
  failure : ∀ why, failed = some why → t.store.free = s.store.free ∧ t.store.allotments = s.store.allotments ∧
    acct t d = { acct s d with lastFailure := some ⟨why, 1, s.clock.run⟩ } ∧ t.store.pressure = pressureAfter s.store.pressure t ∧
    (s.link.classes.department = true → Subject.department d ∈ t.link.notices)
  block : grew = true → t.store.free = s.store.free.tail ∧
    acct t d = { acct s d with
      used := (acct s d).used + 1, resv := if direct then (acct s d).resv else (acct s d).resv - 1 } ∧
    allotment t n = { allotment s n with count := if direct then 0 else (allotment s n).count - 1 } ∧
    t.store.pressure = pressureAfter s.store.pressure t
  accounts : ∀ e : Dept, e ≠ d → acct t e = acct s e
  allotments : ∀ m : LineNo, m ≠ n → allotment t m = allotment s m
  frame : t = { s with
    mem := t.mem, dram := t.dram
    store := { s.store with
      free := t.store.free, accounts := t.store.accounts, allotments := t.store.allotments, pressure := t.store.pressure }
    link := { s.link with notices := t.link.notices } }

section
variable {s : State} {n : LineNo} {d : Dept} {held : Nat}

theorem drew_nothing (direct : Bool) : Drew s s n d false direct none :=
  ⟨fun _ _ => rfl, fun _ h => (by cases h), fun h => (by cases h), fun _ _ => rfl, fun _ _ => rfl, rfl⟩

theorem drawBlock_oversize (full : 32 ≤ held) : drawBlock n d held s = (s, .oversize) := if_pos full

end

/-- A block has been drawn, before the evaluation of the pressure state (R16). -/
def drawn (n : LineNo) (d : Dept) (f : Account → Account) (a : Allotment) (rest : List Block) (s : State) : State :=
  setAllotment n a (setAcct d f { s with store := { s.store with free := rest } })

section
variable {s : State} {n : LineNo} {d : Dept} {held : Nat} {f : Account → Account} {a : Allotment} {b : Block} {rest : List Block}

theorem drew_drawn {direct : Bool} (free : s.store.free = b :: rest)
    (account : f (acct s d) = { acct s d with
      used := (acct s d).used + 1, resv := if direct then (acct s d).resv else (acct s d).resv - 1 })
    (allot : a = { allotment s n with count := if direct then 0 else (allotment s n).count - 1 }) :
    Drew s (evalPressure (drawn n d f a rest s)) n d true direct none := by
  have frame := evalPressure_frame (drawn n d f a rest s)
  have accounts (e : Dept) : acct (evalPressure (drawn n d f a rest s)) e = if e = d then f (acct s d) else acct s e := by
    rw [acct_evalPressure]; exact acct_setAcct e d f { s with store := { s.store with free := rest } }
  have allotments (m : LineNo) : allotment (evalPressure (drawn n d f a rest s)) m = if m = n then a else allotment s m := by
    rw [allotment_congr (s := drawn n d f a rest s) (by rw [frame])]
    exact allotment_setAllotment m n a (setAcct d f { s with store := { s.store with free := rest } })
  refine ⟨fun h => (by cases h), fun _ h => (by cases h), fun _ => ⟨?_, ?_, ?_, evalPressure_settled _⟩, fun e he => ?_, fun m hm => ?_, ?_⟩
  · rw [frame, free]; rfl
  · rw [accounts, if_pos rfl, account]
  · rw [allotments, if_pos rfl, allot]
  · rw [accounts, if_neg he]
  · rw [allotments, if_neg hm]
  · rw [frame]; rfl

theorem evalPressure_dram (s : State) : (evalPressure s).dram = s.dram := by rw [evalPressure_frame]

/-- A block drawn from the line's allotment (R16). -/
theorem drawBlock_allotted (room : held < 32) (count : 0 < (allotment s n).count) (free : s.store.free = b :: rest) :
    ∃ t, drawBlock n d held s = (t, .block b) ∧ Drew s t n d true false none ∧ (t.mem = s.mem ∧ t.dram = s.dram) := by
  refine ⟨evalPressure (drawn n d (fun a => { a with used := a.used + 1, resv := a.resv - 1 })
    { allotment s n with count := (allotment s n).count - 1 } rest s), ?_, drew_drawn free rfl rfl, ⟨evalPressure_mem _, evalPressure_dram _⟩⟩
  unfold drawBlock
  rw [if_neg (show ¬ maxPageBlocks ≤ held from Nat.not_le.2 room), if_pos count, free]
  rfl

theorem setAllotment_same (n : LineNo) (s : State) : setAllotment n (allotment s n) s = s := by
  simp [setAllotment, allotment]

/-- A block drawn directly, by the test (R16). -/
theorem drawBlock_direct (room : held < 32) (count : (allotment s n).count = 0) (cap : CapPasses s d 1) (shared : SharedPasses s d 1)
    (free : s.store.free = b :: rest) : ∃ t, drawBlock n d held s = (t, .block b) ∧ Drew s t n d true true none ∧ (t.mem = s.mem ∧ t.dram = s.dram) := by
  refine ⟨evalPressure (drawn n d (fun a => { a with used := a.used + 1 }) (allotment s n) rest s), ?_,
    drew_drawn free rfl (by rw [if_pos rfl, ← count]), ⟨evalPressure_mem _, evalPressure_dram _⟩⟩
  unfold drawBlock
  rw [if_neg (show ¬ maxPageBlocks ≤ held from Nat.not_le.2 room), if_neg (by omega), allocTest_passes cap shared]
  have same := setAllotment_same n (setAcct d (fun a => { a with used := a.used + 1 }) { s with store := { s.store with free := rest } })
  simp only [free]
  exact congrArg (fun t => (evalPressure t, Draw.block b)) same.symm

/-- A direct draw that the test refuses (R12, R16). -/
theorem drawBlock_refused {why : AllocCause} (room : held < 32) (count : (allotment s n).count = 0) (fails : TestFails s d 1 why) :
    ∃ t, drawBlock n d held s = (t, .storeFull) ∧ Drew s t n d false true (some why) ∧ (t.mem = s.mem ∧ t.dram = s.dram) := by
  have frame := allocFailed_frame d 1 why s
  have marks := allocFailed_marked d 1 why s
  refine ⟨allocFailed d 1 why s, ?_, ⟨fun _ h => (by cases h), fun why' h => ?_, fun h => (by cases h), fun e he => ?_, fun m _ => ?_, ?_⟩, ?_⟩
  · unfold drawBlock
    rw [if_neg (show ¬ maxPageBlocks ≤ held from Nat.not_le.2 room), if_neg (by omega), allocTest_fails fails]
  · obtain rfl := Option.some.inj h
    refine ⟨by rw [frame], by rw [frame], ?_, allocFailed_pressure _ _ _ _, fun enabled => (marks.2 _).2 (.inr ⟨enabled, .inl rfl⟩)⟩
    rw [acct_allocFailed, if_pos rfl]
  · rw [acct_allocFailed, if_neg he]
  · exact allotment_congr (by rw [frame]) m
  · rw [frame]
  · rw [frame]; exact ⟨rfl, rfl⟩

/-- While the test of a direct draw fails and reclaim finds a document, that one goes first (R11, R16). -/
theorem drawBlock_reclaims {m : Nat} (room : held < 32) (count : (allotment s n).count = 0) (h : Reclaims s d 1 m) :
    drawBlock n d held s = drawBlock n d held (purgeDoc m s) := by
  have room' : ¬ maxPageBlocks ≤ held := Nat.not_le.2 room
  unfold drawBlock
  rw [if_neg room', if_neg room', allotment_congr (purgeDoc_allotments m s), if_neg (by omega), if_neg (by omega), allocTest_reclaims h]

end

theorem Drew.of_page {s u t : State} {n : LineNo} {d : Dept} {grew direct : Bool} {failed : Option AllocCause}
    (h : Drew u t n d grew direct failed) (same : u = { s with mem := u.mem, dram := u.dram }) : Drew s t n d grew direct failed := by
  have store : u.store = s.store := by rw [same]
  have account (e : Dept) : acct u e = acct s e := acct_congr (congrArg PageStore.accounts store) e
  have allot (m : LineNo) : allotment u m = allotment s m := allotment_congr (congrArg PageStore.allotments store) m
  have run : u.clock = s.clock := by rw [same]
  have link : u.link = s.link := by rw [same]
  obtain ⟨idle, failure, block, accounts, allotments, frame⟩ := h
  rw [store, account, run, link] at failure
  rw [store, account, allot] at block
  rw [store] at idle
  simp only [account] at accounts
  simp only [allot] at allotments
  exact ⟨idle, failure, block, accounts, allotments, by rw [frame, same]⟩

theorem Drew.page {s t u : State} {n : LineNo} {d : Dept} {grew direct : Bool} {failed : Option AllocCause}
    (h : Drew s t n d grew direct failed) (same : u = { t with mem := u.mem, dram := u.dram }) : Drew s u n d grew direct failed := by
  have store : u.store = t.store := by rw [same]
  have account (e : Dept) : acct u e = acct t e := acct_congr (congrArg PageStore.accounts store) e
  have allot (m : LineNo) : allotment u m = allotment t m := allotment_congr (congrArg PageStore.allotments store) m
  have link : u.link = t.link := by rw [same]
  have pressure (was : Bool) : pressureAfter was u = pressureAfter was t := pressureAfter_of_store store was
  obtain ⟨idle, failure, block, accounts, allotments, frame⟩ := h
  refine ⟨?_, ?_, ?_, ?_, ?_, ?_⟩
  · rw [store]; exact idle
  · rw [store, account, link, pressure]; exact failure
  · rw [store, account, allot, pressure]; exact block
  · simp only [account]; exact accounts
  · simp only [allot]; exact allotments
  · rw [same, frame]

/-! ## Page data and the blocks it needs -/

/-- How page data of a landing page finds its blocks (R16, R85): the blocks then, the bytes taken, the cause of discard, whether the test
was asked, and how it failed. -/
def Fills (s : State) (n : LineNo) (d : Dept) (l : Landing) (bytes : List Byte) (blocks : List Block) (taken : Nat)
    (cause : Option DiscardCause) (direct : Bool) (failed : Option AllocCause) : Prop :=
  let full := l.blocks.length * 8192 < l.length + bytes.length
  let room := l.blocks.length * 8192 - l.length
  (direct = false ∧ failed = none ∧ ¬ full ∧ blocks = l.blocks ∧ taken = bytes.length ∧ cause = none) ∨
    (failed = none ∧ full ∧ l.blocks.length < 32 ∧ taken = bytes.length ∧ cause = none ∧
      ((direct = false ∧ 0 < (allotment s n).count) ∨
        (direct = true ∧ (allotment s n).count = 0 ∧ CapPasses s d 1 ∧ SharedPasses s d 1)) ∧
      ∃ b rest, s.store.free = b :: rest ∧ blocks = l.blocks ++ [b]) ∨
    (direct = false ∧ failed = none ∧ full ∧ 32 ≤ l.blocks.length ∧ blocks = l.blocks ∧ taken = room ∧ cause = some .oversize) ∨
    (direct = true ∧ (∃ why, failed = some why ∧ TestFails s d 1 why) ∧ full ∧ l.blocks.length < 32 ∧
      (allotment s n).count = 0 ∧ blocks = l.blocks ∧ taken = room ∧ cause = some .storeFull)

section
variable {s t : State} {n : LineNo} {d : Dept} {l : Landing} {bytes : List Byte} {k : Nat}

theorem fillPage_fits (fits : bytes.length ≤ l.blocks.length * 8192 - l.length) :
    fillPage (k + 1) n d bytes l s = (((putBytes bytes l s).1, none), (putBytes bytes l s).2) := by
  unfold fillPage blockBytes
  dsimp only
  rw [List.take_of_length_le fits, if_pos fits]

theorem fillPage_block {b : Block} (full : l.blocks.length * 8192 - l.length < bytes.length)
    (draws : drawBlock n d l.blocks.length (putBytes (bytes.take (l.blocks.length * 8192 - l.length)) l s).2 = (t, .block b)) :
    fillPage (k + 1) n d bytes l s = fillPage k n d (bytes.drop (l.blocks.length * 8192 - l.length))
      { (putBytes (bytes.take (l.blocks.length * 8192 - l.length)) l s).1 with blocks := l.blocks ++ [b] } t := by
  conv_lhs => unfold fillPage
  unfold blockBytes
  dsimp only
  rw [if_neg (Nat.not_le.2 full), putBytes_landing]
  dsimp only
  rw [draws]

theorem fillPage_oversize (full : l.blocks.length * 8192 - l.length < bytes.length)
    (draws : drawBlock n d l.blocks.length (putBytes (bytes.take (l.blocks.length * 8192 - l.length)) l s).2 = (t, .oversize)) :
    fillPage (k + 1) n d bytes l s =
      (((putBytes (bytes.take (l.blocks.length * 8192 - l.length)) l s).1, some .oversize), t) := by
  conv_lhs => unfold fillPage
  unfold blockBytes
  dsimp only
  rw [if_neg (Nat.not_le.2 full), putBytes_landing]
  dsimp only
  rw [draws]

theorem fillPage_storeFull (full : l.blocks.length * 8192 - l.length < bytes.length)
    (draws : drawBlock n d l.blocks.length (putBytes (bytes.take (l.blocks.length * 8192 - l.length)) l s).2 = (t, .storeFull)) :
    fillPage (k + 1) n d bytes l s =
      (((putBytes (bytes.take (l.blocks.length * 8192 - l.length)) l s).1, some .storeFull), t) := by
  conv_lhs => unfold fillPage
  unfold blockBytes
  dsimp only
  rw [if_neg (Nat.not_le.2 full), putBytes_landing]
  dsimp only
  rw [draws]

end

/-- Page data joins the page with the blocks it finds (R16, R85). -/
theorem fillPage_fills {s : State} {n : LineNo} {d : Dept} {l : Landing} {bytes : List Byte} {blocks : List Block} {taken : Nat}
    {cause : Option DiscardCause} {direct : Bool} {failed : Option AllocCause} (h : Fills s n d l bytes blocks taken cause direct failed)
    (inside : l.length ≤ l.blocks.length * 8192) (short : bytes.length ≤ 256) : ∃ t,
      fillPage (bytes.length / blockBytes + 2) n d bytes l s =
        (((putBytes (bytes.take taken) { l with blocks := blocks } s).1, cause), t) ∧
      t.mem = (putBytes (bytes.take taken) { l with blocks := blocks } s).2.mem ∧
      Drew s t n d (decide (blocks ≠ l.blocks)) direct failed := by
  have page := putBytes_frame (bytes.take (l.blocks.length * 8192 - l.length)) l s
  have same : SameTest s (putBytes (bytes.take (l.blocks.length * 8192 - l.length)) l s).2 :=
    ⟨by rw [page], by rw [page], fun y _ => by rw [page]; rfl⟩
  have free : (putBytes (bytes.take (l.blocks.length * 8192 - l.length)) l s).2.store.free = s.store.free := by rw [page]
  have allot : allotment (putBytes (bytes.take (l.blocks.length * 8192 - l.length)) l s).2 n = allotment s n :=
    allotment_congr (by rw [page]) n
  rcases h with ⟨rfl, rfl, fits, rfl, rfl, rfl⟩ | ⟨rfl, full, room, rfl, rfl, way, b, rest, hb, rfl⟩ |
    ⟨rfl, rfl, full, most, rfl, rfl, rfl⟩ | ⟨rfl, ⟨why, rfl, fails⟩, full, room, count, rfl, rfl, rfl⟩
  · rw [List.take_of_length_le (Nat.le_refl _)]
    refine ⟨_, fillPage_fits (by omega), rfl, ?_⟩
    rw [decide_eq_false (by simp)]
    exact (drew_nothing false).page (putBytes_frame bytes l s)
  · rw [← free] at hb
    obtain ⟨t, draws, drew, mem, dram⟩ : ∃ t, drawBlock n d l.blocks.length
        (putBytes (bytes.take (l.blocks.length * 8192 - l.length)) l s).2 = (t, .block b) ∧
        Drew (putBytes (bytes.take (l.blocks.length * 8192 - l.length)) l s).2 t n d true direct none ∧
        (t.mem = (putBytes (bytes.take (l.blocks.length * 8192 - l.length)) l s).2.mem ∧
          t.dram = (putBytes (bytes.take (l.blocks.length * 8192 - l.length)) l s).2.dram) := by
      rcases way with ⟨rfl, some⟩ | ⟨rfl, none, cap, shared⟩
      · exact drawBlock_allotted room (by rw [allot]; exact some) hb
      · exact drawBlock_direct room (by rw [allot]; exact none) (same.cap.2 cap) (same.shared.2 shared) hb
    have taken := List.take_of_length_le (Nat.le_refl bytes.length)
    have whole : putBytes bytes { l with blocks := l.blocks ++ [b] } s =
        putBytes (bytes.drop (l.blocks.length * 8192 - l.length))
          { (putBytes (bytes.take (l.blocks.length * 8192 - l.length)) l s).1 with blocks := l.blocks ++ [b] }
          (putBytes (bytes.take (l.blocks.length * 8192 - l.length)) l s).2 := by
      conv_lhs => rw [← List.take_append_drop (l.blocks.length * 8192 - l.length) bytes]
      rw [putBytes_append, putBytes_blocks _ l s [b] (by rw [List.length_take]; omega)]
    obtain ⟨page', mem', -⟩ := putBytes_congr mem dram (bytes.drop (l.blocks.length * 8192 - l.length))
      { (putBytes (bytes.take (l.blocks.length * 8192 - l.length)) l s).1 with blocks := l.blocks ++ [b] }
    rw [taken, whole]
    refine ⟨_, ?_, mem', ?_⟩
    · rw [fillPage_block (by omega) draws, fillPage_fits, page']
      rw [putBytes_landing]
      simp only [List.length_drop, List.length_append, List.length_take, List.length_singleton]
      omega
    · rw [decide_eq_true (by simp)]
      exact (drew.of_page page).page (putBytes_frame _ _ _)
  · refine ⟨_, fillPage_oversize (by omega) (drawBlock_oversize most), rfl, ?_⟩
    rw [decide_eq_false (by simp)]
    exact (drew_nothing false).page page
  · obtain ⟨t, draws, drew, mem, -⟩ := drawBlock_refused (held := l.blocks.length) room (by rw [allot]; exact count) (same.fails fails)
    refine ⟨t, fillPage_storeFull (by omega) draws, mem, ?_⟩
    rw [decide_eq_false (by simp)]
    exact drew.of_page page

end Sys2Proof.Machine
end

section
/-! PAGE_DATA as an event: what a page's bytes leave of the line, the document, the store and its memory (O55). -/

namespace Sys2Proof.Machine

open Sys2Proof

/-! ## The event -/

section
variable {s t : State} {n : LineNo} {w : Option Wait} {c : RxCall} {d : Document} {bytes : List Byte}

theorem startWait_hears (call : (lineAt s n).call = some ⟨w, .receiver c⟩) (k : WaitKind) (ms : Nat) :
    startWait n k ms s = modLine n (fun l => l.hears (some ⟨k, s.clock.run + ms⟩) c) s := by
  unfold startWait setWait
  exact modLine_congr (by simp [call, Line.hears])

theorem hears_same {l : Line} (call : l.call = some ⟨w, .receiver c⟩) : l.hears w c = l := by
  unfold Line.hears; rw [← call]

theorem Receives.data (h : Receives s n w c d) :
    exec (.pageData n bytes) s = .next (startWait n .page pageWaitMs (receiveData n d.number d c bytes s)) := by
  show execPageData n bytes s = _
  simp only [execPageData, h.takesIn, if_true, rxOf_receiver h.call, h.document, Option.bind_some, h.found]

/-- A page marked with a discard cause drops its data (R85). -/
theorem Receives.dropped (h : Receives s n w c d) (marked : c.discard ≠ none) : exec (.pageData n bytes) s =
    .next (modLine n (fun l => l.hears (some ⟨.page, s.clock.run + 12000⟩) c) s) := by
  have drops : receiveData n d.number d c bytes s = s := by
    unfold receiveData; rw [if_pos (Option.isSome_iff_ne_none.2 marked)]
  rw [h.data, drops, startWait_hears h.call]
  rfl

/-- A page's bytes join it, and the wait is renewed (R85). -/
theorem Receives.joined {l : Landing} {cause : Option DiscardCause} (h : Receives s n w c d) (unmarked : c.discard = none)
    (fills : fillPage (bytes.length / blockBytes + 2) n d.dept bytes (d.landing.getD (startLanding d c)) s = ((l, cause), t))
    (lines : t.lines = s.lines) (clock : t.clock = s.clock) : exec (.pageData n bytes) s =
      .next (modLine n (fun x => x.hears (some ⟨.page, s.clock.run + 12000⟩) { c with discard := cause })
        (modDoc d.number (fun e => { e with landing := some l }) t)) := by
  have call : (lineAt (modDoc d.number (fun e => { e with landing := some l }) t) n).call = some ⟨w, .receiver c⟩ := by
    rw [lineAt_of_lines (t := modDoc d.number _ t) (s := s) lines n]; exact h.call
  have receives : receiveData n d.number d c bytes s = modLine n (fun x => x.hears w { c with discard := cause })
      (modDoc d.number (fun e => { e with landing := some l }) t) := by
    unfold receiveData
    rw [if_neg (by rw [unmarked]; decide), fills]
    cases cause with
    | none =>
      have same : { c with discard := none } = c := by rw [← unmarked]
      rw [same]
      exact (modLine_same (hears_same call)).symm
    | some why => exact modRx_receiver call _
  rw [h.data, receives, startWait_hears (w := w) (c := { c with discard := cause }) (by rw [lineAt_modLine_self]; rfl), modLine_modLine,
    modLine_clock, modDoc_clock, clock]
  rfl

end

/-! ## Purges for a draw -/

theorem putBytes_purgeDoc {s : State} {m : Nat} {x : Document} (found : findDoc s m = some x) (bs : List Byte) (l : Landing) :
    putBytes bs l (purgeDoc m s) = ((putBytes bs l s).1, purgeDoc m (putBytes bs l s).2) := by
  have frame := putBytes_frame bs l s
  have frame' := putBytes_frame bs l (purgeDoc m s)
  obtain ⟨page, mem, dram⟩ := putBytes_congr (purgeDoc_mem m s) (purgeDoc_dram m s) bs l
  refine Prod.ext page ?_
  rw [purgeDoc_beside (u := (putBytes bs l s).2) found (by rw [frame]; rfl) (by rw [frame]), frame', mem, dram]
  generalize (putBytes bs l s).2 = u at frame ⊢
  have records : u.dir.docs.filter (fun x => decide (x.number ≠ m)) = (purgeDoc m s).dir.docs := by
    rw [frame, purgeDoc_docs found]
  have number : u.dir.nextNumber = (purgeDoc m s).dir.nextNumber := by rw [frame, purgeDoc_nextNumber]
  have lines : u.lines = (purgeDoc m s).lines := by rw [frame, purgeDoc_lines]
  simp only [overlay, recordsWithout, records, number, lines]

theorem fillPage_reclaims {s : State} {n : LineNo} {d : Dept} {l : Landing} {bytes : List Byte} {k m : Nat}
    (full : l.blocks.length * 8192 - l.length < bytes.length) (room : l.blocks.length < 32) (count : (allotment s n).count = 0)
    (r : Reclaims s d 1 m) : fillPage (k + 1) n d bytes l s = fillPage (k + 1) n d bytes l (purgeDoc m s) := by
  obtain ⟨-, x, found, -⟩ := r.found
  have page := putBytes_frame (bytes.take (l.blocks.length * 8192 - l.length)) l s
  have same : SameTest s (putBytes (bytes.take (l.blocks.length * 8192 - l.length)) l s).2 :=
    ⟨by rw [page], by rw [page], fun y _ => by rw [page]; rfl⟩
  have allot : (allotment (putBytes (bytes.take (l.blocks.length * 8192 - l.length)) l s).2 n).count = 0 := by
    rw [allotment_congr (s := s) (by rw [page]) n]; exact count
  have landing := putBytes_landing (bytes.take (l.blocks.length * 8192 - l.length)) l s
  have purged := putBytes_purgeDoc found (bytes.take (l.blocks.length * 8192 - l.length)) l
  have blocks : (putBytes (bytes.take (l.blocks.length * 8192 - l.length)) l s).1.blocks = l.blocks := by rw [landing]
  unfold fillPage blockBytes
  dsimp only
  rw [purged]
  dsimp only
  rw [if_neg (Nat.not_le.2 full), if_neg (Nat.not_le.2 full), blocks, drawBlock_reclaims room allot (same.reclaims r)]

/-! ## The statement -/

/-- A landing page that bytes have joined (R32, R85): its blocks then, and how many of them were taken. -/
def Landing.filled (l : Landing) (blocks : List Block) (bytes : List Byte) (taken : Nat) : Landing := { l with
  blocks := blocks, length := l.length + taken, held := (l.data bytes).drop ((l.data bytes).length / 8 * 8)
  crc := crc32Run l.crc bytes }

theorem Fills.fits {s : State} {n : LineNo} {d : Dept} {l : Landing} {bytes : List Byte} {blocks : List Block} {taken : Nat}
    {cause : Option DiscardCause} {direct : Bool} {failed : Option AllocCause} (h : Fills s n d l bytes blocks taken cause direct failed)
    (inside : l.length ≤ l.blocks.length * 8192) (short : bytes.length ≤ 256) :
    taken ≤ bytes.length ∧ l.length + taken ≤ blocks.length * 8192 := by
  rcases h with ⟨-, -, fits, rfl, rfl, -⟩ | ⟨-, -, -, rfl, -, -, b, rest, -, rfl⟩ | ⟨-, -, full, -, rfl, rfl, -⟩ |
    ⟨-, -, full, -, -, rfl, rfl, -⟩
  · omega
  · rw [List.length_append, List.length_singleton]; omega
  · omega
  · omega

theorem Fills.grew {s : State} {n : LineNo} {d : Dept} {l : Landing} {bytes : List Byte} {blocks : List Block} {taken : Nat}
    {cause : Option DiscardCause} {direct : Bool} {failed : Option AllocCause} (h : Fills s n d l bytes blocks taken cause direct failed)
    (unrefused : cause ≠ some .storeFull) : failed = none := by
  rcases h with ⟨-, rfl, -⟩ | ⟨rfl, -⟩ | ⟨-, rfl, -⟩ | ⟨-, -, -, -, -, -, -, rfl⟩
  · rfl
  · rfl
  · rfl
  · exact absurd rfl unrefused

/-- Settles O55: page data goes through fillPage, whose draws and writes are those of the two parts before. -/
theorem pageDataReachesTheStore : Obligations.PageDataReachesTheStore := by
  refine ⟨fun s n bytes chan => ?_, fun s n w c d bytes hears chan call document found short => ?_⟩
  · show execPageData n bytes s = _
    have elsewhere : takesIn s n .receiving = false := by simp [takesIn, chan]
    simp only [execPageData, elsewhere, Bool.false_eq_true, if_false]
  · have h : Receives s n w c d := ⟨hears, chan, call, document, found⟩
    dsimp only
    refine ⟨fun marked => ?_, fun unmarked canonical => ?_⟩
    · exact ⟨_, h.dropped marked, fun m hm => lineAt_modLine_ne hm _ s, lineAt_modLine_self n _ s, rfl⟩
    · rw [show (⟨d.pages.length + 1, c.resolution.getD .standard, c.step.getD 0, [], 0, [], d.crc⟩ : Landing) = startLanding d c from rfl]
      generalize hl : d.landing.getD (startLanding d c) = l
      intro inside held
      refine ⟨fun m full room count other r => ?_, fun blocks taken cause direct failed fills distinct => ?_⟩
      · obtain ⟨-, x, there, -⟩ := r.found
        have again := fillPage_reclaims (bytes := bytes) (k := bytes.length / blockBytes + 1) (l := l) (by omega) room count r
        rw [h.data, (h.purged there other).data]
        unfold receiveData
        rw [hl, again, unmarked]
        rfl
      · have fills : Fills s n d.dept l bytes blocks taken cause direct failed := fills
        obtain ⟨fewer, fits⟩ := fills.fits inside short
        have unrefused := fills.grew
        obtain ⟨y, filled, mem, idle, failure, block, accounts, allotments, frame⟩ := fillPage_fills fills inside short
        rw [← hl] at filled
        have exit := h.joined unmarked filled (by rw [frame]) (by rw [frame])
        rw [hl] at exit
        obtain ⟨left, wrote⟩ := putBytes_wrote (bytes.take taken) { l with blocks := blocks } s distinct canonical
          (by dsimp only; rw [List.length_take]; omega) held
        have joins : (putBytes (bytes.take taken) { l with blocks := blocks } s).1 = l.filled blocks (bytes.take taken) taken := by
          rw [putBytes_landing, left, List.length_take, Nat.min_eq_left fewer]; rfl
        rw [joins] at exit
        have docs : (modDoc d.number (fun e => { e with landing := some (l.filled blocks (bytes.take taken) taken) }) y).dir.docs =
            (modDoc d.number (fun e => { e with landing := some (l.filled blocks (bytes.take taken) taken) }) s).dir.docs := by
          unfold modDoc; rw [frame]
        have line := lineAt_of_lines (show y.lines = s.lines by rw [frame])
        refine ⟨_, exit, ?_, ?_, fun i hi => ?_, fun a outside => ?_, fun m hm => ?_, ?_, fun same ok => ?_, failure, fun new => ?_,
          accounts, allotments, ?_⟩
        · exact (findDoc_dir docs _).trans
            (findDoc_modDoc_self (f := fun e => { e with landing := some (l.filled blocks (bytes.take taken) taken) }) found (fun _ => rfl))
        · exact (modDoc_others d.number (fun e => { e with landing := some (l.filled blocks (bytes.take taken) taken) })
            (fun _ => rfl) s).of_docs docs
        · obtain ⟨a, address, content⟩ := wrote.written i hi
          exact ⟨a, address, by rw [← mem] at content; exact content⟩
        · exact (congrArg (readByte · a) mem).trans (wrote.others a outside)
        · rw [lineAt_modLine_ne hm]; exact line m
        · rw [lineAt_modLine_self]; exact congrArg (Line.hears · _ _) (line n)
        · exact idle (decide_eq_false (not_not.2 same)) (unrefused ok)
        · exact block (decide_eq_true new)
        · rw [frame]; rfl

end Sys2Proof.Machine
end

section
/-! The PENDING entries of a discarded document end (R46, step 4): only the last of them is followed by a fallback or a settling. -/

namespace Sys2Proof.Machine

open Sys2Proof

/-! ## One entry -/

/-- A forward entry is cancelled (R46). -/
def ForwardEntry.cancel (e : ForwardEntry) : ForwardEntry := { e with state := .cancelled }

/-- The FORWARD entry of a cancelled entry (R46, R174). -/
def cancelContent (n : Nat) (p : Nat × ForwardEntry) : JournalContent := .forward n p.1 p.2.destination .cancelled p.2.attempts p.2.pages

/-- A PENDING entry is cancelled and journalled, before fallback and settling are evaluated (R46). -/
def cancelQuietly (n : Nat) (s : State) (p : Nat × ForwardEntry) : State :=
  (append (cancelContent n p) (modForward n p.1 ForwardEntry.cancel s)).1

theorem cancelEntry_eq (n : Nat) (s : State) (p : Nat × ForwardEntry) :
    cancelEntry n s p = settle n (fallback n (cancelQuietly n s p)) := rfl

theorem not_final_of_pending {d : Document} {i : Nat} {e : ForwardEntry} (there : d.forwards[i]? = some e) (pending : e.state = .pending) :
    d.forwards.all ForwardEntry.isFinal = false := by
  rw [List.all_eq_false]
  exact ⟨e, List.mem_of_getElem? there, by simp [ForwardEntry.isFinal, pending]⟩

/-- With an entry PENDING a document neither falls back nor settles (R40, R41). -/
theorem settle_fallback_pending {s : State} {n i : Nat} {d : Document} {e : ForwardEntry} (found : findDoc s n = some d)
    (there : d.forwards[i]? = some e) (pending : e.state = .pending) : settle n (fallback n s) = s := by
  have open_ := not_final_of_pending there pending
  rw [fallback_not found (by simp [fallsBack, open_]), settle_not found (by simp [settles, open_])]

theorem findDoc_cancelQuietly {s : State} {n : Nat} {d : Document} (found : findDoc s n = some d) (p : Nat × ForwardEntry) :
    findDoc (cancelQuietly n s p) n = some { d with forwards := d.forwards.modify p.1 ForwardEntry.cancel } :=
  (findDoc_dir (by unfold cancelQuietly; rw [append_dir]; rfl) n).trans
    (findDoc_modDoc_self (f := fun d => { d with forwards := d.forwards.modify p.1 ForwardEntry.cancel }) found (fun _ => rfl))

/-! ## All of them -/

/-- The entries of a list once those of some indexes are cancelled. -/
def cancelAll (ps : List (Nat × ForwardEntry)) (l : List ForwardEntry) : List ForwardEntry :=
  ps.foldl (fun l p => l.modify p.1 ForwardEntry.cancel) l

/-- The last cancelled entry alone is followed by a fallback or a settling (R38, R40, R41). -/
theorem foldl_cancelEntry {n : Nat} {ps : List (Nat × ForwardEntry)} {s : State} {d : Document} (found : findDoc s n = some d)
    (there : ∀ p ∈ ps, d.forwards[p.1]? = some p.2 ∧ p.2.state = .pending) (distinct : (ps.map Prod.fst).Nodup) (some_left : ps ≠ []) :
    ps.foldl (cancelEntry n) s = settle n (fallback n (ps.foldl (cancelQuietly n) s)) := by
  induction ps generalizing s d with
  | nil => exact absurd rfl some_left
  | cons p rest ih =>
    rw [List.foldl_cons, List.foldl_cons]
    cases rest with
    | nil => rfl
    | cons q rest =>
      rw [List.map_cons, List.nodup_cons] at distinct
      obtain ⟨new, distinct⟩ := distinct
      have next := findDoc_cancelQuietly found p
      have still : ∀ r ∈ q :: rest, (d.forwards.modify p.1 ForwardEntry.cancel)[r.1]? = some r.2 ∧ r.2.state = .pending := by
        intro r hr
        obtain ⟨at_, pending⟩ := there r (List.mem_cons_of_mem _ hr)
        have other : p.1 ≠ r.1 := fun e => new (e ▸ List.mem_map_of_mem hr)
        exact ⟨by simp [at_, other], pending⟩
      obtain ⟨at_, pending⟩ := still q List.mem_cons_self
      rw [cancelEntry_eq, settle_fallback_pending next at_ pending]
      exact ih next still distinct (List.cons_ne_nil _ _)

theorem getElem?_cancelAll (ps : List (Nat × ForwardEntry)) (l : List ForwardEntry) (i : Nat) :
    (cancelAll ps l)[i]? = if i ∈ ps.map Prod.fst then (l[i]?).map ForwardEntry.cancel else l[i]? := by
  unfold cancelAll
  induction ps generalizing l with
  | nil => simp
  | cons p rest ih =>
    rw [List.foldl_cons, ih, List.getElem?_modify]
    by_cases here : p.1 = i <;> by_cases later : i ∈ rest.map Prod.fst <;> cases l[i]? <;>
      simp_all [ForwardEntry.cancel, eq_comm (a := i)]

/-! ## The entries of a document -/

theorem pendingEntries_eq (d : Document) :
    pendingEntries d = (d.forwards.zipIdx.map Prod.swap).filter (fun p => p.2.state == .pending) := by
  unfold pendingEntries
  rw [List.zipIdx_eq_zip_range', List.zip_swap, List.range_eq_range']

theorem mem_pendingEntries {d : Document} {p : Nat × ForwardEntry} :
    p ∈ pendingEntries d ↔ d.forwards[p.1]? = some p.2 ∧ p.2.state = .pending := by
  rw [pendingEntries_eq, List.mem_filter, beq_iff_eq]
  refine and_congr_left fun _ => ?_
  rw [List.mem_map]
  constructor
  · rintro ⟨⟨e, i⟩, mem, rfl⟩
    exact List.mem_zipIdx_iff_getElem?.1 mem
  · intro there
    exact ⟨(p.2, p.1), List.mem_zipIdx_iff_getElem?.2 there, rfl⟩

theorem pendingEntries_distinct (d : Document) : ((pendingEntries d).map Prod.fst).Nodup := by
  have whole : (((List.range d.forwards.length).zip d.forwards).map Prod.fst).Nodup := by
    rw [List.map_fst_zip (by simp)]; exact List.nodup_range
  exact whole.sublist (List.filter_sublist.map _)

theorem pendingEntries_length (d : Document) : (pendingEntries d).length ≤ d.forwards.length := by
  unfold pendingEntries
  refine (List.length_filter_le _ _).trans ?_
  rw [List.length_zip, List.length_range, Nat.min_self]

theorem pendingEntries_contents (d : Document) (n : Nat) : (pendingEntries d).map (cancelContent n) = d.forwards.zipIdx.filterMap (fun p =>
    if p.1.state = .pending then some (.forward n p.2 p.1.destination .cancelled p.1.attempts p.1.pages) else none) := by
  rw [pendingEntries_eq]
  induction d.forwards.zipIdx with
  | nil => rfl
  | cons p rest ih =>
    rw [List.map_cons, List.filter_cons, List.filterMap_cons]
    by_cases pending : p.1.state = .pending
    · simp only [Prod.snd_swap, pending, beq_self_eq_true, if_true, List.map_cons, ih]; rfl
    · have : ((Prod.swap p).2.state == ForwardState.pending) = false := by simpa using pending
      simp only [this, pending, if_false, Bool.false_eq_true, ih]

/-- Once they are cancelled no entry is PENDING, and those that had FAILED are the same. -/
theorem cancelAll_final (d : Document) : (cancelAll (pendingEntries d) d.forwards).all ForwardEntry.isFinal = true ∧
    ((cancelAll (pendingEntries d) d.forwards).any (fun e => e.state == .failed) = true ↔ ∃ e ∈ d.forwards, e.state = .failed) := by
  have listed (i : Nat) : i ∈ (pendingEntries d).map Prod.fst ↔ ∃ e, d.forwards[i]? = some e ∧ e.state = .pending := by
    rw [List.mem_map]
    constructor
    · rintro ⟨p, mem, rfl⟩; exact ⟨p.2, mem_pendingEntries.1 mem⟩
    · rintro ⟨e, there⟩; exact ⟨(i, e), mem_pendingEntries.2 there, rfl⟩
  have entry (i : Nat) (e : ForwardEntry) (there : d.forwards[i]? = some e) :
      (cancelAll (pendingEntries d) d.forwards)[i]? = some (if e.state = .pending then e.cancel else e) := by
    rw [getElem?_cancelAll, there]
    by_cases pending : e.state = .pending
    · rw [if_pos ((listed i).2 ⟨e, there, pending⟩), if_pos pending]; rfl
    · rw [if_neg (fun h => by obtain ⟨e', at_, p⟩ := (listed i).1 h; rw [there] at at_; cases at_; exact pending p), if_neg pending]
  have back (x : ForwardEntry) (mem : x ∈ cancelAll (pendingEntries d) d.forwards) :
      ∃ e ∈ d.forwards, x = if e.state = .pending then e.cancel else e := by
    obtain ⟨i, at_⟩ := List.getElem?_of_mem mem
    cases there : d.forwards[i]? with
    | none => rw [getElem?_cancelAll, there] at at_; split at at_ <;> cases at_
    | some e => rw [entry i e there] at at_; exact ⟨e, List.mem_of_getElem? there, (Option.some.inj at_).symm⟩
  refine ⟨List.all_eq_true.2 fun x mem => ?_, ?_⟩
  · obtain ⟨e, -, rfl⟩ := back x mem
    split
    · rfl
    · rename_i pending; simpa [ForwardEntry.isFinal] using pending
  · rw [List.any_eq_true]
    constructor
    · rintro ⟨x, mem, failed⟩
      obtain ⟨e, he, rfl⟩ := back x mem
      refine ⟨e, he, ?_⟩
      split at failed
      · cases failed
      · exact beq_iff_eq.1 failed
    · rintro ⟨e, he, failed⟩
      obtain ⟨i, there⟩ := List.getElem?_of_mem he
      have kept := entry i e there
      rw [if_neg (by rw [failed]; decide)] at kept
      exact ⟨e, List.mem_of_getElem? kept, beq_iff_eq.2 failed⟩

end Sys2Proof.Machine
end

section
/-! What Discard Document does to a document before its purge, and the purge itself (R45, R46). -/

namespace Sys2Proof.Machine

open Sys2Proof

/-! ## Changes that a purge takes away -/

/-- A list without a number. -/
abbrev without (n : Nat) (l : List Nat) : List Nat := l.filter (fun x => decide (x ≠ n))

/-- From s to u, document n of a department, with its blocks, changes in nothing that its purge does not take away. -/
structure Leaving (s u : State) (n : Nat) (dept : Dept) (bs : List Block) : Prop where
  record : ∃ e, findDoc u n = some e ∧ e.dept = dept ∧ docBlocks e = bs
  docs : u.dir.docs.filter (fun x => decide (x.number ≠ n)) = s.dir.docs.filter (fun x => decide (x.number ≠ n))
  reclaim : without n u.dir.reclaim = without n s.dir.reclaim
  queues : ∀ e : Dept, e ≠ dept → readyQueue u e = readyQueue s e
  own : without n (readyQueue u dept) = without n (readyQueue s dept)
  store : u.store = s.store

theorem Leaving.refl {s : State} {d : Document} {n : Nat} (found : findDoc s n = some d) : Leaving s s n d.dept (docBlocks d) :=
  ⟨⟨d, found, rfl, rfl⟩, rfl, rfl, fun _ _ => rfl, rfl, rfl⟩

theorem Leaving.trans {s u v : State} {n : Nat} {dept : Dept} {bs : List Block} (h : Leaving s u n dept bs) (k : Leaving u v n dept bs) :
    Leaving s v n dept bs :=
  ⟨k.record, k.docs.trans h.docs, k.reclaim.trans h.reclaim, fun e he => (k.queues e he).trans (h.queues e he), k.own.trans h.own,
    k.store.trans h.store⟩

/-- A change of other parts. -/
theorem Leaving.of_dir {s u v : State} {n : Nat} {dept : Dept} {bs : List Block} (h : Leaving s u n dept bs) (dir : v.dir = u.dir)
    (store : v.store = u.store) : Leaving s v n dept bs := by
  obtain ⟨record, docs, reclaim, queues, own, kept⟩ := h
  have queue (e : Dept) : readyQueue v e = readyQueue u e := by unfold readyQueue; rw [dir]
  obtain ⟨e, found, rest⟩ := record
  exact ⟨⟨e, (findDoc_dir (by rw [dir]) n).trans found, rest⟩, by rw [dir]; exact docs, by rw [dir]; exact reclaim,
    fun e he => (queue e).trans (queues e he), by rw [queue]; exact own, store.trans kept⟩

/-- A change of the document's record alone. -/
theorem leaving_modDoc {s : State} {n : Nat} {d : Document} (found : findDoc s n = some d) {f : Document → Document}
    (number : ∀ e, (f e).number = e.number) (dept : (f d).dept = d.dept) (pages : (f d).pages = d.pages) :
    Leaving s (modDoc n f s) n d.dept (docBlocks d) := by
  refine ⟨⟨f d, findDoc_modDoc_self found number, dept, by unfold docBlocks; rw [pages]⟩, ?_, rfl, fun _ _ => rfl, rfl, rfl⟩
  show (s.dir.docs.map _).filter _ = _
  rw [← modDoc_filter n n f number]
  refine (List.map_congr_left fun e he => ?_).trans (List.map_id _)
  rw [List.mem_filter] at he
  rw [if_neg (of_decide_eq_true he.2)]; rfl

/-- A purge after such a change (R45). -/
theorem Leaving.purged {s u t : State} {n : Nat} {d : Document} (h : Leaving s u n d.dept (docBlocks d)) (number : d.number = n)
    (dir : t.dir = (purgeEvent n u).dir) (store : t.store = (purgeEvent n u).store) : Purged s t d := by
  obtain ⟨⟨e, found, dept, blocks⟩, docs, reclaim, queues, own, kept⟩ := h
  have en := findDoc_number found
  obtain ⟨⟨used, free, spares, pressure⟩, docs', reclaim', queues', account, accounts⟩ := purgeEvent_purged found
  have after (x : Dept) : acct t x = acct (purgeEvent n u) x := acct_congr (by rw [store]) x
  have before (x : Dept) : acct u x = acct s x := acct_congr (by rw [kept]) x
  have queue (x : Dept) : readyQueue t x = readyQueue (purgeEvent n u) x := by unfold readyQueue; rw [dir]
  rw [dept] at used account accounts queues'
  rw [en] at docs' reclaim' queues'
  rw [blocks, kept] at free
  rw [kept] at spares pressure
  rw [before, blocks] at used
  rw [before] at account
  refine ⟨⟨by rw [after, used], by rw [store]; exact free, by rw [store]; exact spares, ?_⟩, ?_, ?_, fun x => ?_, ?_, fun x hx => ?_⟩
  · rw [pressureAfter_of_store store, store]; exact pressure
  · rw [dir, docs', docs, number]
  · rw [dir, reclaim', number]; exact reclaim
  · rw [queue, queues', number]
    split
    · rename_i hx; subst hx; exact own
    · rename_i hx; exact queues x hx
  · rw [after]; exact account
  · rw [after, accounts x hx, before]

/-! ## A document that becomes DUE -/

theorem joinQueue_without (s : State) (d : Document) (q : List Nat) : without d.number (joinQueue s d q) = without d.number q := by
  unfold joinQueue
  split
  · obtain ⟨front, back, rfl, e2, -, -⟩ := insertUrgent_place (isUrgent s) d.number q
    rw [e2]
    simp [without]
  · simp [without]

/-- A document that becomes DUE, in a state of any queue: what it changes besides what a purge takes away. -/
structure Handed (s t : State) (n : Nat) (d : Document) : Prop where
  leaving : Leaving s t n d.dept (docBlocks d)
  record : ∃ now, findDoc t n = some { d with disposition := now } ∧ (now = .due ∨ now = .offered)
  offers : t.collect.offers.filter (fun o => decide (o.doc ≠ n)) = s.collect.offers.filter (fun o => decide (o.doc ≠ n))
  waits : (∀ w ∈ s.collect.queue, w.dept ≠ d.dept) → t.collect.queue = s.collect.queue ∧ t.link.responses = s.link.responses
  meets : ∀ front w rest, s.collect.queue = front ++ w :: rest → w.dept = d.dept → (∀ v ∈ front, v.dept ≠ d.dept) →
    t.collect.queue = front ++ rest ∧ t.link.responses = s.link.responses ++
      [⟨w.tag, .collect, .done, .offer (offerSummary d w.timeout s.policy.offerWindow)⟩]
  marked : ∃ due : Prop, Marked s t (fun x => x = .department d.dept ∧ due)

theorem matchDoc_handed {s : State} {d : Document} (found : findDoc s d.number = some d) (due : d.disposition = .due) :
    Handed s (matchDoc d s) d.number d := by
  unfold matchDoc
  cases hw : s.collect.queue.find? (fun w => decide (w.dept = d.dept)) with
  | none =>
    rw [List.find?_eq_none] at hw
    refine ⟨.of_dir (.refl found) rfl rfl, ⟨.due, found.trans (by rw [← due]), .inl rfl⟩, rfl, fun _ => ⟨rfl, rfl⟩, fun front w rest e hd _ => ?_,
      ⟨True, (mark_marked (.department d.dept) s).congr (by simp)⟩⟩
    exact absurd hd (by simpa using hw w (by rw [e]; simp))
  | some w =>
    have hwd : w.dept = d.dept := by simpa using List.find?_some hw
    have offered := leaving_modDoc (f := fun e => { e with disposition := .offered }) found (fun _ => rfl) rfl rfl
    refine ⟨?_, ⟨.offered, findDoc_modDoc_self (f := fun e => { e with disposition := .offered }) found (fun _ => rfl), .inr rfl⟩, ?_,
      fun no => absurd hwd (no w (List.mem_of_find?_eq_some hw)), fun front v rest e hd hf => ?_,
      ⟨False, (Marked.none rfl).congr (by simp)⟩⟩
    · refine ⟨offered.record, offered.docs, rfl, fun e he => ?_, ?_, rfl⟩
      · show readyQueue (setReady d.dept _ s) e = _
        rw [readyQueue_setReady, if_neg he]
      · show without d.number (readyQueue (setReady d.dept _ s) d.dept) = _
        rw [readyQueue_setReady, if_pos rfl]
        unfold without readyQueue
        rw [List.filter_filter]; simp
    · show (s.collect.offers ++ [_]).filter _ = _
      rw [List.filter_append]; simp
    · obtain ⟨e1, e2⟩ := find?_first (fun w : WaitingCollect => decide (w.dept = d.dept)) front rest v (by simpa using hd)
        (fun x hx => by simpa using hf x hx)
      rw [e, e1] at hw
      obtain rfl := Option.some.inj hw
      refine ⟨?_, rfl⟩
      show s.collect.queue.eraseP _ = _
      rw [e]; exact e2

theorem becomeDue_handed {s : State} {n : Nat} {d : Document} (found : findDoc s n = some d) : Handed s (becomeDue n s) n d := by
  obtain rfl := findDoc_number found
  have dueDoc : findDoc (modDoc d.number (fun e => { e with disposition := .due }) s) d.number = some { d with disposition := .due } :=
    findDoc_modDoc_self (f := fun e => { e with disposition := .due }) found (fun _ => rfl)
  have first := leaving_modDoc (f := fun e => { e with disposition := .due }) found (fun _ => rfl) rfl rfl
  have rest : (modDoc d.number (fun e => { e with disposition := .due }) s).collect = s.collect ∧
    (modDoc d.number (fun e => { e with disposition := .due }) s).link = s.link ∧
    (modDoc d.number (fun e => { e with disposition := .due }) s).policy = s.policy := ⟨rfl, rfl, rfl⟩
  unfold becomeDue
  generalize modDoc d.number (fun e => { e with disposition := .due }) s = u at *
  have joined : Leaving u (if (readyQueue u d.dept).contains d.number then u
      else setReady d.dept (joinQueue u { d with disposition := .due }) u) d.number d.dept (docBlocks d) := by
    split
    · exact .refl (d := { d with disposition := .due }) dueDoc
    · refine ⟨⟨_, dueDoc, rfl, rfl⟩, rfl, rfl, fun e he => by rw [readyQueue_setReady, if_neg he], ?_, rfl⟩
      rw [readyQueue_setReady, if_pos rfl]
      exact joinQueue_without u { d with disposition := .due } _
  unfold joinReady
  rw [dueDoc]
  dsimp only
  generalize hv : (if (readyQueue u d.dept).contains d.number then u
    else setReady d.dept (joinQueue u { d with disposition := .due }) u) = v at joined ⊢
  have same : v.collect = u.collect ∧ v.link = u.link ∧ v.policy = u.policy ∧ v.dir.docs = u.dir.docs := by
    rw [← hv]; split <;> exact ⟨rfl, rfl, rfl, rfl⟩
  obtain ⟨collect, link, policy⟩ := rest
  obtain ⟨collect', link', policy', docs⟩ := same
  obtain ⟨leaving, record, offers, waits, meets, due, marked⟩ :=
    matchDoc_handed (s := v) (d := { d with disposition := .due }) ((findDoc_dir docs _).trans dueDoc) rfl
  rw [collect', collect] at offers waits meets
  rw [link', link, policy', policy] at meets
  rw [link', link] at waits
  exact ⟨(first.trans joined).trans leaving, record, offers, waits, meets, due,
    marked.of_link (by rw [link', link]) rfl (by rw [link', link])⟩

end Sys2Proof.Machine
end

section
/-! Discard Document and retention deadlines (O41). -/

namespace Sys2Proof.Machine

open Sys2Proof

/-! ## The journal of a discard -/

/-- The journal once some entries have been written with one stamp. -/
def Journal.wrote (j : Journal) (cs : List JournalContent) (time : CalTime) (trusted : Bool) : Journal :=
  cs.foldl (fun j e => j.written e time trusted) j

theorem unreleased_wrote (j : Journal) (cs : List JournalContent) (time : CalTime) (trusted : Bool) :
    (j.wrote cs time trusted).unreleased = j.unreleased + cs.length := by
  unfold Journal.wrote
  induction cs generalizing j with
  | nil => rfl
  | cons c cs ih => rw [List.foldl_cons, ih, List.length_cons]; show j.unreleased + 1 + _ = _; omega

theorem Journal.wrote_append (j : Journal) (cs : List JournalContent) (c : JournalContent) (time : CalTime) (trusted : Bool) :
    j.wrote (cs ++ [c]) time trusted = (j.wrote cs time trusted).written c time trusted := by
  unfold Journal.wrote; rw [List.foldl_append]; rfl

/-- Entries have been written below the ring's end, with the mark of high water (R173, R179). -/
structure Written (s t : State) (cs : List JournalContent) : Prop where
  journal : t.journal = s.journal.wrote cs s.clock.cal s.clock.trusted
  marked : Marked s t (fun x => x = .journal ∧ 8128 ≤ t.journal.unreleased)

/-- One entry more (R173, R179). -/
theorem Written.append {s u : State} {cs : List JournalContent} (h : Written s u cs) (clock : u.clock = s.clock)
    (classes : u.link.classes = s.link.classes) (room : s.journal.unreleased + cs.length < 8192) (c : JournalContent) :
    Written s (append c u).1 (cs ++ [c]) := by
  obtain ⟨journal, marked⟩ := h
  have length : u.journal.unreleased = s.journal.unreleased + cs.length := by rw [journal, unreleased_wrote]
  have frame := append_frame c u
  have written : (Machine.append c u).1.journal = s.journal.wrote (cs ++ [c]) s.clock.cal s.clock.trusted := by
    rw [frame, Journal.wrote_append, ← journal, clock]
    exact if_pos (by omega)
  refine ⟨written, (marked.trans (append_marked c u) classes).congr fun x => ?_⟩
  rw [written, unreleased_wrote, List.length_append, List.length_singleton, length]
  constructor
  · rintro (⟨rfl, high⟩ | ⟨rfl, crossing | past⟩)
    · exact ⟨rfl, by omega⟩
    · exact ⟨rfl, by omega⟩
    · exact ⟨rfl, by omega⟩
  · rintro ⟨rfl, high⟩
    by_cases now : s.journal.unreleased + cs.length = 8127
    · exact .inr ⟨rfl, .inl now⟩
    · exact .inl ⟨rfl, by omega⟩

theorem written_nothing {s t : State} (journal : t.journal = s.journal) (notices : t.link.notices = s.link.notices)
    (low : s.journal.unreleased < 8128) : Written s t [] :=
  ⟨journal, (Marked.none notices).congr fun x => by rw [journal]; simp; omega⟩

/-! ## Entries cancelled -/

/-- From s to u some entries of document n are cancelled and journalled, the document's record then with entries l. -/
structure Quiet (s u : State) (n : Nat) (d : Document) (l : List ForwardEntry) (cs : List JournalContent) : Prop where
  leaving : Leaving s u n d.dept (docBlocks d)
  record : findDoc u n = some { d with forwards := l }
  written : Written s u cs
  frame : u = { s with
    dir := { s.dir with docs := u.dir.docs }, journal := u.journal, link := { s.link with notices := u.link.notices } }

theorem foldl_cancelQuietly {s : State} {n : Nat} {d : Document} (found : findDoc s n = some d) (low : s.journal.unreleased < 8128)
    (ps : List (Nat × ForwardEntry)) (few : ps.length ≤ 4) :
    Quiet s (ps.foldl (cancelQuietly n) s) n d (cancelAll ps d.forwards) (ps.map (cancelContent n)) := by
  induction ps using List.reverseRecOn with
  | nil => exact ⟨.refl found, found, written_nothing rfl rfl low, rfl⟩
  | append_singleton ps p ih =>
    rw [List.length_append, List.length_singleton] at few
    obtain ⟨leaving, record, written, frame⟩ := ih (by omega)
    have all : cancelAll (ps ++ [p]) d.forwards = (cancelAll ps d.forwards).modify p.1 ForwardEntry.cancel := by
      unfold cancelAll; rw [List.foldl_append]; rfl
    rw [List.foldl_append, List.foldl_cons, List.foldl_nil, List.map_append, List.map_cons, List.map_nil, all]
    generalize ps.foldl (cancelQuietly n) s = u at *
    have changed := leaving_modDoc (f := fun e => { e with forwards := e.forwards.modify p.1 ForwardEntry.cancel }) record
      (fun _ => rfl) rfl rfl
    have more : Written s (modForward n p.1 ForwardEntry.cancel u) (ps.map (cancelContent n)) :=
      ⟨written.journal, written.marked.of_link rfl rfl rfl⟩
    refine ⟨(leaving.trans changed).of_dir (append_dir _ _) (by unfold cancelQuietly; rw [append_frame]; rfl),
      findDoc_cancelQuietly record p, more.append (by rw [frame]; rfl) (by rw [frame]; rfl) (by rw [List.length_map]; omega) _, ?_⟩
    unfold cancelQuietly
    rw [append_frame]
    unfold modForward modDoc
    rw [frame]

/-- A document falls back as its last PENDING entry is cancelled (R40, log entry 13). -/
def Falls (d : Document) : Prop :=
  d.life = .opened ∧ d.disposition = .none ∧ (∃ e ∈ d.forwards, e.state = .pending) ∧ ∃ e ∈ d.forwards, e.state = .failed

/-- The PENDING entries of a document have ended (R46, step 4): what has changed besides what the document's purge takes away. -/
structure Cancelled (s u : State) (n : Nat) (d : Document) (cs : List JournalContent) : Prop where
  leaving : Leaving s u n d.dept (docBlocks d)
  journal : u.journal = s.journal.wrote cs s.clock.cal s.clock.trusted
  offers : u.collect.offers.filter (fun o => decide (o.doc ≠ n)) = s.collect.offers.filter (fun o => decide (o.doc ≠ n))
  waits : ¬ Falls d ∨ (∀ w ∈ s.collect.queue, w.dept ≠ d.dept) →
    u.collect.queue = s.collect.queue ∧ u.link.responses = s.link.responses
  meets : ∀ front w rest, Falls d → s.collect.queue = front ++ w :: rest → w.dept = d.dept → (∀ v ∈ front, v.dept ≠ d.dept) →
    u.collect.queue = front ++ rest ∧ u.link.responses = s.link.responses ++
      [⟨w.tag, .collect, .done, .offer (offerSummary d w.timeout s.policy.offerWindow)⟩]
  marked : ∃ due : Prop, Marked s u (fun x => (x = .department d.dept ∧ due) ∨ (x = .journal ∧ 8128 ≤ u.journal.unreleased))
  frame : u = { s with
    dir := { s.dir with docs := u.dir.docs, ready := u.dir.ready, reclaim := u.dir.reclaim }, journal := u.journal
    collect := { s.collect with queue := u.collect.queue, offers := u.collect.offers }
    link := { s.link with responses := u.link.responses, notices := u.link.notices } }

section
variable {s u : State} {n : Nat} {d : Document} {l : List ForwardEntry} {cs : List JournalContent}

theorem Quiet.cancelled (h : Quiet s u n d l cs) (stays : ¬ Falls d) : Cancelled s u n d cs := by
  obtain ⟨leaving, record, ⟨journal, marked⟩, frame⟩ := h
  refine ⟨leaving, journal, by rw [frame], fun _ => by rw [frame]; exact ⟨rfl, rfl⟩, fun _ _ _ falls => absurd falls stays,
    ⟨False, marked.congr (by simp)⟩, ?_⟩
  rw [frame]

/-- A document that falls back (R40). -/
theorem Quiet.fallen (h : Quiet s u n d l cs) (falls : Falls d) :
    Cancelled s (mark (.department d.dept) (becomeDue n u)) n d cs := by
  obtain ⟨leaving, record, ⟨journal, marked⟩, frame⟩ := h
  obtain ⟨leaving', -, offers, waits, meets, due, marked'⟩ := becomeDue_handed record
  have kept := becomeDue_frame n u
  generalize becomeDue n u = v at *
  have collect : u.collect = s.collect := by rw [frame]
  have responses : u.link.responses = s.link.responses := by rw [frame]
  have policy : u.policy = s.policy := by rw [frame]
  have entries : v.journal = u.journal := by rw [kept]
  rw [collect] at offers waits meets
  rw [responses] at waits meets
  rw [policy] at meets
  refine ⟨(leaving.trans leaving').of_dir rfl rfl, (mark_journal _ v).trans (entries.trans journal), offers,
    fun k => waits (k.resolve_left (not_not.2 falls)), fun front w rest _ => meets front w rest, ⟨True, ?_⟩, ?_⟩
  · refine ((marked.trans marked' (by rw [frame])).trans (mark_marked (.department d.dept) v) (by rw [kept, frame])).congr fun x => ?_
    rw [mark_journal, entries]
    constructor
    · rintro ((⟨rfl, high⟩ | ⟨rfl, -⟩) | rfl)
      · exact .inr ⟨rfl, high⟩
      · exact .inl ⟨rfl, trivial⟩
      · exact .inl ⟨rfl, trivial⟩
    · rintro (⟨rfl, -⟩ | high)
      · exact .inr rfl
      · exact .inl (.inl high)
  · unfold mark
    rw [kept, frame]

/-- A document that settles (R41), before a purge for retention 0. -/
theorem Quiet.settled (h : Quiet s u n d l cs) (stays : ¬ Falls d) (cal : CalTime) (deadline : Nat) :
    Cancelled s { modDoc n (Document.settledAt cal deadline) u with dir := { (modDoc n (Document.settledAt cal deadline) u).dir with
      reclaim := u.dir.reclaim ++ [n] } } n d cs := by
  obtain ⟨leaving, record, ⟨journal, marked⟩, frame⟩ := h
  have changed := leaving_modDoc (f := Document.settledAt cal deadline) record (fun _ => rfl) rfl rfl
  obtain ⟨record', docs, -, queues, own, store⟩ := leaving.trans changed
  refine ⟨⟨record', docs, ?_, queues, own, store⟩, journal, by rw [frame]; rfl, fun _ => by rw [frame]; exact ⟨rfl, rfl⟩,
    fun _ _ _ falls => absurd falls stays, ⟨False, (marked.of_link rfl rfl rfl).congr (by simp)⟩, ?_⟩
  · show without n (u.dir.reclaim ++ [n]) = _
    rw [← leaving.reclaim]; simp [without]
  · unfold modDoc
    rw [frame]

/-- The jobs of a document have left the list (R46, step 4). -/
def jobsDropped (n : Nat) (s : State) : State :=
  { s with fwd := { s.fwd with jobs := s.fwd.jobs.filter (fun j => decide (j.document ≠ n)) } }

theorem settle_settles (found : findDoc s n = some d) (settles : settles d = true) : ∃ cal deadline,
    settle n s = (if (acct s d.dept).retention = 0 ∧ d.verifying = false then
        purgeEvent n { modDoc n (Document.settledAt cal deadline) s with dir := { (modDoc n (Document.settledAt cal deadline) s).dir with
          reclaim := s.dir.reclaim ++ [n] } }
      else { modDoc n (Document.settledAt cal deadline) s with dir := { (modDoc n (Document.settledAt cal deadline) s).dir with
        reclaim := s.dir.reclaim ++ [n] } }) := by
  refine ⟨s.clock.cal, s.clock.run + (acct s d.dept).retention * hourMs, ?_⟩
  unfold settle
  simp only [found, settles, if_true]
  rfl

/-- How the PENDING entries of a document end (R46, step 4): the document may then be purged at once, for retention 0 (R41). -/
theorem cancelPending_cancelled {s : State} {d : Document} (found : findDoc s d.number = some d) (low : s.journal.unreleased < 8128)
    (few : d.forwards.length ≤ 4) : ∃ u,
      Cancelled (jobsDropped d.number s) u d.number d ((pendingEntries d).map (cancelContent d.number)) ∧
      (cancelPending d s = u ∨ cancelPending d s = purgeEvent d.number u) := by
  have quiet := foldl_cancelQuietly (s := jobsDropped d.number s) (n := d.number) (d := d) found low (pendingEntries d)
    ((pendingEntries_length d).trans few)
  have there (p : Nat × ForwardEntry) (hp : p ∈ pendingEntries d) := mem_pendingEntries.1 hp
  show ∃ u, _ ∧ ((pendingEntries d).foldl (cancelEntry d.number) (jobsDropped d.number s) = u ∨
    (pendingEntries d).foldl (cancelEntry d.number) (jobsDropped d.number s) = purgeEvent d.number u)
  by_cases nothing : pendingEntries d = []
  · have stays : ¬ Falls d := by
      rintro ⟨-, -, ⟨e, he, pending⟩, -⟩
      obtain ⟨i, at_⟩ := List.getElem?_of_mem he
      have : (i, e) ∈ pendingEntries d := mem_pendingEntries.2 ⟨at_, pending⟩
      rw [nothing] at this; cases this
    rw [nothing] at quiet ⊢
    exact ⟨_, quiet.cancelled stays, .inl rfl⟩
  · have pending : ∃ e ∈ d.forwards, e.state = .pending := by
      obtain ⟨p, hp⟩ := List.exists_mem_of_ne_nil _ nothing
      obtain ⟨at_, pending⟩ := there p hp
      exact ⟨p.2, List.mem_of_getElem? at_, pending⟩
    rw [foldl_cancelEntry (s := jobsDropped d.number s) found there (pendingEntries_distinct d) nothing]
    obtain ⟨final, failed⟩ := cancelAll_final d
    have record := quiet.record
    generalize cancelAll (pendingEntries d) d.forwards = l at *
    generalize (pendingEntries d).foldl (cancelQuietly d.number) (jobsDropped d.number s) = v at *
    have falls : fallsBack { d with forwards := l } = true ↔ Falls d := by
      have some_left : l.any (fun e => e.state == .failed) = true → l.isEmpty = false := by cases l <;> simp
      unfold fallsBack Falls
      simp only [final, Bool.and_eq_true, beq_iff_eq, Bool.not_eq_true', failed]
      constructor
      · rintro ⟨⟨⟨⟨life, -⟩, -⟩, f⟩, disposition⟩
        exact ⟨life, disposition, pending, f⟩
      · rintro ⟨life, disposition, -, f⟩
        exact ⟨⟨⟨⟨life, some_left (failed.2 f)⟩, trivial⟩, f⟩, disposition⟩
    by_cases back : Falls d
    · have fell : fallback d.number v = mark (.department d.dept) (becomeDue d.number v) := by
        unfold fallback; rw [record]; exact if_pos (falls.2 back)
      obtain ⟨now, due, way⟩ := (becomeDue_handed record).record
      have unsettled : settles { d with forwards := l, disposition := now } = false := by rcases way with rfl | rfl <;> simp [settles]
      rw [fell, settle_not (s := mark (.department d.dept) (becomeDue d.number v)) (d := { d with forwards := l, disposition := now }) due
        unsettled]
      exact ⟨_, quiet.fallen back, .inl rfl⟩
    · rw [fallback_not record (Bool.eq_false_iff.2 (fun k => back (falls.1 k)))]
      cases ends : settles { d with forwards := l } with
      | false => rw [settle_not record ends]; exact ⟨v, quiet.cancelled back, .inl rfl⟩
      | true =>
        obtain ⟨cal, deadline, e⟩ := settle_settles record ends
        rw [e]
        refine ⟨_, quiet.settled back cal deadline, ?_⟩
        split
        · exact .inr rfl
        · exact .inl rfl

end

/-! ## The discard -/

/-- An evaluation changes nothing behind another (R21). -/
theorem evalPressure_again {s : State} {was : Bool} (h : s.store.pressure = pressureAfter was s) : evalPressure s = s := by
  have order : pLeave s ≤ pEnter s := by unfold pLeave pEnter; omega
  unfold evalPressure
  unfold pressureAfter at h
  cases was <;> cases p : s.store.pressure <;> rw [p] at h <;> simp at h ⊢ <;> omega

theorem purgeDoc_none {s : State} {n : Nat} (h : findDoc s n = none) : purgeDoc n s = s := by unfold purgeDoc; rw [h]

/-- An accepted Discard Document, before its response (R46). -/
structure Discarded (s t : State) (n : Nat) (d : Document) (cs : List JournalContent) : Prop where
  purged : Purged s t d
  journal : t.journal = s.journal.wrote cs s.clock.cal s.clock.trusted
  fwd : t.fwd = { s.fwd with jobs := s.fwd.jobs.filter (fun j => decide (j.document ≠ n)) }
  collect : t.collect = { s.collect with
    queue := t.collect.queue, sent := s.collect.sent.filter (fun x => decide (x.doc ≠ n))
    offers := s.collect.offers.filter (fun o => decide (o.doc ≠ n)) }
  waits : ¬ Falls d ∨ (∀ w ∈ s.collect.queue, w.dept ≠ d.dept) →
    t.collect.queue = s.collect.queue ∧ t.link.responses = s.link.responses
  meets : ∀ front w rest, Falls d → s.collect.queue = front ++ w :: rest → w.dept = d.dept → (∀ v ∈ front, v.dept ≠ d.dept) →
    t.collect.queue = front ++ rest ∧ t.link.responses = s.link.responses ++
      [⟨w.tag, .collect, .done, .offer (offerSummary d w.timeout s.policy.offerWindow)⟩]
  marked : Marked s t (fun x => x = .department d.dept ∨ (x = .integrity ∧ t.store.retired ≠ s.store.retired) ∨
    (x = .store ∧ (t.store.pressure ≠ s.store.pressure ∨ t.integrity.exhausted ≠ s.integrity.exhausted)) ∨
    (x = .journal ∧ 8128 ≤ t.journal.unreleased))
  frame : t = { s with
    store := t.store, dir := { t.dir with nextNumber := s.dir.nextNumber, verifications := s.dir.verifications }
    integrity := { s.integrity with exhausted := t.integrity.exhausted }, journal := t.journal, fwd := t.fwd, collect := t.collect
    link := { s.link with responses := t.link.responses, notices := t.link.notices } }

theorem Leaving.of_jobs {s u : State} {m n : Nat} {dept : Dept} {bs : List Block} (h : Leaving (jobsDropped m s) u n dept bs) :
    Leaving s u n dept bs := ⟨h.record, h.docs, h.reclaim, h.queues, h.own, h.store⟩

section
variable {s u t y : State} {d : Document} {cs : List JournalContent}

/-- The DISCARD entry and the purge of a document whose PENDING entries have ended, in either order: y is the state that is purged. -/
theorem Cancelled.discarded (h : Cancelled (jobsDropped d.number s) u d.number d cs) (low : s.journal.unreleased < 8128) (few : cs.length ≤ 4)
    (leaving : Leaving s y d.number d.dept (docBlocks d)) (whole : y.integrity = s.integrity)
    (numbers : y.dir.nextNumber = s.dir.nextNumber ∧ y.dir.verifications = s.dir.verifications)
    (dir : t.dir = (purgeEvent d.number y).dir) (store : t.store = (purgeEvent d.number y).store)
    (integrity : t.integrity = (purgeEvent d.number y).integrity)
    (frame : t = { dropCollect d.number (append (.discard d.number) u).1 with
      store := t.store, dir := t.dir, integrity := t.integrity, link := { u.link with notices := t.link.notices } })
    (marked : ∀ P, Marked (jobsDropped d.number s) u P → Marked s t (fun x => P x ∨
      (x = .journal ∧ (u.journal.unreleased = 8127 ∨ 8192 ≤ u.journal.unreleased)) ∨
      x = .department d.dept ∨ (x = .integrity ∧ t.store.retired ≠ s.store.retired) ∨
      (x = .store ∧ (t.store.pressure ≠ s.store.pressure ∨ t.integrity.exhausted ≠ s.integrity.exhausted)))) :
    Discarded s t d.number d (cs ++ [.discard d.number]) := by
  obtain ⟨-, journal, offers, waits, meets, ⟨due, early⟩, kept⟩ := h
  have appended := append_frame (.discard d.number) u
  have length : u.journal.unreleased = s.journal.unreleased + cs.length := by rw [journal, unreleased_wrote]; rfl
  have written : t.journal = s.journal.wrote (cs ++ [.discard d.number]) s.clock.cal s.clock.trusted := by
    rw [frame, Journal.wrote_append]
    show (append _ u).1.journal = _
    rw [appended]
    show u.journal.offered _ u.clock.cal u.clock.trusted = _
    rw [show u.clock = s.clock by rw [kept]; rfl]
    unfold Journal.offered
    rw [if_pos (by omega), journal]
    rfl
  have collect : t.collect = (dropCollect d.number u).collect := by rw [frame]; unfold dropCollect; rw [appended]
  have responses : t.link.responses = u.link.responses := by rw [frame]
  refine ⟨leaving.purged rfl dir store, written, ?_, ?_, fun k => ?_, fun front w rest falls cut own before => ?_,
    (marked _ early).congr fun x => ?_, ?_⟩
  · rw [frame]; unfold dropCollect; rw [appended, kept]; rfl
  · rw [collect]; unfold dropCollect; dsimp only; rw [offers, kept]; rfl
  · rw [collect, responses]; exact waits k
  · rw [collect, responses]; exact meets front w rest falls cut own before
  · rw [written, unreleased_wrote, List.length_append, List.length_singleton, length]
    constructor
    · rintro ((⟨rfl, -⟩ | ⟨rfl, high⟩) | ⟨rfl, high⟩ | rfl | retired | pressure)
      · exact .inl rfl
      · exact .inr (.inr (.inr ⟨rfl, by omega⟩))
      · exact .inr (.inr (.inr ⟨rfl, by omega⟩))
      · exact .inl rfl
      · exact .inr (.inl retired)
      · exact .inr (.inr (.inl pressure))
    · rintro (rfl | retired | pressure | ⟨rfl, high⟩)
      · exact .inr (.inr (.inl rfl))
      · exact .inr (.inr (.inr (.inl retired)))
      · exact .inr (.inr (.inr (.inr pressure)))
      · by_cases now : s.journal.unreleased + cs.length = 8127
        · exact .inr (.inl ⟨rfl, .inl now⟩)
        · exact .inl (.inr ⟨rfl, by omega⟩)
  · have purge := purgeEvent_frame d.number y
    have records : ({ t.dir with nextNumber := s.dir.nextNumber, verifications := s.dir.verifications } : Directory) = t.dir := by
      rw [dir, purge, ← numbers.1, ← numbers.2]
    have health : ({ s.integrity with exhausted := t.integrity.exhausted } : Integrity) = t.integrity := by
      rw [integrity, purge, whole]
    have entries : t.journal = (append (.discard d.number) u).1.journal := by rw [frame]; rfl
    have jobs : t.fwd = u.fwd := by rw [frame]; unfold dropCollect; rw [appended]
    rw [records, health, entries, jobs, collect, responses]
    refine frame.trans ?_
    unfold dropCollect
    rw [appended, kept]
    rfl

/-- The parts that a purge may change (R45). -/
theorem purgeEvent_parts (n : Nat) (y : State) : purgeEvent n y = { y with
    store := (purgeEvent n y).store, dir := (purgeEvent n y).dir, integrity := (purgeEvent n y).integrity
    link := { y.link with notices := (purgeEvent n y).link.notices } } := by
  have frame := purgeEvent_frame n y
  generalize purgeEvent n y = t at frame ⊢
  refine frame.trans ?_
  have store := congrArg State.store frame
  have dir := congrArg State.dir frame
  have integrity := congrArg State.integrity frame
  dsimp only at store dir integrity
  rw [← store, ← dir, ← integrity]

/-- The document is purged after the DISCARD entry (R46). -/
theorem Cancelled.discarded_last (h : Cancelled (jobsDropped d.number s) u d.number d cs) (low : s.journal.unreleased < 8128)
    (few : cs.length ≤ 4) :
    Discarded s (purgeEvent d.number (dropCollect d.number (append (.discard d.number) u).1)) d.number d (cs ++ [.discard d.number]) := by
  have appended := append_frame (.discard d.number) u
  have marks := append_marked (.discard d.number) u
  have kept := h.frame
  obtain ⟨e, found, dept, -⟩ := h.leaving.record
  generalize hy : dropCollect d.number (append (.discard d.number) u).1 = y
  have there : findDoc y d.number = some e := (findDoc_dir (by rw [← hy, dropCollect_dir, append_dir]) _).trans found
  have store : y.store = s.store := by rw [← hy, dropCollect_store, appended, kept]; rfl
  have whole : y.integrity = s.integrity := by rw [← hy, dropCollect_integrity, appended, kept]; rfl
  have dir : y.dir = u.dir := by rw [← hy, dropCollect_dir, append_dir]
  have gone := purgeEvent_marked there
  rw [store, whole, dept] at gone
  refine h.discarded (y := y) low few (h.leaving.of_dir dir (store.trans h.leaving.store.symm)).of_jobs whole
    (by rw [dir, kept]; exact ⟨rfl, rfl⟩) rfl rfl rfl ?_ fun P early => ?_
  · refine (purgeEvent_parts d.number y).trans ?_
    have link : y.link = { u.link with notices := y.link.notices } := by rw [← hy, dropCollect_link, appended]
    rw [link, hy]
  · have first : Marked s u P := early.of_link rfl rfl rfl
    have second : Marked s y _ := (first.trans marks (by rw [kept]; rfl)).of_link rfl (by rw [← hy]; rfl) rfl
    refine (second.trans gone (by rw [← hy, dropCollect_link, appended, kept]; rfl)).congr fun x => ?_
    tauto

/-- A document that retention 0 has purged before the DISCARD entry (R41, R46). -/
theorem Cancelled.discarded_first (h : Cancelled (jobsDropped d.number s) u d.number d cs) (low : s.journal.unreleased < 8128)
    (few : cs.length ≤ 4) : Discarded s (purgeEvent d.number (dropCollect d.number (append (.discard d.number) (purgeEvent d.number u)).1))
      d.number d (cs ++ [.discard d.number]) := by
  have kept := h.frame
  obtain ⟨e, found, dept, -⟩ := h.leaving.record
  have store : u.store = s.store := h.leaving.store
  have whole : u.integrity = s.integrity := by rw [kept]; rfl
  have gone := purgeEvent_marked found
  have absent : findDoc (purgeEvent d.number u) d.number = none := by
    have := findDoc_purgeDoc found d.number
    rw [if_pos rfl] at this
    exact (findDoc_dir (congrArg Directory.docs (purgeEvent_dir d.number u)) _).trans this
  have settled : (purgeEvent d.number u).store.pressure = pressureAfter u.store.pressure (purgeEvent d.number u) :=
    (purgeEvent_purged found).pressure
  rw [store, whole, dept] at gone
  have appended := append_frame (.discard d.number) (purgeEvent d.number u)
  have marks := append_marked (.discard d.number) (purgeEvent d.number u)
  generalize hy : purgeEvent d.number u = y at *
  have last : purgeEvent d.number (dropCollect d.number (append (.discard d.number) y).1) =
      dropCollect d.number (append (.discard d.number) y).1 := by
    unfold purgeEvent
    rw [purgeDoc_none ((findDoc_dir (by rw [dropCollect_dir, append_dir]) _).trans absent)]
    have same : (dropCollect d.number (append (.discard d.number) y).1).store = y.store := by rw [dropCollect_store, appended]
    exact evalPressure_again (was := u.store.pressure) (by rw [same, pressureAfter_of_store same]; exact settled)
  rw [last]
  refine h.discarded (y := u) low few h.leaving.of_jobs whole (by rw [kept]; exact ⟨rfl, rfl⟩)
    (by rw [dropCollect_dir, append_dir, hy]) (by rw [dropCollect_store, appended, hy]) (by rw [dropCollect_integrity, appended, hy]) ?_
    fun P early => ?_
  · have parts := purgeEvent_parts d.number u
    rw [hy] at parts
    have entries : y.journal = u.journal := by rw [parts]
    have clock : y.clock = u.clock := by rw [parts]
    have other : (append (.discard d.number) u).1 = { u with
        journal := u.journal.offered (.discard d.number) u.clock.cal u.clock.trusted
        link := { u.link with notices := (append (.discard d.number) u).1.link.notices } } := append_frame _ u
    unfold dropCollect
    rw [other, appended, entries, clock]
    generalize (append (.discard d.number) y).1.link.notices = notices
    generalize y.store = a, y.dir = b, y.integrity = c, y.link.notices = m at parts ⊢
    subst parts
    rfl
  · have parts := purgeEvent_parts d.number u
    rw [hy] at parts
    have entries : y.journal = u.journal := by rw [parts]
    have integrity : (dropCollect d.number (append (.discard d.number) y).1).integrity = y.integrity := by
      rw [dropCollect_integrity, appended]
    have store' : (dropCollect d.number (append (.discard d.number) y).1).store = y.store := by rw [dropCollect_store, appended]
    have first : Marked s u P := early.of_link rfl rfl rfl
    rw [entries] at marks
    have all : Marked s (append (.discard d.number) y).1 _ :=
      (first.trans gone (by rw [kept]; rfl)).trans marks (by rw [parts, kept]; rfl)
    rw [integrity, store']
    refine (all.of_link rfl rfl rfl).congr fun x => ?_
    tauto

end

end Sys2Proof.Machine
end

section
/-! Discard Document and retention deadlines: the obligation (O41). -/

namespace Sys2Proof.Machine

open Sys2Proof

/-- What bars a discard, in words (R46). -/
theorem discardBlocked_iff (s : State) (d : Document) : discardBlocked s d = true ↔ (d.life = .landing ∨ d.disposition = .offered ∨
    d.disposition = .transferring ∨ d.verifying = true ∨ ∃ j ∈ s.fwd.jobs, j.document = d.number ∧ j.inCall = true) := by
  unfold discardBlocked
  simp only [Bool.or_eq_true, beq_iff_eq, List.any_eq_true, Bool.and_eq_true, decide_eq_true_eq, or_assoc]
  exact or_congr .rfl (or_congr .rfl (or_congr .rfl or_comm))

theorem atHighWater_iff (s : State) : atHighWater s = true ↔ 8128 ≤ s.journal.unreleased := by
  unfold atHighWater; exact decide_eq_true_iff

/-- An accepted discard (R46). -/
theorem discarded {s : State} {d : Document} (found : findDoc s d.number = some d) (low : s.journal.unreleased < 8128)
    (few : d.forwards.length ≤ 4) :
    Discarded s (purgeEvent d.number (dropCollect d.number (append (.discard d.number) (cancelPending d s)).1)) d.number d
      ((pendingEntries d).map (cancelContent d.number) ++ [.discard d.number]) := by
  have short : ((pendingEntries d).map (cancelContent d.number)).length ≤ 4 := by
    rw [List.length_map]; exact (pendingEntries_length d).trans few
  obtain ⟨u, cancelled, e | e⟩ := cancelPending_cancelled found low few
  · rw [e]; exact cancelled.discarded_last low short
  · rw [e]; exact cancelled.discarded_first low short

/-- Settles O41. -/
theorem discardAndRetentionPurge : Obligations.DiscardAndRetentionPurge := by
  refine ⟨fun s r doc takes => ?_, fun s doc d x found settled deadline => ?_⟩
  · have taken : exec (.discardDocument r doc) s = .next (discardDocument r.tag doc (takeFrame r.tag s)) :=
      congrArg Host.Outcome.next (takeRequest_of_takes takes .discardDocument _)
    have same : findDoc (takeFrame r.tag s) doc = findDoc s doc := rfl
    refine ⟨fun none => ?_, fun d found => ?_⟩
    · rw [taken, discardDocument, same, none]; rfl
    · obtain rfl := findDoc_number found
      have blocked := discardBlocked_iff (takeFrame r.tag s) d
      have full := atHighWater_iff (takeFrame r.tag s)
      refine ⟨fun busy => ?_, fun clear high => ?_, fun clear low few => ?_⟩
      · rw [taken, discardDocument, same, found]
        exact congrArg Host.Outcome.next (if_pos (blocked.2 busy))
      · rw [taken, discardDocument, same, found]
        exact congrArg Host.Outcome.next ((if_neg (fun b => clear (blocked.1 b))).trans (if_pos (full.2 high)))
      · have accepted : discardDocument r.tag d.number (takeFrame r.tag s) =
            respond r.tag .discardDocument .done (.discarded d.pages.length (docBlocks d).length)
              (purgeEvent d.number (dropCollect d.number (append (.discard d.number) (cancelPending d (takeFrame r.tag s))).1)) := by
          rw [discardDocument, same, found]
          exact (if_neg (fun b => clear (blocked.1 b))).trans (if_neg (fun b => absurd (full.1 b) (Nat.not_le.2 low)))
        rw [taken, accepted]
        refine ⟨_, rfl, ?_⟩
        have all := discarded (s := takeFrame r.tag s) found low few
        generalize purgeEvent d.number _ = t at all ⊢
        obtain ⟨⟨⟨used, free, spares, pressure⟩, docs, reclaim, queues, account, accounts⟩, journal, fwd, collect, waits, meets, marked,
          frame⟩ := all
        have intake : t.link.intake = afterTaking r.tag s.link.intake := by rw [frame]; rfl
        rw [pendingEntries_contents] at journal
        refine ⟨⟨⟨used, free, spares, pressure⟩, docs, reclaim, queues, account, accounts⟩, journal, fwd, collect, intake, fun k => ?_,
          fun front w rest falls cut own before => ?_, marked.of_link rfl rfl rfl, ?_⟩
        · obtain ⟨queue, responses⟩ := waits k
          exact ⟨queue, congrArg (· ++ _) responses⟩
        · obtain ⟨queue, responses⟩ := meets front w rest falls cut own before
          refine ⟨queue, (congrArg (· ++ [_]) responses).trans ?_⟩
          rw [List.append_assoc]; rfl
        · unfold respond
          rw [intake]
          conv => lhs; rw [frame]
          rfl
  · have run : (advanceTo x s).clock.run = max s.clock.run (min x 18446744073709551615) := by
      show max s.clock.run (min (s.clock.run + (x - s.clock.run)) 18446744073709551615) = _
      omega
    have expiry : exec (.retentionExpiry doc) s =
        .next (if isReady (advanceTo x s) then purgeIfPassed doc (advanceTo x s) else advanceTo x s) := by
      show execRetentionExpiry doc s = _
      unfold execRetentionExpiry
      rw [found]
      dsimp only
      rw [deadline]
      exact congrArg Host.Outcome.next (if_pos settled)
    have ready : isReady (advanceTo x s) = true ↔ s.part.phase = some .ready := beq_iff_eq
    refine ⟨fun phase => ⟨_, expiry.trans (by rw [if_pos (ready.2 phase)]), ?_⟩,
      fun phase => ⟨_, expiry.trans (by rw [if_neg (fun k => phase (ready.1 k))]), run, rfl⟩⟩
    have there : findDoc (advanceTo x s) doc = some d := found
    have passed : purgeIfPassed doc (advanceTo x s) =
        if d.life = .settled ∧ x ≤ (advanceTo x s).clock.run ∧ d.verifying = false then purgeEvent doc (advanceTo x s)
        else advanceTo x s := by
      unfold purgeIfPassed; rw [there]; dsimp only; rw [deadline]
    have purge := purgeEvent_frame doc (advanceTo x s)
    rw [passed]
    refine ⟨?_, fun reached idle => ?_, fun busy => ?_, ?_⟩
    · split
      · rw [purge]; exact run
      · exact run
    · rw [if_pos ⟨settled, by omega, idle⟩]
      obtain ⟨⟨used, free, spares, pressure⟩, docs, reclaim, queues, account, accounts⟩ := purgeEvent_purged there
      exact ⟨⟨used, free, spares, pressure⟩, docs, reclaim, queues, account, accounts⟩
    · rw [if_neg (fun k => by rw [busy] at k; exact absurd k.2.2 (by decide))]; exact ⟨rfl, rfl⟩
    · split
      · rw [purge]; exact ⟨rfl, rfl, rfl, rfl, rfl⟩
      · exact ⟨rfl, rfl, rfl, rfl, rfl⟩

end Sys2Proof.Machine
end

section
/-! What every part of a Restart keeps (R28, R226). -/

namespace Sys2Proof.Machine

open Sys2Proof

/-! ## What a Restart keeps -/

/-- The settings of an account, which only department requests change (R23, R25). -/
def Account.settings (a : Account) : Bool × Nat × Nat × Nat := (a.configured, a.guarantee, a.cap, a.retention)

/-- What the end of calls and offers keeps while no Collect waits: the records touched bear numbers of X. -/
structure Still (X : Nat → Prop) (s t : State) : Prop where
  frame : t = { s with
    part := { s.part with tally := t.part.tally }, store := t.store, mem := t.mem, dram := t.dram
    dir := { t.dir with verifications := s.dir.verifications }, lines := t.lines
    callers := { s.callers with handed := t.callers.handed }, fwd := t.fwd, journal := t.journal, integrity := t.integrity
    link := { s.link with notices := t.link.notices } }
  jobs : ∀ j ∈ s.fwd.jobs, j ∈ t.fwd.jobs
  accounts : ∀ d : Dept, (acct t d).settings = (acct s d).settings
  records : ∀ m, ¬ X m → findDoc t m = findDoc s m

section
variable {X Y : Nat → Prop} {s t u : State}

theorem Still.refl (X : Nat → Prop) (s : State) : Still X s s := ⟨rfl, fun _ h => h, fun _ => rfl, fun _ _ => rfl⟩

theorem Still.collect (h : Still X s t) : t.collect = s.collect := by rw [h.frame]
theorem Still.clock (h : Still X s t) : t.clock = s.clock := by rw [h.frame]
theorem Still.verifications (h : Still X s t) : t.dir.verifications = s.dir.verifications := by rw [h.frame]
theorem Still.classes (h : Still X s t) : t.link.classes = s.link.classes := by rw [h.frame]

theorem Still.trans (h : Still X s t) (k : Still X t u) : Still X s u := by
  refine ⟨?_, fun j hj => k.jobs j (h.jobs j hj), fun d => (k.accounts d).trans (h.accounts d),
    fun m hm => (k.records m hm).trans (h.records m hm)⟩
  refine k.frame.trans ?_
  rw [h.frame]

theorem Still.mono (h : Still X s t) (le : ∀ m, X m → Y m) : Still Y s t :=
  ⟨h.frame, h.jobs, h.accounts, fun m hm => h.records m (fun k => hm (le m k))⟩

theorem still_foldl {α : Type} {f : State → α → State} (each : ∀ (s : State) (a : α), s.collect.queue = [] → Still X s (f s a))
    (l : List α) (s : State) (empty : s.collect.queue = []) : Still X s (l.foldl f s) := by
  induction l generalizing s with
  | nil => exact .refl X s
  | cons a l ih =>
    have step := each s a empty
    exact step.trans (ih _ (by rw [step.collect]; exact empty))

end

/-! ## The operations -/

section
variable {X : Nat → Prop}

theorem still_mark (x : Subject) (s : State) : Still X s (mark x s) := by
  have marked : mark x s = { s with link := { s.link with notices := (mark x s).link.notices } } := rfl
  exact ⟨marked, fun _ h => h, fun _ => rfl, fun _ _ => rfl⟩

theorem still_modDoc (n : Nat) (f : Document → Document) (number : ∀ e, (f e).number = e.number) (s : State) : Still (· = n) s (modDoc n f s) :=
  ⟨rfl, fun _ h => h, fun _ => rfl, fun m hm => (modDoc_others n f number s).1 m hm⟩

theorem still_append (content : JournalContent) (s : State) : Still X s (append content s).1 := by
  have frame := append_frame content s
  generalize (append content s).1 = t at frame
  rw [frame]
  exact ⟨rfl, fun _ h => h, fun _ => rfl, fun _ _ => rfl⟩

theorem still_modTally (f : RestartTally → RestartTally) (s : State) : Still X s (modTally f s) :=
  ⟨rfl, fun _ h => h, fun _ => rfl, fun _ _ => rfl⟩

theorem still_modLine (n : LineNo) (f : Line → Line) (s : State) : Still X s (modLine n f s) :=
  ⟨rfl, fun _ h => h, fun _ => rfl, fun _ _ => rfl⟩

theorem still_handClass (number : Text) (c : CallClass) (s : State) : Still X s (handClass number c s) :=
  ⟨rfl, fun _ h => h, fun _ => rfl, fun _ _ => rfl⟩

theorem still_evalPressure (s : State) : Still X s (evalPressure s) := by
  have accounts := acct_evalPressure s
  have frame := evalPressure_frame s
  generalize evalPressure s = t at frame accounts ⊢
  refine ⟨frame.trans ?_, fun j hj => ?_, fun d => by rw [accounts], fun m _ => findDoc_dir (by rw [frame]) m⟩
  · rw [frame]
  · rw [frame]; exact hj

theorem still_releaseAllotment (n : LineNo) (s : State) : Still X s (releaseAllotment n s) := by
  unfold releaseAllotment
  split
  · exact ⟨rfl, fun _ h => h, fun _ => rfl, fun _ _ => rfl⟩
  · rename_i d _
    refine Still.trans (t := setAllotment n ⟨none, 0⟩ (setAcct d (fun a => { a with resv := a.resv - (allotment s n).count }) s))
      ⟨rfl, fun _ h => h, fun e => ?_, fun _ _ => rfl⟩ (still_evalPressure _)
    show (acct (setAcct d (fun a => { a with resv := a.resv - (allotment s n).count }) s) e).settings = _
    rw [acct_setAcct]
    split
    · rename_i he; rw [he]; rfl
    · rfl

/-- With no Collect waiting, a document that is DUE stands in its ready queue and is reported (R39, R148). -/
theorem joinReady_empty {s : State} {n : Nat} {d : Document} (empty : s.collect.queue = []) (found : findDoc s n = some d) :
    joinReady n s = mark (.department d.dept) (if (readyQueue s d.dept).contains n then s else setReady d.dept (joinQueue s d) s) := by
  unfold joinReady matchDoc
  rw [found]
  cases there : (readyQueue s d.dept).contains n <;>
    simp only [there, if_true, if_false, Bool.false_eq_true, setReady_collect, empty, List.find?_nil]

theorem still_joinReady {s : State} (n : Nat) (empty : s.collect.queue = []) : Still X s (joinReady n s) := by
  cases found : findDoc s n with
  | none => unfold joinReady; rw [found]; exact .refl X s
  | some d =>
    rw [joinReady_empty empty found]
    refine Still.trans ?_ (still_mark _ _)
    split
    · exact .refl X s
    · exact ⟨rfl, fun _ h => h, fun _ => rfl, fun _ _ => rfl⟩

theorem still_becomeDue {s : State} (n : Nat) (empty : s.collect.queue = []) : Still (· = n) s (becomeDue n s) :=
  (still_modDoc n (fun e => { e with disposition := .due }) (fun _ => rfl) s).trans (still_joinReady n empty)

theorem still_purgeEvent (n : Nat) (s : State) : Still (· = n) s (purgeEvent n s) := by
  cases found : findDoc s n with
  | none => unfold purgeEvent; rw [purgeDoc_none found]; exact still_evalPressure s
  | some d =>
    obtain rfl := findDoc_number found
    have frame := purgeEvent_frame d.number s
    have purged := purgeEvent_purged found
    generalize purgeEvent d.number s = t at frame purged ⊢
    obtain ⟨-, docs, -, -, account, accounts⟩ := purged
    refine ⟨frame.trans ?_, fun j hj => ?_, fun e => ?_, fun m hm => ?_⟩
    · rw [frame]
    · rw [frame]; exact hj
    · by_cases he : e = d.dept
      · rw [he, account]; rfl
      · rw [accounts e he]
    · unfold findDoc; rw [docs, findDoc_dropped d.number m _ _ rfl, if_neg hm]; rfl

theorem still_settle (n : Nat) (s : State) : Still (· = n) s (settle n s) := by
  cases found : findDoc s n with
  | none => unfold settle; rw [found]; exact .refl _ s
  | some d =>
    cases ends : settles d with
    | false => rw [settle_not found ends]; exact .refl _ s
    | true =>
      obtain ⟨cal, deadline, e⟩ := settle_settles found ends
      have noted := still_modDoc n (Document.settledAt cal deadline) (fun _ => rfl) s
      have listed : Still (· = n) s { modDoc n (Document.settledAt cal deadline) s with
          dir := { (modDoc n (Document.settledAt cal deadline) s).dir with reclaim := s.dir.reclaim ++ [n] } } :=
        noted.trans ⟨rfl, fun _ h => h, fun _ => rfl, fun _ _ => rfl⟩
      rw [e]
      split
      · exact listed.trans (still_purgeEvent n _)
      · exact listed

theorem still_fallback {s : State} (n : Nat) (empty : s.collect.queue = []) : Still (· = n) s (fallback n s) := by
  unfold fallback
  split
  · exact .refl _ s
  · split
    · exact (still_becomeDue n empty).trans (still_mark _ _)
    · exact .refl _ s

theorem still_fallback_settle {s : State} (n : Nat) (empty : s.collect.queue = []) : Still (· = n) s (settle n (fallback n s)) :=
  (still_fallback n empty).trans (still_settle n _)

theorem still_addJob (n i : Nat) (dest : Text) (urgent : Bool) (s : State) : Still X s (addJob n i dest urgent s).1 :=
  ⟨rfl, fun _ h => List.mem_append_left _ h, fun _ => rfl, fun _ _ => rfl⟩

theorem still_endEntry {s : State} (n i : Nat) (state : ForwardState) (result : ForwardResult) (empty : s.collect.queue = []) :
    Still (· = n) s (endEntry n i state result s) := by
  have noted := still_modDoc n (fun d => { d with forwards := d.forwards.modify i (fun e => { e with state := state }) }) (fun _ => rfl) s
  unfold endEntry
  dsimp only
  have journalled : Still (· = n) s (match entryOf (modForward n i (fun e => { e with state := state }) s) n i with
      | some e => (append (.forward n i e.destination result e.attempts e.pages) (modForward n i (fun e => { e with state := state }) s)).1
      | none => modForward n i (fun e => { e with state := state }) s) := by
    split
    · exact noted.trans (still_append _ _)
    · exact noted
  have reported := journalled.trans (still_mark .forward _)
  exact reported.trans (still_fallback_settle n (by rw [reported.collect]; exact empty))

theorem still_createJob {s : State} (n i : Nat) (dest : Text) (urgent : Bool) (empty : s.collect.queue = []) :
    Still (· = n) s (createJob n i dest urgent s) := by
  unfold createJob
  split
  · exact still_addJob n i dest urgent s
  · have noted := still_modDoc n (fun d => { d with forwards := d.forwards.modify i (fun e => { e with last := some .tableFull }) })
      (fun _ => rfl) s
    have shown := noted.trans (u := { modForward n i (fun e => { e with last := some .tableFull }) s with
      fwd.lastEnd := some ⟨n, i, .tableFull, true⟩ }) ⟨rfl, fun _ h => h, fun _ => rfl, fun _ _ => rfl⟩
    exact shown.trans (still_endEntry n i _ _ (by rw [shown.collect]; exact empty))

theorem still_openForwards {s : State} (n : Nat) (urgent : Bool) (i : Nat) (dests : List Text) (empty : s.collect.queue = []) :
    Still (· = n) s (openForwards n urgent i dests s) := by
  induction dests generalizing i s with
  | nil => exact .refl _ s
  | cons dest rest ih =>
    have added := still_modDoc n (fun d => { d with forwards := d.forwards ++ [ForwardEntry.fresh dest] }) (fun _ => rfl) s
    have made := added.trans (still_createJob n i dest urgent (by rw [added.collect]; exact empty))
    exact made.trans (ih (i + 1) (by rw [made.collect]; exact empty))

theorem still_enterOpen {s : State} (n : Nat) (empty : s.collect.queue = []) : Still (· = n) s (enterOpen n s) := by
  unfold enterOpen
  split
  · exact .refl _ s
  · rename_i d _
    have opened := still_modDoc n (fun e => { e with life := .opened }) (fun _ => rfl) s
    have collected : Still (· = n) s (if d.plan.collect then becomeDue n (modDoc n (fun e => { e with life := .opened }) s)
        else modDoc n (fun e => { e with life := .opened }) s) := by
      split
      · exact opened.trans (still_becomeDue n (by rw [opened.collect]; exact empty))
      · exact opened
    have forwarded := collected.trans (still_openForwards n (d.priority == .urgent) 0 d.plan.dests (by rw [collected.collect]; exact empty))
    exact forwarded.trans (still_fallback_settle n (by rw [forwarded.collect]; exact empty))

theorem still_freeLanding (n : Nat) (s : State) : Still (· = n) s (freeLanding n s) := by
  cases found : findDoc s n with
  | none => rw [freeLanding_not (fun d hd => by rw [found] at hd; cases hd)]; exact .refl _ s
  | some d =>
    obtain rfl := findDoc_number found
    obtain ⟨⟨others, -⟩, accounts⟩ := freeLanding_others found
    have account : (acct (freeLanding d.number s) d.dept).settings = (acct s d.dept).settings := by
      cases landing : d.landing with
      | none => rw [freeLanding_none found landing]
      | some p => rw [(landingFreed found landing).account]; rfl
    have frame := freeLanding_frame d.number s
    generalize freeLanding d.number s = t at *
    refine ⟨frame.trans ?_, fun j hj => ?_, fun e => ?_, others⟩
    · rw [frame]
    · rw [frame]; exact hj
    · by_cases he : e = d.dept
      · rw [he]; exact account
      · rw [accounts e he]

theorem still_landDocument {s : State} (n : Nat) (o : ReceiptOutcome) (empty : s.collect.queue = []) :
    Still (· = n) s (landDocument n o s) := by
  have freed := still_freeLanding n s
  unfold landDocument
  dsimp only
  generalize freeLanding n s = u at freed ⊢
  split
  · exact freed
  · rename_i d _
    have noted := freed.trans (still_modDoc n (fun e => { e with
      completionTime := some u.clock.cal, digest := some (crc32Final e.crc), outcome := some o, partialFlag := isPartial o }) (fun _ => rfl) u)
    have journalled := noted.trans (still_append (.receipt (receiptOf d o)) _)
    generalize append (.receipt (receiptOf d o)) _ = p at journalled ⊢
    obtain ⟨v, seq⟩ := p
    have numbered := journalled.trans (still_modDoc n (fun e => { e with receiptSeq := seq }) (fun _ => rfl) v)
    refine Still.trans ?_ (still_mark _ _)
    split
    · exact numbered.trans (still_modDoc n (fun e => { e with life := .held }) (fun _ => rfl) _)
    · exact numbered.trans (still_enterOpen n (by rw [numbered.collect]; exact empty))

theorem still_dropEmpty (n : Nat) (o : ReceiptOutcome) (s : State) : Still (· = n) s (dropEmpty n o s) := by
  have freed := still_freeLanding n s
  unfold dropEmpty
  dsimp only
  generalize freeLanding n s = u at freed ⊢
  split
  · exact freed
  · rename_i d _
    refine (freed.trans (u := dropDoc n u) ⟨rfl, fun _ h => h, fun _ => rfl, fun m hm => ?_⟩).trans (still_append _ _)
    show List.find? _ (List.filter _ _) = _
    rw [findDoc_dropped n m _ _ rfl, if_neg hm]

theorem still_endDocument {s : State} (n : Nat) (o : ReceiptOutcome) (empty : s.collect.queue = []) :
    Still (· = n) s (endDocument n o s) := by
  unfold endDocument
  split
  · exact .refl _ s
  · split
    · exact still_dropEmpty n o s
    · exact still_landDocument n o empty

end

end Sys2Proof.Machine
end

section
/-! The course of a Restart, and what it leaves from any state (O38). -/

namespace Sys2Proof.Machine

open Sys2Proof

/-! ## The collect service -/

/-- Some documents become DUE, one after another (R166). -/
def dueAll (l : List Nat) (s : State) : State := l.foldl (fun t m => becomeDue m t) s

@[simp] theorem dueAll_lines (l : List Nat) (s : State) : (dueAll l s).lines = s.lines := by
  unfold dueAll; induction l generalizing s with
  | nil => rfl
  | cons n l ih => exact (ih _).trans (becomeDue_lines n s)

@[simp] theorem dueAll_part (l : List Nat) (s : State) : (dueAll l s).part = s.part := by
  unfold dueAll; induction l generalizing s with
  | nil => rfl
  | cons n l ih => exact (ih _).trans (becomeDue_part n s)

/-- A Restart has begun: no Collect waits, no offer is open, no frame of a transfer is sent and no notice waits (R166, R219). -/
def cleared (tag : Byte) (s : State) : State :=
  { s with
    part := { s.part with
      phase := some .restarting
      tally := some ⟨tag, 0, 0, 0, 0, s.collect.queue.length, s.collect.offers.length, s.collect.transfer.map Transfer.doc, 0, 0⟩ }
    collect := { s.collect with queue := [], offers := [], transfer := none }
    link := { s.link with
      intake := [], notices := [], holdNotices := true
      waiting := match s.collect.transfer with | none => s.link.waiting | some _ => none } }

/-- The same state with another transfer and another waiting frame. -/
def besides (tr : Option Transfer) (w : Option TransferFrame) (s : State) : State :=
  { s with collect := { s.collect with transfer := tr }, link := { s.link with waiting := w } }

theorem becomeDue_besides {s : State} (n : Nat) (tr : Option Transfer) (w : Option TransferFrame) (empty : s.collect.queue = []) :
    becomeDue n (besides tr w s) = besides tr w (becomeDue n s) := by
  show joinReady n (besides tr w (modDoc n (fun d => { d with disposition := .due }) s)) =
    besides tr w (joinReady n (modDoc n (fun d => { d with disposition := .due }) s))
  generalize hu : modDoc n (fun d => { d with disposition := .due }) s = u
  have emptyU : u.collect.queue = [] := by rw [← hu]; exact empty
  cases found : findDoc u n with
  | none =>
    have foundB : findDoc (besides tr w u) n = none := found
    unfold joinReady
    rw [found, foundB]
  | some d =>
    rw [joinReady_empty emptyU found, joinReady_empty (s := besides tr w u) emptyU found]
    have same : readyQueue (besides tr w u) d.dept = readyQueue u d.dept := rfl
    rw [same]
    split <;> rfl

theorem still_dueAll (l : List Nat) (s : State) (empty : s.collect.queue = []) : Still (fun _ => True) s (dueAll l s) :=
  still_foldl (fun _ n empty => (still_becomeDue n empty).mono (fun _ _ => trivial)) l s empty

theorem dueAll_besides (l : List Nat) (s : State) (tr : Option Transfer) (w : Option TransferFrame) (empty : s.collect.queue = []) :
    dueAll l (besides tr w s) = besides tr w (dueAll l s) := by
  induction l generalizing s with
  | nil => rfl
  | cons n l ih =>
    have next : (becomeDue n s).collect.queue = [] := by rw [(still_becomeDue n empty).collect]; exact empty
    show dueAll l (becomeDue n (besides tr w s)) = _
    rw [becomeDue_besides n tr w empty, ih _ next]; rfl

theorem restartCollect_eq (tag : Byte) (s : State) : restartCollect (restartLink tag s) = dueAll (returnedDocs s) (cleared tag s) := by
  have withdrawn (t : State) : s.collect.offers.foldl withdrawOffer t = dueAll (s.collect.offers.map (fun o => o.doc)) t := by
    unfold dueAll; rw [List.foldl_map]; rfl
  have start : modTally (fun t => { t with
      collectDropped := (restartLink tag s).collect.queue.length
      offersWithdrawn := (restartLink tag s).collect.offers.length
      transferStopped := (restartLink tag s).collect.transfer.map Transfer.doc })
      { restartLink tag s with collect.queue := [], collect.offers := [] } =
      besides s.collect.transfer s.link.waiting (cleared tag s) := rfl
  have offers : (restartLink tag s).collect.offers = s.collect.offers := rfl
  have course : restartCollect (restartLink tag s) = match s.collect.transfer with
      | none => besides none s.link.waiting (dueAll (s.collect.offers.map (fun o => o.doc)) (cleared tag s))
      | some tr =>
        if tr.ending = some .aborted then besides none none (dueAll (s.collect.offers.map (fun o => o.doc)) (cleared tag s))
        else becomeDue tr.doc (besides none none (dueAll (s.collect.offers.map (fun o => o.doc)) (cleared tag s))) := by
    unfold restartCollect
    dsimp only
    rw [start, offers, withdrawn, dueAll_besides _ _ _ _ rfl]
    generalize dueAll (s.collect.offers.map (fun o => o.doc)) (cleared tag s) = D
    generalize s.collect.transfer = tr
    cases tr <;> rfl
  rw [course, ← dueAll_besides _ _ _ _ rfl, ← dueAll_besides _ _ _ _ rfl]
  unfold returnedDocs
  cases h : s.collect.transfer with
  | none =>
    have same : besides none s.link.waiting (cleared tag s) = cleared tag s := by unfold besides cleared; rw [h]
    rw [same, List.append_nil]
  | some tr =>
    have same : besides none none (cleared tag s) = cleared tag s := by unfold besides cleared; rw [h]
    rw [same]
    dsimp only
    split
    · rw [List.append_nil]
    · unfold dueAll; rw [List.foldl_append]; rfl

/-! ## The lines -/

/-- A channel's restart effect on its line (R99). -/
def Line.restarted (run : Nat) (l : Line) : Line :=
  if l.chan = .alerted then l.releases run .reject
  else if inReceiving l = true ∨ inSending l = true then l.releases run .release
  else l

/-- A receiving call that Restart ends is on the line. -/
def Line.endsCall (l : Line) : Bool := l.chan != .alerted && inReceiving l

/-- An attempt that Restart releases is on the line. -/
def Line.endsAttempt (l : Line) : Bool := l.chan != .alerted && !inReceiving l && inSending l

/-- The figures of the Restart response raised. -/
def RestartTally.plus (ended landed rejected released : Nat) (y : RestartTally) : RestartTally :=
  { y with
    callsEnded := y.callsEnded + ended, documentsLanded := y.documentsLanded + landed
    callsRejected := y.callsRejected + rejected, attemptsReleased := y.attemptsReleased + released }

theorem RestartTally.plus_plus (a b c d a' b' c' d' : Nat) (o : Option RestartTally) :
    (o.map (plus a b c d)).map (plus a' b' c' d') = o.map (plus (a + a') (b + b') (c + c') (d + d')) := by
  cases o <;> simp [plus, Nat.add_assoc]

/-- The document of a receiving call that lands with a page, as the tally counts it. -/
def landsOf (s : State) (n : LineNo) : Nat :=
  if (lineAt s n).endsCall = true ∧ (callDocument s n).any (fun d => !d.pages.isEmpty) = true then 1 else 0

theorem receiving_not_alerted {l : Line} (h : inReceiving l = true) : l.chan ≠ .alerted := by
  intro e; unfold inReceiving at h; rw [e] at h; simp [receivingChan] at h

theorem endReceiving_lines {n : LineNo} {e : RxEnd} {s : State} {c : RxCall} (rx : rxOf (lineAt s n) = some c) :
    (endReceiving n e true s).lines = (releaseWith n .release s).lines := by
  unfold endReceiving
  rw [rx, if_pos rfl]
  dsimp only
  generalize releaseWith n .release s = u
  rw [mark_lines]
  cases c.calling <;> cases c.document <;> simp

theorem lineAt_releaseWith (n m : LineNo) (c : PortCommand) (s : State) :
    lineAt (releaseWith n c s) m = if m = n then (lineAt s n).releases s.clock.run c else lineAt s m := by
  rw [releaseWith_eq]
  split
  · rename_i h; rw [h, lineAt_modLine_self]
  · rename_i h; rw [lineAt_modLine_ne h]

theorem lineAt_restartLine (s : State) (n m : LineNo) :
    lineAt (restartLine s n) m = if m = n then (lineAt s n).restarted s.clock.run else lineAt s m := by
  unfold restartLine Line.restarted
  dsimp only
  by_cases alerted : (lineAt s n).chan = .alerted
  · rw [if_pos alerted, if_pos alerted]; exact lineAt_releaseWith n m .reject s
  by_cases call : inReceiving (lineAt s n) = true
  · have either : inReceiving (lineAt s n) = true ∨ inSending (lineAt s n) = true := .inl call
    obtain ⟨c, rx⟩ := Option.isSome_iff_exists.1 (Bool.and_eq_true _ _ ▸ call : _ ∧ _).1
    rw [if_neg alerted, if_neg alerted, if_pos call, if_pos either, ← lineAt_releaseWith]
    exact lineAt_of_lines (endReceiving_lines rx) m
  by_cases attempt : inSending (lineAt s n) = true
  · have either : inReceiving (lineAt s n) = true ∨ inSending (lineAt s n) = true := .inr attempt
    obtain ⟨c, tx⟩ := Option.isSome_iff_exists.1 (Bool.and_eq_true _ _ ▸ attempt : _ ∧ _).1
    rw [if_neg alerted, if_neg alerted, if_neg call, if_pos attempt, if_pos either, ← lineAt_releaseWith]
    unfold releaseAttempt; rw [tx]; rfl
  · rw [if_neg alerted, if_neg alerted, if_neg call, if_neg attempt, if_neg (not_or.2 ⟨call, attempt⟩)]
    split
    · rename_i h; rw [h]
    · rfl

/-- The number of the document that a line's receiving call has. -/
def CallOf (s : State) (n : LineNo) (m : Nat) : Prop := inReceiving (lineAt s n) = true ∧ (rxOf (lineAt s n)).bind RxCall.document = some m

theorem still_endReceiving {s : State} (n : LineNo) (e : RxEnd) (rel : Bool) (empty : s.collect.queue = []) :
    Still (fun m => (rxOf (lineAt s n)).bind RxCall.document = some m) s (endReceiving n e rel s) := by
  unfold endReceiving
  cases rx : rxOf (lineAt s n) with
  | none => exact .refl _ s
  | some c =>
    dsimp only
    have released : Still (fun m => c.document = some m) s (if rel then releaseWith n .release s else s) := by
      split
      · rw [releaseWith_eq]; exact still_modLine _ _ _
      · exact .refl _ s
    have ended : Still (fun m => c.document = some m) s (match c.document with
        | some d => endDocument d e.outcome (if rel then releaseWith n .release s else s)
        | none => (if rel then releaseWith n .release s else s)) := by
      cases h : c.document with
      | none => rw [h] at released; exact released
      | some d =>
        rw [h] at released
        exact released.trans ((still_endDocument d e.outcome (by rw [released.collect]; exact empty)).mono (fun m hm => by rw [hm]))
    have returned := ended.trans (still_releaseAllotment n _)
    refine Still.trans ?_ (still_mark _ _)
    split
    · exact returned.trans (still_handClass _ _ _)
    · exact returned

theorem still_restartLine {s : State} (n : LineNo) (empty : s.collect.queue = []) : Still (CallOf s n) s (restartLine s n) := by
  unfold restartLine
  dsimp only
  split
  · refine Still.trans ?_ (still_modTally _ _)
    refine Still.trans ?_ (still_mark _ _)
    rw [releaseWith_eq]; exact still_modLine _ _ _
  · split
    · rename_i call
      exact ((still_endReceiving n .restart true empty).mono (fun m hm => ⟨call, hm⟩)).trans (still_modTally _ _)
    · split
      · refine Still.trans ?_ (still_modTally _ _)
        unfold releaseAttempt
        split
        · exact .refl _ s
        · refine Still.trans (Still.trans ?_ (still_handClass _ _ _)) (still_mark _ _)
          rw [releaseWith_eq]; exact still_modLine _ _ _
      · exact .refl _ s

theorem restartLine_tally (s : State) (n : LineNo) : (restartLine s n).part.tally = s.part.tally.map (RestartTally.plus
    (if (lineAt s n).endsCall then 1 else 0) (landsOf s n) (if (lineAt s n).chan == .alerted then 1 else 0)
    (if (lineAt s n).endsAttempt then 1 else 0)) := by
  unfold restartLine landsOf
  dsimp only
  split
  · rename_i h
    simp only [Line.endsCall, Line.endsAttempt, h, bne_self_eq_false, Bool.false_and, Bool.false_eq_true, false_and, if_false, beq_self_eq_true,
      if_true]
    rfl
  · rename_i h
    have quiet : ((lineAt s n).chan == .alerted) = false := by simpa using h
    have open_ : ((lineAt s n).chan != .alerted) = true := by simpa using h
    split
    · rename_i call
      simp only [Line.endsCall, Line.endsAttempt, quiet, open_, call, Bool.not_true, Bool.and_false, Bool.false_and, Bool.false_eq_true,
        if_false, Bool.and_self, if_true, true_and]
      show (modTally _ (endReceiving n .restart true s)).part.tally = _
      unfold modTally
      rw [endReceiving_part]
      rfl
    · rename_i call
      have none : inReceiving (lineAt s n) = false := by simpa using call
      split
      · rename_i attempt
        simp only [Line.endsCall, Line.endsAttempt, quiet, open_, none, attempt, Bool.not_false, Bool.and_false, Bool.false_eq_true,
          if_false, Bool.and_self, if_true, false_and]
        show (modTally _ (releaseAttempt n s)).part.tally = _
        unfold modTally
        rw [releaseAttempt_part]
        rfl
      · rename_i attempt
        have idle : inSending (lineAt s n) = false := by simpa using attempt
        simp only [Line.endsCall, Line.endsAttempt, quiet, none, idle, Bool.and_false, Bool.false_eq_true, if_false, false_and]
        cases s.part.tally <;> simp [RestartTally.plus]

/-- What the lines' restart effects leave from any state (R99). -/
structure LinesEnded (s t : State) (ns : List LineNo) : Prop where
  still : Still (fun m => ∃ n ∈ ns, CallOf s n m) s t
  lines : ∀ m, lineAt t m = if m ∈ ns then (lineAt s m).restarted s.clock.run else lineAt s m
  tally : ∃ landed, t.part.tally = s.part.tally.map (RestartTally.plus (ns.filter (fun n => (lineAt s n).endsCall)).length landed
    (ns.filter (fun n => (lineAt s n).chan == .alerted)).length (ns.filter (fun n => (lineAt s n).endsAttempt)).length)

theorem linesEnded {s : State} (empty : s.collect.queue = []) {ns : List LineNo} (distinct : ns.Nodup) :
    LinesEnded s (ns.foldl restartLine s) ns := by
  induction ns generalizing s with
  | nil =>
    refine ⟨.refl _ s, fun m => by simp, 0, ?_⟩
    show s.part.tally = _
    cases s.part.tally <;> simp [RestartTally.plus]
  | cons n ns ih =>
    rw [List.nodup_cons] at distinct
    obtain ⟨new, distinct⟩ := distinct
    have first := still_restartLine n empty
    have line := lineAt_restartLine s n
    have count := restartLine_tally s n
    obtain ⟨still, lines, landed, tally⟩ := ih (s := restartLine s n) (by rw [first.collect]; exact empty) distinct
    rw [List.foldl_cons]
    generalize restartLine s n = u at *
    generalize ns.foldl restartLine u = t at *
    have other (m : LineNo) (hm : m ∈ ns) : lineAt u m = lineAt s m := by
      rw [line, if_neg (fun e : m = n => new (e ▸ hm))]
    have same (p : Line → Bool) : ns.filter (fun m => p (lineAt u m)) = ns.filter (fun m => p (lineAt s m)) :=
      List.filter_congr (fun m hm => by rw [other m hm])
    refine ⟨?_, fun m => ?_, landsOf s n + landed, ?_⟩
    · refine (first.mono (fun m hm => ⟨n, List.mem_cons_self, hm⟩)).trans (still.mono ?_)
      rintro m ⟨k, hk, h⟩
      refine ⟨k, List.mem_cons_of_mem _ hk, ?_⟩
      unfold CallOf at h ⊢
      rw [other k hk] at h; exact h
    · rw [lines, first.clock]
      by_cases hm : m ∈ ns
      · rw [if_pos hm, if_pos (List.mem_cons_of_mem _ hm), other m hm]
      · rw [if_neg hm, line]
        by_cases h : m = n
        · rw [if_pos h, h, if_pos List.mem_cons_self]
        · rw [if_neg h, if_neg (by rw [List.mem_cons]; rintro (k | k); exacts [h k, hm k])]
    · rw [tally, count, RestartTally.plus_plus, same Line.endsCall, same (fun l => l.chan == .alerted), same Line.endsAttempt]
      simp only [List.filter_cons]
      congr 2
      · split <;> simp; omega
      · split <;> simp; omega
      · split <;> simp; omega

end Sys2Proof.Machine
end

section
/-! The verifications that a Restart ends, and the parts of O38 that hold from any state. -/

namespace Sys2Proof.Machine

open Sys2Proof

/-! ## Verifications -/

/-- The records of some documents are verified no longer (R51). -/
def unverifyAll (ns : List Nat) (s : State) : State := ns.foldl (fun t n => modDoc n (fun d => { d with verifying := false }) t) s

/-- Deadlines of some documents that have passed are acted on (R44). -/
def purgeAllPassed (ns : List Nat) (s : State) : State := ns.foldl (fun t n => purgeIfPassed n t) s

/-- No verification is in progress, and the tally says how many ended (R51). -/
def verificationsDropped (s : State) : State :=
  modTally (fun t => { t with verificationsEnded := s.dir.verifications.length }) { s with dir.verifications := [] }

@[simp] theorem verificationsDropped_lines (s : State) : (verificationsDropped s).lines = s.lines := rfl

theorem restartVerifications_eq (s : State) : restartVerifications s =
    purgeAllPassed (s.dir.verifications.map Verification.doc) (unverifyAll (s.dir.verifications.map Verification.doc)
      (verificationsDropped s)) := by
  have counted : verificationsDropped s = modTally (fun t => { t with
      verificationsEnded := (s.dir.verifications.map Verification.doc).length }) { s with dir.verifications := [] } := by
    rw [List.length_map]; rfl
  rw [counted]; rfl

theorem findDoc_unverifyAll (ns : List Nat) (s : State) (m : Nat) :
    findDoc (unverifyAll ns s) m = (findDoc s m).map (fun d => { d with verifying := d.verifying && !decide (m ∈ ns) }) := by
  induction ns generalizing s with
  | nil => show findDoc s m = _; cases findDoc s m <;> simp
  | cons n ns ih =>
    show findDoc (unverifyAll ns (modDoc n (fun d => { d with verifying := false }) s)) m = _
    rw [ih, findDoc_modDoc n m (fun d => { d with verifying := false }) (fun _ => rfl)]
    cases findDoc s m <;> by_cases h : m = n <;> simp [h]

theorem still_unverifyAll (ns : List Nat) (s : State) : Still (fun _ => True) s (unverifyAll ns s) := by
  unfold unverifyAll
  induction ns generalizing s with
  | nil => exact .refl _ s
  | cons n ns ih =>
    exact ((still_modDoc n (fun d => { d with verifying := false }) (fun _ => rfl) s).mono (fun _ _ => trivial)).trans (ih _)

theorem still_purgeIfPassed (n : Nat) (s : State) : Still (· = n) s (purgeIfPassed n s) := by
  unfold purgeIfPassed
  split
  · exact .refl _ s
  · split
    · exact .refl _ s
    · split
      · exact still_purgeEvent n s
      · exact .refl _ s

theorem still_purgeAllPassed (ns : List Nat) (s : State) : Still (· ∈ ns) s (purgeAllPassed ns s) := by
  unfold purgeAllPassed
  induction ns generalizing s with
  | nil => exact .refl _ s
  | cons n ns ih =>
    exact ((still_purgeIfPassed n s).mono (fun m hm => by rw [hm]; exact List.mem_cons_self)).trans
      ((ih _).mono (fun m hm => List.mem_cons_of_mem _ hm))

@[simp] theorem unverifyAll_lines (ns : List Nat) (s : State) : (unverifyAll ns s).lines = s.lines := by
  unfold unverifyAll; induction ns generalizing s with
  | nil => rfl
  | cons n ns ih => exact ih _

@[simp] theorem unverifyAll_part (ns : List Nat) (s : State) : (unverifyAll ns s).part = s.part := by
  unfold unverifyAll; induction ns generalizing s with
  | nil => rfl
  | cons n ns ih => exact ih _

@[simp] theorem purgeAllPassed_lines (ns : List Nat) (s : State) : (purgeAllPassed ns s).lines = s.lines := by
  unfold purgeAllPassed; induction ns generalizing s with
  | nil => rfl
  | cons n ns ih => exact (ih _).trans (purgeIfPassed_lines n s)

@[simp] theorem purgeAllPassed_part (ns : List Nat) (s : State) : (purgeAllPassed ns s).part = s.part := by
  unfold purgeAllPassed; induction ns generalizing s with
  | nil => rfl
  | cons n ns ih => exact (ih _).trans (purgeIfPassed_part n s)

theorem purgeIfPassed_reclaim (n : Nat) (s : State) : (purgeIfPassed n s).dir.reclaim.Sublist s.dir.reclaim := by
  unfold purgeIfPassed
  split
  · exact .refl _
  · rename_i d found
    split
    · exact .refl _
    · split
      · rw [(purgeEvent_purged found).reclaim]; exact List.filter_sublist
      · exact .refl _

/-- A document is neither held nor listed for reclaim. -/
def Gone (s : State) (n : Nat) : Prop := findDoc s n = none ∧ n ∉ s.dir.reclaim

theorem gone_purgeAllPassed (ns : List Nat) {s : State} {n : Nat} (h : Gone s n) : Gone (purgeAllPassed ns s) n := by
  unfold purgeAllPassed
  induction ns generalizing s with
  | nil => exact h
  | cons m ns ih =>
    refine ih ⟨?_, fun k => h.2 ((purgeIfPassed_reclaim m s).subset k)⟩
    by_cases e : n = m
    · subst e
      show findDoc (purgeIfPassed n s) n = none
      unfold purgeIfPassed; rw [h.1]; exact h.1
    · rw [(still_purgeIfPassed m s).records n e]; exact h.1

/-- A SETTLED document whose deadline has passed and that nothing verifies goes (R44). -/
theorem purgeAllPassed_gone {ns : List Nat} {s : State} {n x : Nat} {d : Document} (listed : n ∈ ns) (found : findDoc s n = some d)
    (settled : d.life = .settled) (deadline : d.deadline = some x) (passed : x ≤ s.clock.run) (idle : d.verifying = false) :
    Gone (purgeAllPassed ns s) n := by
  induction ns generalizing s with
  | nil => cases listed
  | cons m ns ih =>
    by_cases e : n = m
    · subst e
      refine gone_purgeAllPassed ns ?_
      have purge : purgeIfPassed n s = purgeEvent n s := by
        unfold purgeIfPassed; rw [found]; dsimp only; rw [deadline]; exact if_pos ⟨settled, passed, idle⟩
      have purged := purgeEvent_purged found
      have number := findDoc_number found
      show Gone (purgeIfPassed n s) n
      rw [purge]
      refine ⟨?_, ?_⟩
      · unfold findDoc; rw [purged.docs, number, findDoc_dropped n n s _ rfl, if_pos rfl]
      · rw [purged.reclaim, number]; simp
    · have kept := still_purgeIfPassed m s
      exact ih ((List.mem_cons.1 listed).resolve_left e) ((kept.records n e).trans found) (by rw [kept.clock]; exact passed)

/-! ## Settled documents -/

/-- A record through a document's becoming DUE, with no Collect waiting (R37). -/
theorem findDoc_becomeDue {s : State} (n m : Nat) (empty : s.collect.queue = []) :
    findDoc (becomeDue n s) m = (findDoc s m).map (fun d => if m = n then { d with disposition := .due } else d) := by
  unfold becomeDue
  have record : findDoc (modDoc n (fun d => { d with disposition := .due }) s) m =
      (findDoc s m).map (fun d => if m = n then { d with disposition := .due } else d) := by
    rw [findDoc_modDoc n m (fun d => { d with disposition := .due }) (fun _ => rfl)]
    cases findDoc s m <;> by_cases h : m = n <;> simp [h]
  rw [← record, (still_joinReady (X := fun _ => False) n (by exact empty)).records m id]

theorem findDoc_dueAll (l : List Nat) {s : State} (m : Nat) (empty : s.collect.queue = []) :
    findDoc (dueAll l s) m = (findDoc s m).map (fun d => if m ∈ l then { d with disposition := .due } else d) := by
  induction l generalizing s with
  | nil => show findDoc s m = _; cases findDoc s m <;> simp
  | cons n l ih =>
    show findDoc (dueAll l (becomeDue n s)) m = _
    rw [ih (by rw [(still_becomeDue n empty).collect]; exact empty), findDoc_becomeDue n m empty]
    cases findDoc s m with
    | none => rfl
    | some d => by_cases h : m = n <;> by_cases k : m ∈ l <;> simp [h, k]

/-! ## The whole course -/

/-- The state that a Restart leaves (R225, R226). -/
def afterRestart (tag : Byte) (s : State) : State :=
  restartForwarding (restartVerifications (allLines.foldl restartLine (dueAll (returnedDocs s) (cleared tag s))))

theorem exec_restart {s : State} {r : Envelope} (h : TakesBare s r) : exec (.restart r) s = .next (afterRestart r.tag s) := by
  have arm : exec (.restart r) s = execRestart r s := rfl
  have link : restartLink r.tag (takeFrame r.tag s) = restartLink r.tag s := rfl
  rw [arm, execRestart, takeRequest_of_takesBare h .restart, link, restartCollect_eq]
  rfl

theorem allLines_nodup : allLines.Nodup := List.nodup_finRange 16

/-- What a Restart's stages leave from any state: u before the verifications end, v after. -/
theorem afterRestart_stages (tag : Byte) (s : State) : ∃ u v, LinesEnded (dueAll (returnedDocs s) (cleared tag s)) u allLines ∧
    Still (fun _ => True) (cleared tag s) u ∧ v = restartVerifications u ∧ Still (fun _ => True) (verificationsDropped u) v ∧
    afterRestart tag s = restartForwarding v ∧ v.lines = u.lines ∧ v.part.tally = (verificationsDropped u).part.tally := by
  have dues := still_dueAll (returnedDocs s) (cleared tag s) rfl
  have quiet : (dueAll (returnedDocs s) (cleared tag s)).collect.queue = [] := congrArg Collecting.queue dues.collect
  have ended := linesEnded quiet allLines_nodup
  refine ⟨allLines.foldl restartLine (dueAll (returnedDocs s) (cleared tag s)), _, ended, dues.trans (ended.still.mono (fun _ _ => trivial)), rfl, ?_, rfl, ?_, ?_⟩
  · rw [restartVerifications_eq]
    exact (still_unverifyAll _ _).trans ((still_purgeAllPassed _ _).mono (fun _ _ => trivial))
  · rw [restartVerifications_eq, purgeAllPassed_lines, unverifyAll_lines, verificationsDropped_lines]
  · rw [restartVerifications_eq, purgeAllPassed_part, unverifyAll_part]

end Sys2Proof.Machine
end

section
/-! What a Restart leaves from any state (O38). -/

namespace Sys2Proof.Machine

open Sys2Proof

/-- A job after Restart (R142). -/
def Job.interruptedAt (run : Nat) (j : Job) : Job :=
  { j with
    inCall := false, nextDue := if j.inCall then run else j.nextDue, line := if j.inCall then none else j.line
    interrupted := j.inCall || j.interrupted }

theorem Job.interruptedAt_eq (run : Nat) (j : Job) :
    (if j.inCall then { j with inCall := false, nextDue := run, line := none, interrupted := true } else j) = j.interruptedAt run := by
  obtain ⟨_, _, _, _, inCall, _, _, _, _, _⟩ := j
  cases inCall <;> rfl

theorem restartForwarding_eq (s : State) : restartForwarding s = mark .forward
    { s with fwd := { s.fwd with jobs := s.fwd.jobs.map (Job.interruptedAt s.clock.run), suspended := true, handed := [] } } := by
  unfold restartForwarding
  rw [funext (Job.interruptedAt_eq s.clock.run)]

/-- Whatever a Restart does, it does in these parts. -/
theorem afterRestart_frame (tag : Byte) (s : State) : afterRestart tag s = { cleared tag s with
    part := { (cleared tag s).part with tally := (afterRestart tag s).part.tally }, store := (afterRestart tag s).store
    mem := (afterRestart tag s).mem, dram := (afterRestart tag s).dram
    dir := { (afterRestart tag s).dir with verifications := [] }, lines := (afterRestart tag s).lines
    callers := { s.callers with handed := (afterRestart tag s).callers.handed }, fwd := (afterRestart tag s).fwd
    journal := (afterRestart tag s).journal, integrity := (afterRestart tag s).integrity
    link := { (cleared tag s).link with notices := (afterRestart tag s).link.notices } } := by
  obtain ⟨u, v, -, calls, -, verified, whole, -, -⟩ := afterRestart_stages tag s
  have before := calls.frame
  have after := verified.frame
  rw [whole]
  show mark _ _ = _
  unfold mark verificationsDropped modTally at *
  dsimp only at *
  rw [after, before]
  rfl

theorem afterRestart_lines (tag : Byte) (s : State) (n : LineNo) :
    lineAt (afterRestart tag s) n = (lineAt s n).restarted s.clock.run := by
  obtain ⟨u, v, ended, -, -, -, whole, lines, -⟩ := afterRestart_stages tag s
  have dues := still_dueAll (returnedDocs s) (cleared tag s) rfl
  have same (m : LineNo) : lineAt (dueAll (returnedDocs s) (cleared tag s)) m = lineAt s m := lineAt_of_lines (dueAll_lines _ _) m
  have own : (restartForwarding v).lines = u.lines := lines
  rw [whole, lineAt_of_lines own n, ended.lines n, if_pos (show n ∈ allLines from List.mem_finRange n), same, dues.clock]
  rfl

theorem afterRestart_tally (tag : Byte) (s : State) : ∃ landed, (afterRestart tag s).part.tally = some ⟨tag,
    (allLines.filter (fun n => (lineAt s n).endsCall)).length, landed, (allLines.filter (fun n => (lineAt s n).chan == .alerted)).length,
    (allLines.filter (fun n => (lineAt s n).endsAttempt)).length, s.collect.queue.length, s.collect.offers.length,
    s.collect.transfer.map Transfer.doc, s.dir.verifications.length, 0⟩ := by
  obtain ⟨u, v, ended, calls, -, -, whole, -, tally⟩ := afterRestart_stages tag s
  have dues := still_dueAll (returnedDocs s) (cleared tag s) rfl
  have same (m : LineNo) : lineAt (dueAll (returnedDocs s) (cleared tag s)) m = lineAt s m := lineAt_of_lines (dueAll_lines _ _) m
  obtain ⟨landed, counted⟩ := ended.tally
  have first : (dueAll (returnedDocs s) (cleared tag s)).part.tally = (cleared tag s).part.tally := by rw [dueAll_part]
  have verifications : u.dir.verifications = s.dir.verifications := calls.verifications
  refine ⟨landed, ?_⟩
  rw [whole]
  show v.part.tally = _
  rw [tally]
  show u.part.tally.map _ = _
  rw [counted, first, verifications]
  simp only [same]
  show some _ = some _
  simp [RestartTally.plus]

/-- A SETTLED document that a verification held past its deadline goes (R44, R51). -/
theorem afterRestart_gone {tag : Byte} {s : State} {v : Verification} {d : Document} {x : Nat} (listed : v ∈ s.dir.verifications)
    (found : findDoc s v.doc = some d) (settled : d.life = .settled) (deadline : d.deadline = some x) (passed : x ≤ s.clock.run)
    (apart : ∀ y ∈ callDocuments s, y.number ≠ v.doc) : Gone (afterRestart tag s) v.doc := by
  obtain ⟨u, w, ended, calls, rfl, -, whole, -, -⟩ := afterRestart_stages tag s
  have due := findDoc_dueAll (returnedDocs s) (s := cleared tag s) v.doc rfl
  have same (m : LineNo) : lineAt (dueAll (returnedDocs s) (cleared tag s)) m = lineAt s m := lineAt_of_lines (dueAll_lines _ _) m
  rw [show findDoc (cleared tag s) v.doc = some d from found, Option.map_some] at due
  have outside : ¬ ∃ n ∈ allLines, CallOf (dueAll (returnedDocs s) (cleared tag s)) n v.doc := by
    rintro ⟨n, hn, call, number⟩
    rw [same] at call number
    refine apart d (List.mem_filterMap.2 ⟨n, List.mem_filter.2 ⟨hn, call⟩, ?_⟩) (findDoc_number found)
    unfold callDocument; rw [number]; exact found
  have kept := ended.still.records v.doc outside
  rw [due] at kept
  have verifications : u.dir.verifications = s.dir.verifications := calls.verifications
  have clock : u.clock = s.clock := calls.clock
  have mine : v.doc ∈ u.dir.verifications.map Verification.doc := by
    rw [verifications]; exact List.mem_map_of_mem listed
  have idle := findDoc_unverifyAll (u.dir.verifications.map Verification.doc) (verificationsDropped u) v.doc
  rw [show findDoc (verificationsDropped u) v.doc = findDoc u v.doc from rfl, kept, Option.map_some] at idle
  have run := (still_unverifyAll (u.dir.verifications.map Verification.doc) (verificationsDropped u)).clock
  rw [whole]
  show Gone (restartVerifications u) v.doc
  rw [restartVerifications_eq]
  refine purgeAllPassed_gone mine idle (x := x) ?_ ?_ ?_ ?_
  · split <;> exact settled
  · split <;> exact deadline
  · rw [run]; show x ≤ u.clock.run; rw [clock]; exact passed
  · simp [mine]

theorem afterRestart_jobs (tag : Byte) (s : State) : (afterRestart tag s).fwd.suspended = true ∧ (afterRestart tag s).fwd.handed = [] ∧
    (∀ j ∈ (afterRestart tag s).fwd.jobs, j.inCall = false) ∧
    (∀ j ∈ s.fwd.jobs, j.interruptedAt s.clock.run ∈ (afterRestart tag s).fwd.jobs) ∧
    (s.link.classes.forward = true → Subject.forward ∈ (afterRestart tag s).link.notices) := by
  obtain ⟨u, v, -, calls, -, verified, whole, -, -⟩ := afterRestart_stages tag s
  have clock : v.clock = s.clock := verified.clock.trans calls.clock
  have classes : v.link.classes = s.link.classes := verified.classes.trans calls.classes
  rw [whole, restartForwarding_eq]
  refine ⟨rfl, rfl, fun j hj => ?_, fun j hj => ?_, fun enabled => ?_⟩
  · obtain ⟨k, -, rfl⟩ := List.mem_map.1 hj
    rfl
  · show _ ∈ v.fwd.jobs.map _
    rw [clock]
    exact List.mem_map_of_mem (verified.jobs j (calls.jobs j hj))
  · exact ((mark_marked .forward _).2 .forward).2 (.inr ⟨by show v.link.classes.forward = true; rw [classes]; exact enabled, rfl⟩)

theorem afterRestart_accounts (tag : Byte) (s : State) (d : Dept) :
    (acct (afterRestart tag s) d).settings = (acct s d).settings := by
  obtain ⟨u, v, -, calls, -, verified, whole, -, -⟩ := afterRestart_stages tag s
  rw [whole]
  exact (verified.accounts d).trans (calls.accounts d)

end Sys2Proof.Machine
end

section
/-! A document with room for its jobs enters OPEN while no Collect waits (R35). -/

namespace Sys2Proof.Machine

open Sys2Proof

/-! ## Jobs -/

/-- A job as it joins the list (R117, R118). -/
def Job.isNew (run : Nat) (j : Job) : Prop :=
  j.inCall = false ∧ j.attempts = 0 ∧ j.nextDue = run ∧ j.interrupted = false ∧ j.line = none

/-- What a job is for. -/
def Job.target (j : Job) : Nat × Nat × Text × Bool := (j.document, j.index, j.destination, j.urgent)

/-- New jobs stand behind the others. -/
structure JobsJoin (s t : State) (targets : List (Nat × Nat × Text × Bool)) (new : List Job) : Prop where
  jobs : t.fwd.jobs = s.fwd.jobs ++ new
  targets : new.map Job.target = targets
  fresh : ∀ j ∈ new, j.isNew s.clock.run
  frame : t.fwd = { s.fwd with
    jobs := t.fwd.jobs, nextJob := t.fwd.nextJob, runOwed := s.fwd.runOwed || decide (new ≠ []) }

theorem modDoc_modDoc (n : Nat) (f g : Document → Document) (number : ∀ d, (f d).number = d.number) (s : State) :
    modDoc n g (modDoc n f s) = modDoc n (fun d => g (f d)) s := by
  unfold modDoc
  dsimp only
  rw [List.map_map]
  congr 2
  refine List.map_congr_left fun d _ => ?_
  by_cases h : d.number = n <;> simp [h, number]

theorem modDoc_same (n : Nat) (s : State) : modDoc n (fun d => d) s = s := by
  unfold modDoc
  simp

/-- The forward entries and jobs of a plan (R35, step 3), with room for all. -/
theorem openForwards_room (n : Nat) (urgent : Bool) (i : Nat) (dests : List Text) (s : State)
    (room : s.fwd.jobs.length + dests.length ≤ maxJobs) : ∃ new,
      JobsJoin s (openForwards n urgent i dests s) ((dests.zipIdx i).map (fun x => (n, x.2, x.1, urgent))) new ∧
      openForwards n urgent i dests s = { modDoc n (fun e => { e with forwards := e.forwards ++ dests.map ForwardEntry.fresh }) s with
        fwd := (openForwards n urgent i dests s).fwd } := by
  induction dests generalizing i s with
  | nil =>
    refine ⟨[], ⟨(List.append_nil _).symm, rfl, by simp, by simp [openForwards]⟩, ?_⟩
    have same : modDoc n (fun e => { e with forwards := e.forwards ++ [].map ForwardEntry.fresh }) s = s := by
      have : (fun e : Document => { e with forwards := e.forwards ++ [].map ForwardEntry.fresh }) = fun d => d := by
        funext e; simp
      rw [this, modDoc_same]
    rw [same]; rfl
  | cons dest rest ih =>
    rw [List.length_cons] at room
    have made : createJob n i dest urgent (addForwardEntry n (ForwardEntry.fresh dest) s) =
        (addJob n i dest urgent (addForwardEntry n (ForwardEntry.fresh dest) s)).1 :=
      if_pos (show s.fwd.jobs.length < maxJobs by omega)
    have step : openForwards n urgent i (dest :: rest) s =
        openForwards n urgent (i + 1) rest (addJob n i dest urgent (addForwardEntry n (ForwardEntry.fresh dest) s)).1 := by
      rw [← made]; rfl
    obtain ⟨j, added⟩ : ∃ j, (addJob n i dest urgent (addForwardEntry n (ForwardEntry.fresh dest) s)).1 =
        { addForwardEntry n (ForwardEntry.fresh dest) s with
          fwd := { s.fwd with
            jobs := s.fwd.jobs ++ [⟨j, n, i, dest, false, 0, s.clock.run, urgent, false, none⟩]
            nextJob := nextJobNumber j, runOwed := true } } := ⟨_, rfl⟩
    rw [step, added]
    generalize hu : ({ addForwardEntry n (ForwardEntry.fresh dest) s with
      fwd := { s.fwd with
        jobs := s.fwd.jobs ++ [⟨j, n, i, dest, false, 0, s.clock.run, urgent, false, none⟩]
        nextJob := nextJobNumber j, runOwed := true } } : State) = u
    have jobsU : u.fwd.jobs = s.fwd.jobs ++ [⟨j, n, i, dest, false, 0, s.clock.run, urgent, false, none⟩] := by rw [← hu]
    have clock : u.clock = s.clock := by rw [← hu]; rfl
    obtain ⟨new, ⟨jobs, targets, fresh, frame⟩, whole⟩ := ih (i + 1) u (by rw [jobsU, List.length_append, List.length_singleton]; omega)
    refine ⟨⟨j, n, i, dest, false, 0, s.clock.run, urgent, false, none⟩ :: new, ⟨?_, ?_, ?_, ?_⟩, ?_⟩
    · rw [jobs, jobsU, List.append_assoc]; rfl
    · rw [List.map_cons, targets]; rfl
    · rw [clock] at fresh
      intro k hk
      rcases List.mem_cons.1 hk with rfl | hk
      · exact ⟨rfl, rfl, rfl, rfl, rfl⟩
      · exact fresh k hk
    · rw [frame, ← hu]; simp
    · rw [whole]
      generalize (openForwards n urgent (i + 1) rest u).fwd = fwd
      have both : modDoc n (fun e => { e with forwards := e.forwards ++ (dest :: rest).map ForwardEntry.fresh }) s =
          modDoc n (fun e => { e with forwards := e.forwards ++ rest.map ForwardEntry.fresh })
            (addForwardEntry n (ForwardEntry.fresh dest) s) := by
        unfold addForwardEntry
        rw [modDoc_modDoc n (fun e => { e with forwards := e.forwards ++ [ForwardEntry.fresh dest] })
          (fun e => { e with forwards := e.forwards ++ rest.map ForwardEntry.fresh }) (fun _ => rfl)]
        congr 1
        funext e
        simp
      rw [both, ← hu]
      rfl

/-! ## Opening -/

/-- A document that enters OPEN has a plan that is not empty, no entry yet and nothing due (R35, R57). -/
structure Opens (s : State) (d : Document) : Prop where
  quiet : s.collect.queue = []
  record : findDoc s d.number = some d
  plan : d.plan.collect = true ∨ d.plan.dests ≠ []
  unplanned : d.forwards = []
  undue : d.disposition = .none
  unqueued : d.number ∉ readyQueue s d.dept
  room : s.fwd.jobs.length + d.plan.dests.length ≤ maxJobs

/-- The record of a document that has entered OPEN (R35). -/
def Document.opened (d : Document) : Document :=
  { d with life := .opened, disposition := if d.plan.collect then .due else .none, forwards := planned d }

/-- The targets of the jobs of a plan (R35). -/
def planTargets (d : Document) : List (Nat × Nat × Text × Bool) :=
  d.plan.dests.zipIdx.map (fun x => (d.number, x.2, x.1, decide (d.priority = .urgent)))

/-- A document has entered OPEN (R35). -/
structure HasOpened (s t : State) (d : Document) (new : List Job) : Prop where
  record : findDoc t d.number = some d.opened
  others : OtherDocs s t d.number
  queues : ∀ e : Dept, readyQueue t e = if e = d.dept ∧ d.plan.collect = true then joinQueue s d (readyQueue s e) else readyQueue s e
  joins : JobsJoin s t (planTargets d) new
  marked : Marked s t (fun x => x = .department d.dept ∧ d.plan.collect = true)
  frame : t = { s with
    dir := { s.dir with docs := t.dir.docs, ready := t.dir.ready }, fwd := t.fwd, link := { s.link with notices := t.link.notices } }

theorem joinQueue_congr {s t : State} (urgent : ∀ m, isUrgent t m = isUrgent s m) (d : Document) (q : List Nat) :
    joinQueue t d q = joinQueue s d q := by
  unfold joinQueue; rw [funext urgent]

/-- A document with an entry PENDING, or on the way to a Collect, neither falls back nor settles (R40, R41). -/
theorem opened_stays {d : Document} (plan : d.plan.collect = true ∨ d.plan.dests ≠ []) :
    fallsBack d.opened = false ∧ settles d.opened = false := by
  have pending (h : d.plan.dests ≠ []) : d.opened.forwards.all ForwardEntry.isFinal = false := by
    obtain ⟨x, hx⟩ := List.exists_mem_of_ne_nil _ h
    exact List.all_eq_false.2 ⟨_, List.mem_map_of_mem hx, by simp [ForwardEntry.isFinal]⟩
  by_cases dests : d.plan.dests = []
  · have collect := plan.resolve_right (not_not.2 dests)
    simp [fallsBack, settles, Document.opened, planned, dests, collect]
  · simp [fallsBack, settles, pending dests]

theorem enterOpen_opened {s : State} {d : Document} (h : Opens s d) : ∃ new, HasOpened s (enterOpen d.number s) d new := by
  obtain ⟨quiet, record, plan, unplanned, undue, unqueued, room⟩ := h
  have course : enterOpen d.number s = settle d.number (fallback d.number (openForwards d.number (d.priority == .urgent) 0 d.plan.dests
      (if d.plan.collect then becomeDue d.number (modDoc d.number (fun e => { e with life := .opened }) s)
        else modDoc d.number (fun e => { e with life := .opened }) s))) := by
    unfold enterOpen; rw [record]
  have urgent : (d.priority == .urgent) = decide (d.priority = .urgent) := by cases d.priority <;> rfl
  generalize hu : (if d.plan.collect then becomeDue d.number (modDoc d.number (fun e => { e with life := .opened }) s)
    else modDoc d.number (fun e => { e with life := .opened }) s) = u at course
  have due : findDoc u d.number = some { d with life := .opened, disposition := if d.plan.collect then .due else .none } ∧
      OtherDocs s u d.number ∧
      (∀ e : Dept, readyQueue u e = if e = d.dept ∧ d.plan.collect = true then joinQueue s d (readyQueue s e) else readyQueue s e) ∧
      Marked s u (fun x => x = .department d.dept ∧ d.plan.collect = true) ∧
      u = { s with dir := { s.dir with docs := u.dir.docs, ready := u.dir.ready }, link := { s.link with notices := u.link.notices } } := by
    have opened := findDoc_modDoc_self (f := fun e => { e with life := .opened }) record (fun _ => rfl)
    have apart := modDoc_others d.number (fun e => { e with life := .opened }) (fun _ => rfl) s
    cases collect : d.plan.collect with
    | false =>
      rw [collect] at hu
      rw [← hu]
      refine ⟨?_, apart, fun e => ?_, (Marked.none rfl).congr (by simp), rfl⟩
      · simp only [Bool.false_eq_true, if_false] at opened ⊢; rw [opened, ← undue]
      · simp; rfl
    | true =>
      rw [collect, if_pos rfl] at hu
      unfold becomeDue at hu
      rw [modDoc_modDoc d.number (fun e => { e with life := .opened }) (fun e => { e with disposition := .due }) (fun _ => rfl)] at hu
      have found := findDoc_modDoc_self (f := fun e => { e with life := .opened, disposition := .due }) record (fun _ => rfl)
      have away := modDoc_others d.number (fun e => { e with life := .opened, disposition := .due }) (fun _ => rfl) s
      have urgency := isUrgent_modDoc d.number (fun e => { e with life := .opened, disposition := .due }) (fun _ => rfl) (fun _ => rfl) s
      have outside : (readyQueue (modDoc d.number (fun e => { e with life := .opened, disposition := .due }) s) d.dept).contains d.number =
          false := by
        show (readyQueue s d.dept).contains d.number = false
        simpa using unqueued
      have joined := joinQueue_congr urgency
      rw [joinReady_empty (by exact quiet) found] at hu
      dsimp only at hu
      rw [outside] at hu
      rw [← hu]
      refine ⟨found, away, fun e => ?_, ?_, rfl⟩
      · show readyQueue (setReady d.dept _ _) e = _
        rw [readyQueue_setReady]
        by_cases he : e = d.dept
        · rw [if_pos he, if_pos ⟨he, rfl⟩, he]; exact joined _ _
        · rw [if_neg he, if_neg (fun k => he k.1)]; rfl
      · exact ((mark_marked (.department d.dept) _).of_link rfl rfl rfl).congr (by simp)
  obtain ⟨found, away, queues, marked, frame⟩ := due
  have jobsU : u.fwd = s.fwd := by rw [frame]
  have clock : u.clock = s.clock := by rw [frame]
  obtain ⟨new, ⟨jobs, targets, fresh, fwd⟩, whole⟩ :=
    openForwards_room d.number (d.priority == .urgent) 0 d.plan.dests u (by rw [jobsU]; exact room)
  have opened : findDoc (openForwards d.number (d.priority == .urgent) 0 d.plan.dests u) d.number = some d.opened := by
    rw [whole]
    refine (findDoc_modDoc_self (f := fun e => { e with forwards := e.forwards ++ d.plan.dests.map ForwardEntry.fresh }) found
      (fun _ => rfl)).trans ?_
    unfold Document.opened planned
    dsimp only
    rw [unplanned, List.nil_append]
    rfl
  obtain ⟨noFall, noSettle⟩ := opened_stays plan
  rw [fallback_not opened noFall, settle_not opened noSettle] at course
  rw [course]
  have apart := modDoc_others d.number (fun e => { e with forwards := e.forwards ++ d.plan.dests.map ForwardEntry.fresh }) (fun _ => rfl) u
  generalize openForwards d.number (d.priority == .urgent) 0 d.plan.dests u = t at *
  have docs : t.dir = (modDoc d.number (fun e => { e with forwards := e.forwards ++ d.plan.dests.map ForwardEntry.fresh }) u).dir := by
    rw [whole]
  have link : t.link = u.link := by rw [whole]; rfl
  rw [jobsU] at jobs fwd
  rw [clock] at fresh
  refine ⟨new, opened, ?_, fun e => ?_, ⟨jobs, ?_, fresh, fwd⟩, ?_, ?_⟩
  · have later := apart.of_docs (u := t) (by rw [docs])
    exact ⟨fun m hm => (later.1 m hm).trans (away.1 m hm), later.2.trans away.2⟩
  · rw [← queues]; unfold readyQueue; rw [docs]; rfl
  · rw [targets, urgent]; rfl
  · exact marked.of_link rfl (by rw [link]) rfl
  · rw [whole]
    generalize t.fwd = f
    unfold modDoc
    rw [frame]

end Sys2Proof.Machine
end

section
/-! The document of a call that a Restart ends: it lands, or is gone when it has no page (R33, R34, R91). -/

namespace Sys2Proof.Machine

open Sys2Proof

/-! ## The landing page -/

/-- What giving a landing page's blocks back marks (R18, R21, R197, R198). -/
theorem freeLanding_marked (n : Nat) (s : State) : Marked s (freeLanding n s) (fun x =>
      (x = .integrity ∧ (freeLanding n s).store.retired ≠ s.store.retired) ∨
      (x = .store ∧ ((freeLanding n s).store.pressure ≠ s.store.pressure ∨
        (freeLanding n s).integrity.exhausted ≠ s.integrity.exhausted))) ∧
    (s.integrity.exhausted = true → (freeLanding n s).integrity.exhausted = true) := by
  have nothing (h : ∀ d, findDoc s n = some d → d.landing = none) : Marked s (freeLanding n s) (fun x =>
      (x = .integrity ∧ (freeLanding n s).store.retired ≠ s.store.retired) ∨
      (x = .store ∧ ((freeLanding n s).store.pressure ≠ s.store.pressure ∨
        (freeLanding n s).integrity.exhausted ≠ s.integrity.exhausted))) ∧
      (s.integrity.exhausted = true → (freeLanding n s).integrity.exhausted = true) := by
    rw [freeLanding_not h]; exact ⟨(Marked.none rfl).congr (by simp), id⟩
  cases found : findDoc s n with
  | none => exact nothing (fun d hd => by rw [found] at hd; cases hd)
  | some d =>
    cases landing : d.landing with
    | none => exact nothing (fun e he => by rw [found] at he; obtain rfl := Option.some.inj he; exact landing)
    | some l =>
      rw [freeLanding_eq found landing]
      have closed := closeGroup_frame l s
      generalize closeGroup l s = w at closed
      have link : w.link = s.link := by rw [closed]
      have store : w.store = s.store := by rw [closed]
      have whole : w.integrity = s.integrity := by rw [closed]
      obtain ⟨freed, exhausted⟩ := freeBlocks_marked d.dept l.blocks w
      have frame := freeBlocks_frame d.dept l.blocks w
      rw [store, whole] at freed
      rw [whole] at exhausted
      generalize freeBlocks d.dept l.blocks w = u at *
      have evaluated := evalPressure_marked (modDoc n (fun e => { e with landing := none }) u)
      have kept := evalPressure_frame (modDoc n (fun e => { e with landing := none }) u)
      have pressure : (modDoc n (fun e => { e with landing := none }) u).store.pressure = s.store.pressure := by
        show u.store.pressure = _; rw [frame, store]
      rw [pressure] at evaluated
      have retired : (evalPressure (modDoc n (fun e => { e with landing := none }) u)).store.retired = u.store.retired := by rw [kept]; rfl
      have same : (evalPressure (modDoc n (fun e => { e with landing := none }) u)).integrity = u.integrity := by rw [kept]; rfl
      rw [retired, same]
      have first : Marked s (modDoc n (fun e => { e with landing := none }) u) _ := freed.of_link (by rw [link]) rfl (by rw [link])
      refine ⟨(first.trans evaluated (by show u.link.classes = _; rw [frame, link])).congr fun x => ?_, exhausted⟩
      tauto

/-! ## The receipt -/

/-- A landing document's record is completed and its receipt appended (R33), before it is HELD or OPEN. -/
def recorded (d : Document) (o : ReceiptOutcome) (s : State) : State :=
  let noted := modDoc d.number (fun e => { e with
    completionTime := some s.clock.cal, digest := some (crc32Final e.crc), outcome := some o, partialFlag := isPartial o }) s
  modDoc d.number (fun e => { e with receiptSeq := (append (.receipt (receiptOf d o)) noted).2 }) (append (.receipt (receiptOf d o)) noted).1

theorem landDocument_eq {s : State} {d e : Document} {o : ReceiptOutcome} (found : findDoc (freeLanding d.number s) d.number = some e) :
    landDocument d.number o s = mark (.department e.dept) (if e.plan.hold then
      modDoc d.number (fun x => { x with life := .held }) (recorded e o (freeLanding d.number s))
      else enterOpen d.number (recorded e o (freeLanding d.number s))) := by
  have number := findDoc_number found
  unfold landDocument recorded
  dsimp only
  rw [found, number]

theorem isPartial_iff (o : ReceiptOutcome) : isPartial o = decide (o ≠ .complete ∧ o ≠ .continued) := by cases o <;> rfl

theorem receiptOf_eq (d : Document) (o : ReceiptOutcome) : JournalContent.receipt (receiptOf { d with landing := none } o) = receiptFor d o := by
  unfold receiptOf receiptFor
  cases d.pages <;> rfl

/-- A receipt has been appended for a document, whose record is then e. -/
structure Recorded (s t : State) (d e : Document) (o : ReceiptOutcome) : Prop where
  record : findDoc t d.number = some e
  others : OtherDocs s t d.number
  urgent : ∀ m, isUrgent t m = isUrgent s m
  journal : t.journal = s.journal.offered (receiptFor d o) s.clock.cal s.clock.trusted
  marked : Marked s t (fun x => x = .journal ∧ (s.journal.unreleased = 8127 ∨ 8192 ≤ s.journal.unreleased))
  frame : t = { s with
    dir := { s.dir with docs := t.dir.docs }, journal := t.journal, link := { s.link with notices := t.link.notices } }

theorem recorded_recorded {s : State} {d : Document} {o : ReceiptOutcome} (found : findDoc s d.number = some { d with landing := none }) :
    Recorded s (recorded { d with landing := none } o s) d (landedAs s d o) o := by
  unfold recorded
  dsimp only
  rw [receiptOf_eq]
  generalize hf : (fun e : Document => { e with
    completionTime := some s.clock.cal, digest := some (crc32Final e.crc), outcome := some o, partialFlag := isPartial o }) = f
  have number (e : Document) : (f e).number = e.number := by rw [← hf]
  have priority (e : Document) : (f e).priority = e.priority := by rw [← hf]
  have noted := findDoc_modDoc_self (f := f) found number
  have apart := modDoc_others d.number f number s
  have urgent := isUrgent_modDoc d.number f number priority s
  generalize hu : modDoc d.number f s = u at *
  have journal : u.journal = s.journal := by rw [← hu]; rfl
  have clock : u.clock = s.clock := by rw [← hu]; rfl
  have link : u.link = s.link := by rw [← hu]; rfl
  have seq := append_seq (receiptFor d o) u
  have marks := append_marked (receiptFor d o) u
  have frame := append_frame (receiptFor d o) u
  generalize append (receiptFor d o) u = p at *
  obtain ⟨v, seq'⟩ := p
  dsimp only at *
  have docs : v.dir = u.dir := by rw [frame]
  have last := modDoc_others d.number (fun e => { e with receiptSeq := seq' }) (fun _ => rfl) v
  have middle : OtherDocs s v d.number := apart.of_docs (by rw [docs])
  rw [journal] at seq marks
  refine ⟨?_, ⟨fun m hm => (last.1 m hm).trans (middle.1 m hm), last.2.trans middle.2⟩, fun m => ?_, ?_, ?_, ?_⟩
  · refine (findDoc_modDoc_self (f := fun e => { e with receiptSeq := seq' }) ((findDoc_dir (by rw [docs]) _).trans noted)
      (fun _ => rfl)).trans ?_
    rw [← hf, seq]
    unfold landedAs
    rw [← isPartial_iff]
    rfl
  · rw [isUrgent_modDoc d.number (fun e => { e with receiptSeq := seq' }) (fun _ => rfl) (fun _ => rfl) v, ← urgent]
    unfold isUrgent; rw [findDoc_dir (s := u) (congrArg Directory.docs docs) m]
  · show v.journal = _
    rw [frame, journal, clock]
  · exact marks.of_link (by rw [link]) rfl (by rw [link])
  · unfold modDoc
    rw [frame, ← hu]
    rfl

/-! ## The end of the document -/

/-- A document that lands joins its ready queue (R35, R37). -/
def Document.joinsQueue (d : Document) : Bool := !d.pages.isEmpty && !d.plan.hold && d.plan.collect

/-- The targets of the jobs that a document's landing makes (R35). -/
def landingTargets (d : Document) : List (Nat × Nat × Text × Bool) := if d.pages = [] ∨ d.plan.hold = true then [] else planTargets d

/-- The record of a document that has landed at Restart (R33, R35). -/
def landedRecord (s : State) (d : Document) : Document :=
  if d.plan.hold then { landedAs s d .partialRestart with life := .held } else (landedAs s d .partialRestart).opened

/-- The document of a call fits a Restart: what RestartFits says of it, with its jobs' room. -/
structure DocFits (s : State) (d : Document) : Prop where
  quiet : s.collect.queue = []
  record : findDoc s d.number = some d
  plan : d.plan.hold = false → (d.plan.collect = true ∨ d.plan.dests ≠ []) ∧ d.forwards = [] ∧ d.disposition = .none ∧
    s.fwd.jobs.length + d.plan.dests.length ≤ 256
  unqueued : ∀ e : Dept, d.number ∉ readyQueue s e

/-- The document of a call that Restart ends has ended (R33, R34). -/
structure DocEnded (s t : State) (d : Document) (new : List Job) : Prop where
  journal : t.journal = s.journal.offered (receiptFor d .partialRestart) s.clock.cal s.clock.trusted
  numbers : t.dir.docs.map (fun e => e.number) =
    (s.dir.docs.map (fun e => e.number)).filter (fun m => decide (d.pages = [] → d.number ≠ m))
  landed : d.pages ≠ [] → findDoc t d.number = some (landedRecord s d)
  others : ∀ m, m ≠ d.number → findDoc t m = findDoc s m
  queues : ∀ e : Dept, readyQueue t e = if e = d.dept ∧ d.joinsQueue = true then joinQueue s d (readyQueue s e) else readyQueue s e
  joins : JobsJoin s t (landingTargets d) new
  store : t.store = (freeLanding d.number s).store ∧ t.mem = (freeLanding d.number s).mem ∧ t.dram = (freeLanding d.number s).dram ∧
    t.integrity = (freeLanding d.number s).integrity
  marked : Marked (freeLanding d.number s) t (fun x => (x = .journal ∧ (s.journal.unreleased = 8127 ∨ 8192 ≤ s.journal.unreleased)) ∨
    (x = .department d.dept ∧ d.pages ≠ []))
  frame : t = { freeLanding d.number s with
    dir := { s.dir with docs := t.dir.docs, ready := t.dir.ready }, fwd := t.fwd, journal := t.journal
    link := { s.link with notices := t.link.notices } }

theorem JobsJoin.none {s t : State} (fwd : t.fwd = s.fwd) : JobsJoin s t [] [] :=
  ⟨by rw [fwd, List.append_nil], rfl, by simp, by rw [fwd]; simp⟩

theorem dropEmpty_ended {s : State} {d : Document} (h : DocFits s d) (empty : d.pages = []) :
    DocEnded s (dropEmpty d.number .partialRestart s) d [] := by
  obtain ⟨-, record, -, -⟩ := h
  have freed := findDoc_freeLanding record
  have apart := (freeLanding_others record).1
  have frame := freeLanding_frame d.number s
  unfold dropEmpty
  dsimp only
  rw [freed]
  dsimp only
  rw [receiptOf_eq]
  generalize hu : freeLanding d.number s = u at *
  have journal : u.journal = s.journal := by rw [frame]
  have clock : u.clock = s.clock := by rw [frame]
  have link : u.link = { s.link with notices := u.link.notices } := by rw [frame]
  have ready : u.dir = { s.dir with docs := u.dir.docs } := by rw [frame]
  have fwd : u.fwd = s.fwd := by rw [frame]
  have marks := append_marked (receiptFor d .partialRestart) (dropDoc d.number u)
  have appended := append_frame (receiptFor d .partialRestart) (dropDoc d.number u)
  rw [show (dropDoc d.number u).journal = s.journal from journal] at marks
  generalize (append (receiptFor d .partialRestart) (dropDoc d.number u)).1 = t at marks appended ⊢
  have docs : t.dir.docs = u.dir.docs.filter (fun e => decide (e.number ≠ d.number)) := by rw [appended]; rfl
  have keeps : (fun m => decide (d.pages = [] → d.number ≠ m)) = fun m => decide (m ≠ d.number) := by
    funext m; simp [empty, eq_comm]
  refine ⟨?_, ?_, fun k => absurd empty k, fun m hm => ?_, fun e => ?_, ?_, ?_, ?_, ?_⟩
  · rw [appended]
    show (dropDoc d.number u).journal.offered _ u.clock.cal u.clock.trusted = _
    rw [show (dropDoc d.number u).journal = s.journal from journal, clock]
  · rw [docs, keeps, ← apart.2, List.filter_map]; rfl
  · refine Eq.trans ?_ (apart.1 m hm)
    unfold findDoc; rw [docs, findDoc_dropped d.number m u _ rfl, if_neg hm]; rfl
  · have not : d.joinsQueue = false := by unfold Document.joinsQueue; rw [empty]; rfl
    rw [not]
    simp only [Bool.false_eq_true, and_false, if_false]
    unfold readyQueue
    rw [appended]
    show u.dir.ready[e] = _
    rw [ready]
  · unfold landingTargets
    rw [if_pos (.inl empty)]
    exact .none (by rw [appended]; exact fwd)
  · rw [hu, appended]; exact ⟨rfl, rfl, rfl, rfl⟩
  · rw [hu]
    exact (marks.of_link rfl rfl rfl).congr (by simp [empty])
  · rw [hu, appended]
    unfold dropDoc
    dsimp only
    rw [ready, link]

theorem landDocument_ended {s : State} {d : Document} (h : DocFits s d) (full : d.pages ≠ []) :
    ∃ new, DocEnded s (landDocument d.number .partialRestart s) d new := by
  obtain ⟨quiet, record, plan, unqueued⟩ := h
  have freed := findDoc_freeLanding record
  have apart := (freeLanding_others record).1
  have frame := freeLanding_frame d.number s
  have urgency (m : Nat) : isUrgent (freeLanding d.number s) m = isUrgent s m := by
    by_cases hm : m = d.number
    · rw [hm]; unfold isUrgent; rw [freed, record]
    · unfold isUrgent; rw [apart.1 m hm]
  rw [landDocument_eq freed]
  generalize hu : freeLanding d.number s = u at *
  have journal : u.journal = s.journal := by rw [frame]
  have clock : u.clock = s.clock := by rw [frame]
  have collect : u.collect = s.collect := by rw [frame]
  have link : u.link = { s.link with notices := u.link.notices } := by rw [frame]
  have ready : u.dir = { s.dir with docs := u.dir.docs } := by rw [frame]
  have fwd : u.fwd = s.fwd := by rw [frame]
  obtain ⟨record1, others1, urgent1, journal1, marked1, frame1⟩ := recorded_recorded (o := .partialRestart) freed
  have shut : landedAs u d .partialRestart = landedAs s d .partialRestart := by unfold landedAs; rw [journal, clock]
  rw [shut] at record1
  rw [journal] at marked1
  rw [journal, clock] at journal1
  generalize recorded { d with landing := none } .partialRestart u = w at *
  have queue (e : Dept) : readyQueue w e = readyQueue s e := by
    unfold readyQueue; rw [frame1]; show u.dir.ready[e] = _; rw [ready]
  have fwd1 : w.fwd = s.fwd := by rw [frame1, ← fwd]
  have clock1 : w.clock = s.clock := by rw [frame1, ← clock]
  have keeps : (fun m => decide (d.pages = [] → d.number ≠ m)) = fun _ => true := by funext m; simp [full]
  have numbers1 : w.dir.docs.map (fun e => e.number) =
      (s.dir.docs.map (fun e => e.number)).filter (fun m => decide (d.pages = [] → d.number ≠ m)) := by
    rw [keeps, List.filter_true, others1.2, apart.2]
  have classes1 : w.link.classes = u.link.classes := by rw [frame1]
  cases hold : d.plan.hold with
  | true =>
    have held := findDoc_modDoc_self (f := fun e => { e with life := .held }) record1 (fun _ => rfl)
    have others2 := modDoc_others d.number (fun e => { e with life := .held }) (fun _ => rfl) w
    rw [if_pos rfl]
    refine ⟨[], ?_⟩
    refine ⟨journal1, others2.2.trans numbers1, fun _ => ?_, fun m hm => (others2.1 m hm).trans ((others1.1 m hm).trans (apart.1 m hm)),
      fun e => ?_, ?_, ?_, ?_, ?_⟩
    · unfold landedRecord; rw [hold, if_pos rfl]; exact held
    · have not : d.joinsQueue = false := by unfold Document.joinsQueue; rw [hold]; simp
      rw [not]
      simp only [Bool.false_eq_true, and_false, if_false]
      exact queue e
    · unfold landingTargets
      rw [if_pos (.inr hold)]
      exact .none fwd1
    · rw [hu]; show w.store = _ ∧ w.mem = _ ∧ w.dram = _ ∧ w.integrity = _; rw [frame1]; exact ⟨rfl, rfl, rfl, rfl⟩
    · rw [hu]
      have last := mark_marked (.department d.dept) (modDoc d.number (fun e => { e with life := .held }) w)
      exact ((marked1.of_link rfl rfl rfl).trans last (by exact classes1)).congr (by simp [full])
    · rw [hu]
      unfold mark modDoc
      rw [frame1]
      dsimp only
      rw [ready, link]
  | false =>
    obtain ⟨some_plan, unplanned, undue, room⟩ := plan hold
    rw [if_neg (by simp)]
    obtain ⟨new, record2, others2, queues2, joins2, marked2, frame2⟩ := enterOpen_opened (s := w) (d := landedAs s d .partialRestart)
      ⟨by rw [frame1]; show u.collect.queue = []; rw [collect]; exact quiet, record1, some_plan, unplanned, undue,
        by rw [queue]; exact unqueued _, by rw [fwd1]; exact room⟩
    have number : (landedAs s d .partialRestart).number = d.number := rfl
    rw [number] at record2 others2 queues2 frame2 joins2 marked2
    generalize enterOpen d.number w = t at *
    have joins : (e : Dept) → readyQueue t e = if e = d.dept ∧ d.joinsQueue = true then joinQueue s d (readyQueue s e) else readyQueue s e := by
      intro e
      have same : d.joinsQueue = d.plan.collect := by
        unfold Document.joinsQueue; rw [hold, List.isEmpty_eq_false_iff.2 full]; rfl
      rw [queues2, queue, same]
      have urgent (m : Nat) : isUrgent w m = isUrgent s m := (urgent1 m).trans (urgency m)
      have queued : joinQueue w (landedAs s d .partialRestart) (readyQueue s e) = joinQueue s d (readyQueue s e) :=
        joinQueue_congr urgent (landedAs s d .partialRestart) _
      rw [queued]; rfl
    obtain ⟨jobs, targets, fresh, fwd2⟩ := joins2
    rw [fwd1] at jobs fwd2
    rw [clock1] at fresh
    refine ⟨new, ?_⟩
    refine ⟨?_, others2.2.trans numbers1, fun _ => ?_, fun m hm => (others2.1 m hm).trans ((others1.1 m hm).trans (apart.1 m hm)),
      joins, ⟨jobs, ?_, fresh, fwd2⟩, ?_, ?_, ?_⟩
    · show t.journal = _
      rw [frame2]; exact journal1
    · unfold landedRecord; rw [hold, if_neg (by simp)]; exact record2
    · unfold landingTargets
      rw [if_neg (by rintro (k | k); exacts [full k, by rw [hold] at k; cases k]), targets]; rfl
    · rw [hu]; show t.store = _ ∧ t.mem = _ ∧ t.dram = _ ∧ t.integrity = _; rw [frame2, frame1]; exact ⟨rfl, rfl, rfl, rfl⟩
    · rw [hu]
      have last := mark_marked (.department d.dept) t
      have both := marked1.trans marked2 classes1
      refine (both.trans last (by rw [frame2]; exact classes1)).congr fun x => ?_
      constructor
      · rintro ((h | ⟨rfl, -⟩) | rfl)
        · exact .inl h
        · exact .inr ⟨rfl, full⟩
        · exact .inr ⟨rfl, full⟩
      · rintro (h | ⟨rfl, -⟩)
        · exact .inl (.inl h)
        · exact .inr rfl
    · rw [hu]
      unfold mark
      dsimp only
      generalize t.link.notices = ns at *
      rw [frame2, frame1]
      dsimp only
      rw [ready, link]

theorem endDocument_ended {s : State} {d : Document} (h : DocFits s d) :
    ∃ new, DocEnded s (endDocument d.number .partialRestart s) d new := by
  unfold endDocument
  rw [h.record]
  dsimp only
  split
  · rename_i empty
    exact ⟨[], dropEmpty_ended h (by simpa using empty)⟩
  · rename_i full
    exact landDocument_ended h (by simpa using full)

end Sys2Proof.Machine
end

section
/-! The store after a call that a Restart ends: the landing page and the allotment are given back (R18, R19, R21). -/

namespace Sys2Proof.Machine

open Sys2Proof

/-! ## Pressure under a lighter load -/

/-- No account holds more than it did. -/
def Lighter (s t : State) : Prop := ∀ e : Dept,
  acct t e = { acct s e with used := (acct t e).used, resv := (acct t e).resv } ∧
    (acct t e).used ≤ (acct s e).used ∧ (acct t e).resv ≤ (acct s e).resv

theorem Lighter.trans {s t u : State} (h : Lighter s t) (k : Lighter t u) : Lighter s u := fun e => by
  obtain ⟨same, used, resv⟩ := h e
  obtain ⟨same', used', resv'⟩ := k e
  exact ⟨by rw [same', same], used'.trans used, resv'.trans resv⟩

theorem Lighter.pool {s t : State} (h : Lighter s t) : sharedPool t = sharedPool s := by
  unfold sharedPool guarantees
  rw [sumAccounts_eq, sumAccounts_eq]
  congr 3
  funext e
  rw [(h e).1]

theorem Lighter.committed {s t : State} (h : Lighter s t) : sharedCommitted t ≤ sharedCommitted s := by
  unfold sharedCommitted
  rw [sumAccounts_eq, sumAccounts_eq]
  refine List.sum_le_sum (fun e _ => ?_)
  obtain ⟨same, used, resv⟩ := h e
  have guarantee : (acct t e).guarantee = (acct s e).guarantee := by rw [same]
  unfold Account.borrow Account.committed
  omega

theorem pLeave_le_pEnter (s : State) : pLeave s ≤ pEnter s := by unfold pLeave pEnter; omega

/-- The pressure state is the one an evaluation gives (R21). -/
def Steady (s : State) : Prop := s.store.pressure = pressureAfter s.store.pressure s

theorem Steady.off {s t : State} (h : Steady s) (l : Lighter s t) (off : s.store.pressure = false) : sharedCommitted t < pEnter t := by
  unfold Steady at h
  rw [off] at h
  have low : ¬ pEnter s ≤ sharedCommitted s := of_decide_eq_false h.symm
  have committed := l.committed
  have enter : pEnter t = pEnter s := by unfold pEnter; rw [l.pool]
  omega

/-- Two evaluations under a load that falls are as one (R21). -/
theorem Steady.twice {s t u : State} (h : Steady s) (l : Lighter s t) (k : Lighter t u) :
    pressureAfter (pressureAfter s.store.pressure t) u = pressureAfter s.store.pressure u := by
  have committed := k.committed
  have order := pLeave_le_pEnter u
  have leave : pLeave t = pLeave u := by unfold pLeave; rw [k.pool]
  have off := h.off l
  cases was : s.store.pressure with
  | false =>
    have low := off was
    have same : pressureAfter false t = false := by simp [pressureAfter]; omega
    rw [same]
  | true =>
    by_cases high : pLeave t ≤ sharedCommitted t
    · have same : pressureAfter true t = true := by simpa [pressureAfter] using high
      rw [same]
    · have same : pressureAfter true t = false := by simp [pressureAfter]; omega
      have low : ¬ pEnter u ≤ sharedCommitted u := by omega
      have low' : ¬ pLeave u ≤ sharedCommitted u := by omega
      rw [same]
      simp [pressureAfter, low, low']

/-- Under a load that falls the pressure state is not entered (R21). -/
theorem Steady.falls {s t : State} (h : Steady s) (l : Lighter s t) (on : pressureAfter s.store.pressure t = true) :
    s.store.pressure = true := by
  by_contra off
  have off := Bool.eq_false_iff.2 off
  have low := h.off l off
  rw [off] at on
  have high : pEnter t ≤ sharedCommitted t := of_decide_eq_true on
  omega

/-- An evaluation leaves a steady state. -/
theorem Steady.after {s t : State} (pressure : t.store.pressure = pressureAfter s.store.pressure t) : Steady t := by
  unfold Steady
  rw [pressure]
  have order := pLeave_le_pEnter t
  cases s.store.pressure
  · by_cases high : pEnter t ≤ sharedCommitted t
    · have still : pLeave t ≤ sharedCommitted t := by omega
      simp [pressureAfter, high, still]
    · simp [pressureAfter, high]
  · by_cases high : pLeave t ≤ sharedCommitted t
    · simp [pressureAfter, high]
    · have low : ¬ pEnter t ≤ sharedCommitted t := by omega
      simp [pressureAfter, high, low]

/-! ## Landing page and allotment -/

/-- The blocks of a document's landing page. -/
def landingSize (d : Document) : Nat := d.landing.elim 0 (fun l => l.blocks.length)

/-- The landing page's blocks and the line's allotment are given back (R18, R19). -/
structure GivenBack (s t : State) (n : LineNo) (d : Document) (Q : Subject → Prop) : Prop where
  accounts : ∀ e : Dept, acct t e = { acct s e with
    used := (acct s e).used - (if d.dept = e then landingSize d else 0)
    resv := (acct s e).resv - (if (allotment s n).dept = some e then (allotment s n).count else 0) }
  allotments : ∀ m : LineNo, allotment t m = if m = n then ⟨none, 0⟩ else allotment s m
  free : s.store.free <+: t.store.free ∧ t.store.free.length = s.store.free.length + landingSize d
  spares : t.store.spares <:+ s.store.spares ∧ s.store.retired <+: t.store.retired ∧
    t.store.spares.length + t.store.retired.length = s.store.spares.length + s.store.retired.length
  pressure : t.store.pressure = pressureAfter s.store.pressure t
  exhausted : s.integrity.exhausted = true → t.integrity.exhausted = true
  marked : Marked s t (fun x => Q x ∨ (x = .integrity ∧ t.store.retired ≠ s.store.retired) ∨
    (x = .store ∧ (t.store.pressure ≠ s.store.pressure ∨ t.integrity.exhausted ≠ s.integrity.exhausted)))

theorem GivenBack.lighter {s t : State} {n : LineNo} {d : Document} {Q : Subject → Prop} (h : GivenBack s t n d Q) : Lighter s t := fun e => by
  rw [h.accounts e]; exact ⟨rfl, Nat.sub_le _ _, Nat.sub_le _ _⟩

/-- A flag that only falls has changed in one of two steps. -/
theorem two_changes {a b c : Bool} (h : b = true → a = true) (k : c = true → b = true) : c ≠ a ↔ b ≠ a ∨ c ≠ b := by
  cases a <;> cases b <;> cases c <;> simp_all

theorem marks_join {Q I S R E P P₁ P₂ : Prop} (moved : P ↔ P₁ ∨ P₂) :
    (((I ∧ R) ∨ (S ∧ (P₁ ∨ E))) ∨ Q) ∨ (S ∧ P₂) ↔ Q ∨ (I ∧ R) ∨ (S ∧ (P ∨ E)) := by
  rw [moved]; tauto

/-- What the landing page gives back. -/
structure PageFreed (s t : State) (d : Document) : Prop where
  accounts : ∀ e : Dept, acct t e = { acct s e with used := (acct s e).used - (if d.dept = e then landingSize d else 0) }
  allotments : t.store.allotments = s.store.allotments
  free : s.store.free <+: t.store.free ∧ t.store.free.length = s.store.free.length + landingSize d
  spares : t.store.spares <:+ s.store.spares ∧ s.store.retired <+: t.store.retired ∧
    t.store.spares.length + t.store.retired.length = s.store.spares.length + s.store.retired.length
  pressure : t.store.pressure = s.store.pressure ∨ t.store.pressure = pressureAfter s.store.pressure t

theorem freeLanding_freed {s : State} {d : Document} (found : findDoc s d.number = some d) : PageFreed s (freeLanding d.number s) d := by
  cases landing : d.landing with
  | none =>
    have size : landingSize d = 0 := by unfold landingSize; rw [landing]; rfl
    rw [freeLanding_none found landing]
    exact ⟨fun e => by rw [size]; simp, rfl, by rw [size]; exact ⟨List.prefix_refl _, rfl⟩,
      ⟨List.suffix_refl _, List.prefix_refl _, rfl⟩, .inl rfl⟩
  | some l =>
    have size : landingSize d = l.blocks.length := by unfold landingSize; rw [landing]; rfl
    obtain ⟨⟨-, ⟨free, grows⟩, spares, pressure⟩, account, accounts, allotments, -, -⟩ := landingFreed found landing
    refine ⟨fun e => ?_, allotments, ⟨grows, by rw [size]; exact free⟩, spares, .inr pressure⟩
    by_cases he : d.dept = e
    · rw [if_pos he, ← he, account, size]
    · rw [if_neg he, accounts e (Ne.symm he)]; rfl

theorem releaseAllotment_frame (n : LineNo) (s : State) : releaseAllotment n s = { s with
    store := (releaseAllotment n s).store, link := { s.link with notices := (releaseAllotment n s).link.notices } } := by
  unfold releaseAllotment
  split
  · rfl
  · generalize hw : setAllotment n _ _ = w
    have others : w = { s with store := w.store } := by rw [← hw]; rfl
    have kept := evalPressure_frame w
    generalize evalPressure w = t at kept ⊢
    rw [kept, others]

/-- The line's allotment is given back behind the landing page, with the document's own changes y between. -/
theorem givenBack {s y : State} {n : LineNo} {d : Document} {Q : Subject → Prop} (found : findDoc s d.number = some d)
    (own : (allotment s n).dept = some d.dept) (steady : Steady s) (store : y.store = (freeLanding d.number s).store)
    (whole : y.integrity = (freeLanding d.number s).integrity) (between : Marked (freeLanding d.number s) y Q)
    (classes : y.link.classes = s.link.classes) : GivenBack s (releaseAllotment n y) n d Q := by
  obtain ⟨accounts, allotments, free, spares, pressure⟩ := freeLanding_freed found
  obtain ⟨marked, exhausted⟩ := freeLanding_marked d.number s
  have frame := freeLanding_frame d.number s
  have accountY (e : Dept) : acct y e = acct (freeLanding d.number s) e := acct_congr (by rw [store]) e
  have pressureY (was : Bool) : pressureAfter was y = pressureAfter was (freeLanding d.number s) := pressureAfter_of_store store was
  have both : Marked s y _ := marked.trans between (by rw [frame])
  rw [← store] at allotments free spares pressure both
  rw [← whole] at exhausted both
  simp only [← accountY, ← pressureY] at accounts pressure
  generalize y = u at *
  have allot (m : LineNo) : allotment u m = allotment s m := by unfold allotment; rw [allotments]
  have course : releaseAllotment n u = evalPressure (setAllotment n ⟨none, 0⟩
      (setAcct d.dept (fun a => { a with resv := a.resv - (allotment s n).count }) u)) := by
    unfold releaseAllotment; rw [allot, own]
  rw [course]
  generalize hw : setAllotment n ⟨none, 0⟩ (setAcct d.dept (fun a => { a with resv := a.resv - (allotment s n).count }) u) = w
  have account (e : Dept) : acct w e = if e = d.dept then { acct u d.dept with resv := (acct u d.dept).resv - (allotment s n).count }
      else acct u e := by
    rw [← hw]
    show acct (setAcct d.dept (fun a => { a with resv := a.resv - (allotment s n).count }) u) e = _
    rw [acct_setAcct]
  have given (m : LineNo) : allotment w m = if m = n then ⟨none, 0⟩ else allotment s m := by
    rw [← hw, allotment_setAllotment]
    split
    · rfl
    · exact allot m
  have lists : w.store.free = u.store.free ∧ w.store.spares = u.store.spares ∧ w.store.retired = u.store.retired ∧
      w.store.pressure = u.store.pressure := by rw [← hw]; exact ⟨rfl, rfl, rfl, rfl⟩
  obtain ⟨freeW, sparesW, retiredW, pressureW⟩ := lists
  have others : w = { u with store := w.store } := by rw [← hw]; rfl
  have evaluated := evalPressure_marked w
  have settled := evalPressure_settled w
  have kept := evalPressure_frame w
  have same (e : Dept) : acct (evalPressure w) e = acct w e := acct_evalPressure w e
  generalize evalPressure w = t at *
  have accountsT (e : Dept) : acct t e = { acct s e with
      used := (acct s e).used - (if d.dept = e then landingSize d else 0)
      resv := (acct s e).resv - (if (allotment s n).dept = some e then (allotment s n).count else 0) } := by
    rw [same, account, own]
    by_cases he : e = d.dept
    · subst he; simp [accounts]
    · rw [if_neg he, accounts, if_neg (Ne.symm he), if_neg (fun k => he (Option.some.inj k).symm)]; rfl
  have first : Lighter s u := fun e => by rw [accounts e]; exact ⟨rfl, Nat.sub_le _ _, Nat.le_refl _⟩
  have second : Lighter u t := fun e => by
    rw [accountsT e, accounts e]; exact ⟨rfl, Nat.le_refl _, Nat.sub_le _ _⟩
  rw [pressureW] at settled evaluated
  have wholePressure : t.store.pressure = pressureAfter s.store.pressure t := by
    rcases pressure with p | p
    · rw [settled, p]
    · rw [settled, p]; exact steady.twice first second
  have falls : t.store.pressure = true → u.store.pressure = true := fun on => by
    rcases pressure with p | p
    · rw [p]; exact steady.falls (first.trans second) (wholePressure ▸ on)
    · exact (Steady.after p).falls second (settled ▸ on)
  have fell : u.store.pressure = true → s.store.pressure = true := fun on => by
    rcases pressure with p | p
    · rw [← p]; exact on
    · exact steady.falls first (p ▸ on)
  have storeT : t.store.free = u.store.free ∧ t.store.spares = u.store.spares ∧ t.store.retired = u.store.retired ∧
      t.store.allotments = w.store.allotments := by
    rw [kept]; exact ⟨freeW, sparesW, retiredW, rfl⟩
  obtain ⟨freeT, sparesT, retiredT, allotmentsT⟩ := storeT
  have integrity : t.integrity = u.integrity := by rw [kept, others]
  refine ⟨accountsT, fun m => ?_, by rw [freeT]; exact free, by rw [sparesT, retiredT]; exact spares, wholePressure, ?_, ?_⟩
  · rw [← given]; unfold allotment; rw [allotmentsT]
  · rw [integrity]; exact exhausted
  · have later : Marked u t _ := evaluated.of_link (by rw [others]) rfl (by rw [others])
    refine (both.trans later classes).congr fun x => ?_
    rw [retiredT, integrity]
    exact marks_join (two_changes fell falls)

end Sys2Proof.Machine
end

section
/-! One call that a Restart ends, all in all (R91, R99). -/

namespace Sys2Proof.Machine

open Sys2Proof

/-- A receiving call fits a Restart: what RestartFits says of it. -/
structure CallFits (s : State) (n : LineNo) (c : RxCall) (d : Document) : Prop extends DocFits s d where
  rx : rxOf (lineAt s n) = some c
  document : c.document = some d.number
  account : (allotment s n).dept = some d.dept
  steady : Steady s

/-- What the end of a call marks besides the store and its blocks (R33, R98, R179). -/
def callMarks (s : State) (n : LineNo) (d : Document) (x : Subject) : Prop :=
  x = .line n ∨ (x = .journal ∧ (s.journal.unreleased = 8127 ∨ 8192 ≤ s.journal.unreleased)) ∨ (x = .department d.dept ∧ d.pages ≠ [])

/-- A receiving call has been ended by a Restart (R91, R99). -/
structure CallEnded (s t : State) (n : LineNo) (c : RxCall) (d : Document) (new : List Job) : Prop where
  journal : t.journal = s.journal.offered (receiptFor d .partialRestart) s.clock.cal s.clock.trusted
  numbers : t.dir.docs.map (fun e => e.number) =
    (s.dir.docs.map (fun e => e.number)).filter (fun m => decide (d.pages = [] → d.number ≠ m))
  landed : d.pages ≠ [] → findDoc t d.number = some (landedRecord s d)
  others : ∀ m, m ≠ d.number → findDoc t m = findDoc s m
  queues : ∀ e : Dept, readyQueue t e = if e = d.dept ∧ d.joinsQueue = true then joinQueue s d (readyQueue s e) else readyQueue s e
  joins : JobsJoin s t (landingTargets d) new
  given : GivenBack s t n d (callMarks s n d)
  memory : (∀ l, d.landing = some l → t.mem = (closeGroup l s).mem ∧ t.dram = (closeGroup l s).dram) ∧
    (d.landing = none → t.mem = s.mem ∧ t.dram = s.dram)
  handed : t.callers.handed = s.callers.handed ++ c.calling.toList.map (fun x => ⟨x, .neutral⟩)
  frame : t = { s with
    part := t.part, store := t.store, mem := t.mem, dram := t.dram, dir := { s.dir with docs := t.dir.docs, ready := t.dir.ready }
    lines := t.lines, callers := { s.callers with handed := t.callers.handed }, fwd := t.fwd, journal := t.journal
    integrity := { s.integrity with exhausted := t.integrity.exhausted }, link := { s.link with notices := t.link.notices } }

theorem freeLanding_memory {s : State} {d : Document} (found : findDoc s d.number = some d) :
    (∀ l, d.landing = some l → (freeLanding d.number s).mem = (closeGroup l s).mem ∧
      (freeLanding d.number s).dram = (closeGroup l s).dram) ∧
    (d.landing = none → (freeLanding d.number s).mem = s.mem ∧ (freeLanding d.number s).dram = s.dram) := by
  refine ⟨fun l landing => ?_, fun landing => ?_⟩
  · exact (landingFreed found landing).memory
  · rw [freeLanding_none found landing]; exact ⟨rfl, rfl⟩

/-- The class handed for the end of a call (R93). -/
def handed (c : RxCall) (s : State) : State :=
  match c.calling with
  | some number => handClass number .neutral s
  | none => s

theorem handed_eq (c : RxCall) (s : State) : handed c s =
    { s with callers := { s.callers with handed := s.callers.handed ++ c.calling.toList.map (fun x => ⟨x, .neutral⟩) } } := by
  unfold handed
  cases c.calling with
  | none => simp
  | some x => rfl

theorem callEnded {s : State} {n : LineNo} {c : RxCall} {d : Document} (h : CallFits s n c d) :
    ∃ new, CallEnded s (endReceiving n .restart true s) n c d new := by
  obtain ⟨⟨quiet, record, plan, unqueued⟩, rx, document, account, steady⟩ := h
  have course : endReceiving n .restart true s = mark (.line n) (handed c (releaseAllotment n
      (endDocument d.number .partialRestart (releaseWith n .release s)))) := by
    unfold endReceiving
    rw [rx]
    dsimp only
    rw [document]
    rfl
  rw [course, releaseWith_eq]
  generalize hw : modLine n (fun l => l.releases s.clock.run .release) s = w
  have linesOnly : w = { s with lines := w.lines } := by rw [← hw]; rfl
  have sameDoc (m : Nat) : findDoc w m = findDoc s m := by rw [linesOnly]; rfl
  have sameQueue (e : Dept) : readyQueue w e = readyQueue s e := by rw [linesOnly]; rfl
  have sameAcct (e : Dept) : acct w e = acct s e := by rw [linesOnly]; rfl
  have sameAllot (m : LineNo) : allotment w m = allotment s m := by rw [linesOnly]; rfl
  have sameUrgent (m : Nat) : isUrgent w m = isUrgent s m := by unfold isUrgent; rw [sameDoc]
  have steadyW : Steady w := by rw [linesOnly]; exact steady
  obtain ⟨new, journal, numbers, landed, others, queues, ⟨jobs, targets, fresh, fwd⟩, ⟨store, mem, dram, whole⟩, marked, frame⟩ :=
    endDocument_ended (s := w) (d := d) ⟨by rw [linesOnly]; exact quiet, (sameDoc _).trans record, by rw [linesOnly]; exact plan,
      fun e => by rw [sameQueue]; exact unqueued e⟩
  have freed := freeLanding_frame d.number w
  have memory := freeLanding_memory ((sameDoc d.number).trans record)
  rw [← mem, ← dram] at memory
  have given := givenBack ((sameDoc d.number).trans record) ((congrArg Allotment.dept (sameAllot n)).trans account) steadyW store whole
    marked (by rw [frame])
  have kept := releaseAllotment_frame n (endDocument d.number .partialRestart w)
  generalize endDocument d.number .partialRestart w = y at *
  generalize releaseAllotment n y = z at *
  rw [handed_eq]
  obtain ⟨accounts, allotments, free, spares, pressure, exhausted, marks⟩ := given
  have storeW : w.store = s.store := by rw [linesOnly]
  have wholeW : w.integrity = s.integrity := by rw [linesOnly]
  have journalW : w.journal = s.journal := by rw [linesOnly]
  have clockW : w.clock = s.clock := by rw [linesOnly]
  have linkW : w.link = s.link := by rw [linesOnly]
  have fwdW : w.fwd = s.fwd := by rw [linesOnly]
  have docsW : w.dir.docs = s.dir.docs := by rw [linesOnly]
  have docsZ : z.dir = y.dir := by rw [kept]
  have fwdZ : z.fwd = y.fwd := by rw [kept]
  have memoryZ : z.mem = y.mem ∧ z.dram = y.dram := by rw [kept]; exact ⟨rfl, rfl⟩
  have callersZ : z.callers = s.callers := by rw [kept, frame, freed, linesOnly]
  have foundZ (m : Nat) : findDoc z m = findDoc y m := findDoc_dir (by rw [docsZ]) m
  have recordW : landedRecord w d = landedRecord s d := by unfold landedRecord landedAs; rw [journalW, clockW]
  have queueW (e : Dept) : joinQueue w d (readyQueue w e) = joinQueue s d (readyQueue s e) := by
    rw [joinQueue_congr sameUrgent, sameQueue]
  rw [storeW] at free spares pressure marks
  rw [wholeW] at exhausted marks
  rw [journalW] at marks journal
  rw [fwdW] at jobs fwd
  rw [clockW] at fresh journal
  rw [docsW] at numbers
  have closed (l : Landing) := closeGroup_congr (s := s) (t := w) (by rw [linesOnly]) (by rw [linesOnly]) l
  refine ⟨new, ?_⟩
  refine ⟨?_, ?_, fun full => ?_, fun m hm => ?_, fun e => ?_, ⟨?_, targets, fresh, ?_⟩, ⟨fun e => ?_, fun m => ?_, free, spares,
    pressure, exhausted, ?_⟩, ⟨fun l landing => ?_, fun landing => ?_⟩, ?_, ?_⟩
  · show z.journal = _
    rw [kept]; exact journal
  · show z.dir.docs.map _ = _
    rw [docsZ]; exact numbers
  · exact (foundZ d.number).trans ((landed full).trans (by rw [recordW]))
  · exact (foundZ m).trans ((others m hm).trans (sameDoc m))
  · have queueZ : readyQueue z e = readyQueue y e := by unfold readyQueue; rw [docsZ]
    refine queueZ.trans ?_
    rw [queues, queueW, sameQueue]
  · exact (congrArg Forwarding.jobs fwdZ).trans jobs
  · show z.fwd = { s.fwd with jobs := z.fwd.jobs, nextJob := z.fwd.nextJob, runOwed := s.fwd.runOwed || decide (new ≠ []) }
    rw [fwdZ]; exact fwd
  · have := accounts e
    rw [sameAcct, sameAllot] at this
    exact this
  · have := allotments m
    rw [sameAllot] at this
    exact this
  · have first : Marked s z _ := marks.of_link (by rw [linkW]) rfl (by rw [linkW])
    have last := mark_marked (.line n) { z with callers :=
      { z.callers with handed := z.callers.handed ++ c.calling.toList.map (fun x => ⟨x, .neutral⟩) } }
    refine (first.trans (last.of_link (s' := z) rfl rfl rfl) (by rw [kept, frame, freed, linesOnly])).congr fun x => ?_
    unfold callMarks
    exact or_comm.trans or_assoc.symm
  · rw [← (closed l).1, ← (closed l).2]
    exact ⟨memoryZ.1.trans (memory.1 l landing).1, memoryZ.2.trans (memory.1 l landing).2⟩
  · obtain ⟨m, dr⟩ := memory.2 landing
    exact ⟨memoryZ.1.trans (m.trans (by rw [linesOnly])), memoryZ.2.trans (dr.trans (by rw [linesOnly]))⟩
  · show z.callers.handed ++ _ = _
    rw [callersZ]
  · unfold mark
    dsimp only
    rw [callersZ]
    generalize z.link.notices = ns
    rw [kept, frame, freed, linesOnly]

end Sys2Proof.Machine
end

section
/-! The directory as the calls of a Restart end line by line (R33, R34, R39, R166). -/

namespace Sys2Proof.Machine

open Sys2Proof

/-! ## The documents of the calls -/

/-- The documents of the receiving calls of some lines. -/
def endedDocs (b : State) (ns : List LineNo) : List Document := (ns.filter (fun n => inReceiving (lineAt b n))).filterMap (callDocument b)

theorem endedDocs_call {b : State} {ns : List LineNo} {n : LineNo} {d : Document} (call : inReceiving (lineAt b n) = true)
    (document : callDocument b n = some d) : endedDocs b (ns ++ [n]) = endedDocs b ns ++ [d] := by
  unfold endedDocs
  rw [List.filter_append, List.filterMap_append, List.filter_singleton, call]
  simp [document]

theorem endedDocs_other {b : State} {ns : List LineNo} {n : LineNo} (call : ¬ inReceiving (lineAt b n) = true) :
    endedDocs b (ns ++ [n]) = endedDocs b ns := by
  unfold endedDocs
  rw [List.filter_append, List.filterMap_append, List.filter_singleton, Bool.eq_false_iff.2 call]
  simp

theorem mem_endedDocs {b : State} {ns : List LineNo} {x : Document} (h : x ∈ endedDocs b ns) :
    ∃ n ∈ ns, inReceiving (lineAt b n) = true ∧ callDocument b n = some x := by
  obtain ⟨n, hn, document⟩ := List.mem_filterMap.1 h
  obtain ⟨mem, call⟩ := List.mem_filter.1 hn
  exact ⟨n, mem, call, document⟩

theorem callDocument_record {b : State} {n : LineNo} {x : Document} (h : callDocument b n = some x) : findDoc b x.number = some x := by
  unfold callDocument at h
  obtain ⟨m, -, found⟩ := Option.bind_eq_some_iff.1 h
  rw [findDoc_number found]; exact found

/-! ## Ready queues -/

/-- A document that joins a ready queue stands behind those of its priority (R39). -/
theorem filter_joinQueue {s : State} {d : Document} {q : List Nat} {p : Nat → Bool} (same : ∀ m ∈ q, isUrgent s m = p m)
    (own : p d.number = (d.priority == .urgent)) (k : Bool) : (joinQueue s d q).filter (fun m => p m == k) =
      q.filter (fun m => p m == k) ++ [d.number].filter (fun m => p m == k) := by
  unfold joinQueue
  split
  · rename_i urgent
    obtain ⟨front, back, rfl, e, -, rest⟩ := insertUrgent_place (isUrgent s) d.number q
    have behind : ∀ m ∈ back, p m = false := fun m hm => by
      rw [← same m (List.mem_append_right _ hm)]; exact rest m hm
    rw [urgent] at own
    have own : p d.number = true := own
    rw [e]
    cases k with
    | true =>
      have none : back.filter p = [] := List.filter_eq_nil_iff.2 (fun m hm => by simp [behind m hm])
      simp [none, own]
    | false => simp [own]
  · rw [List.filter_append]

/-- What has become of the directory as the documents of calls ended. -/
structure DocsSoFar (b u : State) (D : List Document) : Prop where
  journal : u.journal = receiptsOf b D
  numbers : u.dir.docs.map (fun e => e.number) =
    (b.dir.docs.map (fun e => e.number)).filter (fun m => decide (∀ x ∈ D, x.pages = [] → x.number ≠ m))
  landed : ∀ (front : List Document) (d : Document) (back : List Document), D = front ++ d :: back → d.pages ≠ [] →
    findDoc u d.number = some (landedRecord { b with journal := receiptsOf b front } d)
  others : ∀ m, (∀ x ∈ D, x.number ≠ m) → findDoc u m = findDoc b m
  queues : ∀ (e : Dept) (k : Bool), (readyQueue u e).filter (fun m => isUrgent b m == k) =
    (readyQueue b e).filter (fun m => isUrgent b m == k) ++ ((D.filter Document.joinsQueue).map (fun d => d.number)).filter
      (fun m => (findDoc b m).any (fun d => decide (d.dept = e)) && isUrgent b m == k)

theorem docsSoFar_nil (b : State) : DocsSoFar b b [] :=
  ⟨rfl, by simp, fun front d back e => by simp at e, fun _ _ => rfl, fun e k => by simp⟩

theorem DocsSoFar.of_same {b u v : State} {D : List Document} (h : DocsSoFar b u D) (journal : v.journal = u.journal)
    (dir : v.dir = u.dir) : DocsSoFar b v D := by
  obtain ⟨journal', numbers, landed, others, queues⟩ := h
  have found (m : Nat) : findDoc v m = findDoc u m := findDoc_dir (by rw [dir]) m
  have queue (e : Dept) : readyQueue v e = readyQueue u e := by unfold readyQueue; rw [dir]
  exact ⟨journal.trans journal', by rw [dir]; exact numbers, fun front d back e full => (found _).trans (landed front d back e full),
    fun m hm => (found m).trans (others m hm), fun e k => by rw [queue]; exact queues e k⟩

theorem landedRecord_priority (s : State) (d : Document) : (landedRecord s d).priority = d.priority := by
  unfold landedRecord; split <;> rfl

theorem landedRecord_congr {s t : State} (journal : t.journal = s.journal) (clock : t.clock = s.clock) (d : Document) :
    landedRecord t d = landedRecord s d := by
  unfold landedRecord landedAs; rw [journal, clock]

section
variable {b u v : State} {D : List Document} {d : Document} {n : LineNo} {c : RxCall} {new : List Job}

/-- The urgency of a document that stands in a queue is as it was. -/
theorem DocsSoFar.urgent (h : DocsSoFar b u D) (records : ∀ x ∈ D, findDoc b x.number = some x)
    (unqueued : ∀ x ∈ D, ∀ e : Dept, x.number ∉ readyQueue b e) {e : Dept} {m : Nat} (mem : m ∈ readyQueue u e) :
    isUrgent u m = isUrgent b m := by
  have listed : m ∈ (readyQueue u e).filter (fun x => isUrgent b x == isUrgent b m) := List.mem_filter.2 ⟨mem, by simp⟩
  rw [h.queues, List.mem_append] at listed
  rcases listed with before | joined
  · have apart : ∀ x ∈ D, x.number ≠ m := fun x hx k => unqueued x hx e (k ▸ (List.mem_filter.1 before).1)
    unfold isUrgent; rw [h.others m apart]
  · obtain ⟨x, hx, rfl⟩ := List.mem_map.1 (List.mem_filter.1 joined).1
    obtain ⟨hx, joins⟩ := List.mem_filter.1 hx
    have full : x.pages ≠ [] := by
      rintro empty; unfold Document.joinsQueue at joins; rw [empty] at joins; simp at joins
    obtain ⟨front, back, split⟩ := List.append_of_mem hx
    unfold isUrgent
    rw [h.landed front x back split full, records x hx]
    dsimp only
    rw [landedRecord_priority]

theorem DocsSoFar.unqueued (h : DocsSoFar b u D) {m : Nat} (apart : ∀ x ∈ D, x.number ≠ m) {e : Dept} (before : m ∉ readyQueue b e) :
    m ∉ readyQueue u e := by
  intro mem
  have listed : m ∈ (readyQueue u e).filter (fun x => isUrgent b x == isUrgent b m) := List.mem_filter.2 ⟨mem, by simp⟩
  rw [h.queues, List.mem_append] at listed
  rcases listed with k | joined
  · exact before (List.mem_filter.1 k).1
  · obtain ⟨x, hx, number⟩ := List.mem_map.1 (List.mem_filter.1 joined).1
    exact apart x (List.mem_filter.1 hx).1 number

/-- One document more (R33, R34). -/
theorem DocsSoFar.call (h : DocsSoFar b u D) (ended : CallEnded u v n c d new) (clock : u.clock = b.clock)
    (records : ∀ x ∈ D, findDoc b x.number = some x) (unqueued : ∀ x ∈ D, ∀ e : Dept, x.number ∉ readyQueue b e)
    (record : findDoc b d.number = some d) (apart : ∀ x ∈ D, x.number ≠ d.number) : DocsSoFar b v (D ++ [d]) := by
  have urgent {e : Dept} {m : Nat} (mem : m ∈ readyQueue u e) := h.urgent records unqueued mem
  obtain ⟨journal, numbers, landed, others, queues⟩ := h
  refine ⟨?_, ?_, fun front x back split full => ?_, fun m hm => ?_, fun e k => ?_⟩
  · rw [ended.journal, journal, clock]
    unfold receiptsOf
    rw [List.foldl_append]; rfl
  · rw [ended.numbers, numbers, List.filter_filter]
    refine List.filter_congr fun m _ => ?_
    rw [← Bool.decide_and, decide_eq_decide]
    simp [or_imp, forall_and, and_comm]
  · rcases List.eq_nil_or_concat back with rfl | ⟨back, y, rfl⟩
    · obtain ⟨rfl, last⟩ := List.append_inj' split rfl
      obtain rfl := List.head_eq_of_cons_eq last
      rw [ended.landed full]
      exact congrArg some (landedRecord_congr (s := { b with journal := receiptsOf b D }) journal clock d)
    · rw [List.concat_eq_append, ← List.cons_append, ← List.append_assoc] at split
      obtain ⟨rfl, last⟩ := List.append_inj' split rfl
      rw [ended.others x.number (apart x (by simp))]
      exact landed front x back rfl full
  · rw [ended.others m (fun k => hm d (by simp) k.symm)]
    exact others m (fun x hx => hm x (List.mem_append_left _ hx))
  · have own : isUrgent b d.number = (d.priority == .urgent) := by unfold isUrgent; rw [record]
    rw [ended.queues, List.filter_append, List.map_append, List.filter_append, ← List.append_assoc, ← queues]
    by_cases joins : d.joinsQueue = true
    · rw [List.filter_singleton, joins]
      by_cases he : e = d.dept
      · rw [if_pos ⟨he, rfl⟩, filter_joinQueue (p := isUrgent b) (fun m hm => urgent hm) own]
        simp [record, he, List.filter_singleton]
      · rw [if_neg (fun k => he k.1)]
        simp [record, Ne.symm he]
    · rw [if_neg (fun k => joins k.2), List.filter_singleton, Bool.eq_false_iff.2 joins]
      simp

end

end Sys2Proof.Machine
end

section
/-! The store, its memory and the jobs as the calls of a Restart end line by line (R18, R19, R35, R190). -/

namespace Sys2Proof.Machine

open Sys2Proof

/-! ## The store -/

/-- The receiving calls among some lines. -/
def receivingOf (b : State) (ns : List LineNo) : List LineNo := ns.filter (fun n => inReceiving (lineAt b n))

/-- What has become of the store as the calls of some lines ended. -/
structure StoreSoFar (b u : State) (ns : List LineNo) (D : List Document) : Prop where
  accounts : ∀ e : Dept, acct u e = { acct b e with
    used := (acct b e).used - ((D.filter (fun d => decide (d.dept = e))).map landingSize).sum
    resv := (acct b e).resv - (((receivingOf b ns).filter (fun n => decide ((allotment b n).dept = some e))).map
      (fun n => (allotment b n).count)).sum }
  allotments : ∀ m : LineNo, allotment u m = if m ∈ ns ∧ inReceiving (lineAt b m) = true then ⟨none, 0⟩ else allotment b m
  free : b.store.free <+: u.store.free ∧ u.store.free.length = b.store.free.length + (D.map landingSize).sum
  spares : u.store.spares <:+ b.store.spares ∧ b.store.retired <+: u.store.retired ∧
    u.store.spares.length + u.store.retired.length = b.store.spares.length + b.store.retired.length
  pressure : u.store.pressure = pressureAfter b.store.pressure u
  exhausted : b.integrity.exhausted = true → u.integrity.exhausted = true

section
variable {b u v : State} {ns : List LineNo} {D : List Document} {n : LineNo} {d : Document}

theorem storeSoFar_nil (steady : Steady b) : StoreSoFar b b [] [] :=
  ⟨fun e => by simp [receivingOf], fun m => by simp, by simp, by simp, steady, id⟩

theorem StoreSoFar.lighter (h : StoreSoFar b u ns D) : Lighter b u := fun e => by
  rw [h.accounts e]; exact ⟨rfl, Nat.sub_le _ _, Nat.sub_le _ _⟩

theorem receivingOf_call (call : inReceiving (lineAt b n) = true) : receivingOf b (ns ++ [n]) = receivingOf b ns ++ [n] := by
  unfold receivingOf; rw [List.filter_append, List.filter_singleton, call]; rfl

theorem receivingOf_other (call : ¬ inReceiving (lineAt b n) = true) : receivingOf b (ns ++ [n]) = receivingOf b ns := by
  unfold receivingOf; rw [List.filter_append, List.filter_singleton, Bool.eq_false_iff.2 call]; exact List.append_nil _

/-- A line without a receiving call changes nothing of the store. -/
theorem StoreSoFar.other (h : StoreSoFar b u ns D) (store : v.store = u.store) (integrity : v.integrity = u.integrity)
    (call : ¬ inReceiving (lineAt b n) = true) : StoreSoFar b v (ns ++ [n]) D := by
  obtain ⟨accounts, allotments, free, spares, pressure, exhausted⟩ := h
  refine ⟨fun e => ?_, fun m => ?_, by rw [store]; exact free, by rw [store]; exact spares, ?_, by rw [integrity]; exact exhausted⟩
  · rw [acct_congr (congrArg PageStore.accounts store), receivingOf_other call]; exact accounts e
  · have same : allotment v m = allotment u m := by unfold allotment; rw [store]
    rw [same, allotments]
    by_cases here : m = n
    · rw [here, if_neg (fun k => call k.2), if_neg (fun k => call k.2)]
    · simp [here]
  · rw [pressureAfter_of_store store, store]; exact pressure

/-- One receiving call more (R18, R19). -/
theorem StoreSoFar.call {Q : Subject → Prop} (h : StoreSoFar b u ns D) (given : GivenBack u v n d Q) (steady : Steady b) (new : n ∉ ns)
    (call : inReceiving (lineAt b n) = true) : StoreSoFar b v (ns ++ [n]) (D ++ [d]) := by
  have lighter := h.lighter
  have lighter' := given.lighter
  obtain ⟨accounts, allotments, ⟨grows, length⟩, ⟨spares, retired, total⟩, pressure, exhausted⟩ := h
  have own : allotment u n = allotment b n := by rw [allotments, if_neg (fun k => new k.1)]
  refine ⟨fun e => ?_, fun m => ?_, ⟨grows.trans given.free.1, ?_⟩, ⟨given.spares.1.trans spares, retired.trans given.spares.2.1,
    given.spares.2.2.trans total⟩, ?_, fun k => given.exhausted (exhausted k)⟩
  · rw [given.accounts, accounts, own, receivingOf_call call, List.filter_append, List.filter_append, List.map_append, List.map_append,
      List.sum_append, List.sum_append, List.filter_singleton, List.filter_singleton]
    have used : (if d.dept = e then landingSize d else 0) = ((bif decide (d.dept = e) then [d] else []).map landingSize).sum := by
      by_cases he : d.dept = e <;> simp [he]
    have resv : (if (allotment b n).dept = some e then (allotment b n).count else 0) =
        ((bif decide ((allotment b n).dept = some e) then [n] else []).map (fun n => (allotment b n).count)).sum := by
      by_cases he : (allotment b n).dept = some e <;> simp [he]
    rw [used, resv]
    dsimp only
    rw [Nat.sub_sub, Nat.sub_sub]
  · rw [given.allotments, allotments]
    by_cases here : m = n
    · subst here; simp [call]
    · simp [here]
  · rw [given.free.2, length, List.map_append, List.sum_append]
    simp [Nat.add_assoc]
  · rw [given.pressure, pressure]
    exact steady.twice lighter lighter'

end

/-! ## The memory -/

/-- The blocks of a document's landing page. -/
def landingBlocks (d : Document) : List Block := d.landing.elim [] Landing.blocks

/-- A fault stands in the last group of a landing page. -/
def inLastGroup (l : Landing) (f : DramFault) : Prop :=
  l.blocks[(l.length - l.held.length) / 8192]? = some f.block ∧ f.group.val = (l.length - l.held.length) % 8192 / 8

/-- What has become of the store memory as the documents of calls ended. -/
structure MemorySoFar (b u : State) (D : List Document) : Prop where
  canonical : MemoryCanonical u
  groups : ∀ d ∈ D, ∀ l, d.landing = some l → ∀ i a, i < 8 → lastGroup l i = some a → readByte u.mem a = l.held.getD i 0
  bytes : ∀ a, (∀ d ∈ D, ∀ l, d.landing = some l → ∀ i, i < 8 → lastGroup l i ≠ some a) → readByte u.mem a = readByte b.mem a
  draws : u.dram.draws = b.dram.draws
  faults : ∀ f, f ∈ u.dram.faults ↔ f ∈ b.dram.faults ∧ (f.persists = true ∨
    ∀ d ∈ D, ∀ l, d.landing = some l → l.held ≠ [] → ¬ inLastGroup l f)

theorem pageAddress_block {bs : List Block} {off a : Nat} (h : pageAddress bs off = some a) : ∃ b ∈ bs, b.val = a / 8192 := by
  unfold pageAddress at h
  obtain ⟨b, hb, rfl⟩ := Option.map_eq_some_iff.1 h
  exact ⟨b, List.mem_of_getElem? hb, by unfold blockBase blockBytes; omega⟩

theorem lastGroup_block {l : Landing} {i a : Nat} (h : lastGroup l i = some a) : l.held ≠ [] ∧ (∃ b ∈ l.blocks, b.val = a / 8192) ∧
    pageAddress l.blocks (l.length - l.held.length + i) = some a := by
  unfold lastGroup at h
  split at h
  · cases h
  · rename_i held; exact ⟨held, pageAddress_block h, h⟩

section
variable {b u v : State} {D : List Document} {d : Document}

theorem memorySoFar_nil (canonical : MemoryCanonical b) : MemorySoFar b b [] :=
  ⟨canonical, fun _ hd => (List.not_mem_nil hd).elim, fun _ _ => rfl, rfl, fun f => by simp⟩

theorem MemorySoFar.of_same (h : MemorySoFar b u D) (mem : v.mem = u.mem) (dram : v.dram = u.dram) : MemorySoFar b v D := by
  obtain ⟨canonical, groups, bytes, draws, faults⟩ := h
  exact ⟨by unfold MemoryCanonical; rw [mem]; exact canonical, by rw [mem]; exact groups, by rw [mem]; exact bytes,
    by rw [dram]; exact draws, by rw [dram]; exact faults⟩

/-- A document without a landing page, or with whole groups alone, writes nothing. -/
theorem MemorySoFar.whole (h : MemorySoFar b u D) (mem : v.mem = u.mem) (dram : v.dram = u.dram)
    (held : ∀ l, d.landing = some l → l.held = []) : MemorySoFar b v (D ++ [d]) := by
  obtain ⟨canonical, groups, bytes, draws, faults⟩ := h.of_same mem dram
  refine ⟨canonical, fun x hx l landing i a hi at_ => ?_, fun a other => ?_, draws, fun f => ?_⟩
  · rcases List.mem_append.1 hx with hx | hx
    · exact groups x hx l landing i a hi at_
    · obtain rfl := List.mem_singleton.1 hx
      exact absurd (held l landing) (lastGroup_block at_).1
  · exact bytes a (fun x hx => other x (List.mem_append_left _ hx))
  · rw [faults]
    refine and_congr_right fun _ => or_congr_right ?_
    constructor
    · intro k x hx l landing part
      rcases List.mem_append.1 hx with hx | hx
      · exact k x hx l landing part
      · obtain rfl := List.mem_singleton.1 hx; exact absurd (held l landing) part
    · intro k x hx; exact k x (List.mem_append_left _ hx)

/-- One document more, whose page shares no block with the others (R190). -/
theorem MemorySoFar.call (h : MemorySoFar b u D) (memory : (∀ l, d.landing = some l → v.mem = (closeGroup l u).mem ∧ v.dram = (closeGroup l u).dram) ∧
      (d.landing = none → v.mem = u.mem ∧ v.dram = u.dram)) (fits : ∀ l, d.landing = some l → l.held.length = l.length % 8)
    (apart : ((D ++ [d]).flatMap landingBlocks).Nodup) : MemorySoFar b v (D ++ [d]) := by
  cases landing : d.landing with
  | none =>
    obtain ⟨mem, dram⟩ := memory.2 landing
    exact h.whole mem dram (fun l k => by rw [landing] at k; cases k)
  | some l =>
    obtain ⟨mem, dram⟩ := memory.1 l landing
    by_cases part : l.held = []
    · have same : closeGroup l u = u := if_pos part
      rw [same] at mem dram
      exact h.whole mem dram (fun l' k => by rw [landing] at k; obtain rfl := Option.some.inj k; exact part)
    · obtain ⟨canonical, groups, bytes, draws, faults⟩ := h
      obtain ⟨-, written⟩ := groupClosed mem dram
      obtain ⟨own, others, drawn, stand⟩ := written part canonical (fits l landing)
      rw [List.flatMap_append, List.nodup_append] at apart
      obtain ⟨-, -, apart⟩ := apart
      have mine (k : Block) (hk : k ∈ l.blocks) : k ∈ [d].flatMap landingBlocks := by
        simp [landingBlocks, landing, hk]
      have away {x : Document} {lx : Landing} {i a : Nat} (hx : x ∈ D) (lands : x.landing = some lx) (at_ : lastGroup lx i = some a) (j : Nat) :
          pageAddress l.blocks (l.length - l.held.length + j) ≠ some a := by
        intro again
        obtain ⟨-, ⟨k, hk, vk⟩, -⟩ := lastGroup_block at_
        obtain ⟨m, hm, vm⟩ := pageAddress_block again
        have theirs : k ∈ D.flatMap landingBlocks := List.mem_flatMap.2 ⟨x, hx, by simp [landingBlocks, lands, hk]⟩
        exact apart k theirs m (mine m hm) (Fin.ext (vk.trans vm.symm))
      refine ⟨?_, fun x hx lx lands i a hi at_ => ?_, fun a other => ?_, drawn.trans draws, fun f => ?_⟩
      · unfold MemoryCanonical
        rw [mem]
        unfold closeGroup
        rw [if_neg part]
        exact memoryWf_writeGroup _ _ _ _ canonical
      · rcases List.mem_append.1 hx with hx | hx
        · rw [others a (fun j _ => away hx lands at_ j)]
          exact groups x hx lx lands i a hi at_
        · obtain rfl := List.mem_singleton.1 hx
          rw [landing] at lands
          obtain rfl := Option.some.inj lands
          exact own i a hi (lastGroup_block at_).2.2
      · have mineOther := other d (by simp) l landing
        rw [others a (fun i hi k => mineOther i hi (by unfold lastGroup; rw [if_neg part]; exact k))]
        exact bytes a (fun x hx => other x (List.mem_append_left _ hx))
      · rw [stand, faults]
        constructor
        · rintro ⟨⟨mem, stays⟩, mineStays⟩
          refine ⟨mem, ?_⟩
          rcases stays with p | stays
          · exact .inl p
          · rcases mineStays with p | mineStays
            · exact .inl p
            · refine .inr fun x hx lx lands held => ?_
              rcases List.mem_append.1 hx with hx | hx
              · exact stays x hx lx lands held
              · obtain rfl := List.mem_singleton.1 hx
                rw [landing] at lands
                obtain rfl := Option.some.inj lands
                exact mineStays
        · rintro ⟨mem, stays⟩
          refine ⟨⟨mem, ?_⟩, ?_⟩
          · exact stays.imp_right (fun k x hx => k x (List.mem_append_left _ hx))
          · exact stays.imp_right (fun k => k d (by simp) l landing part)

end

/-! ## The jobs -/

theorem JobsJoin.trans {s t u : State} {as bs : List (Nat × Nat × Text × Bool)} {xs ys : List Job} (h : JobsJoin s t as xs)
    (k : JobsJoin t u bs ys) (clock : t.clock = s.clock) : JobsJoin s u (as ++ bs) (xs ++ ys) := by
  obtain ⟨jobs, targets, fresh, frame⟩ := h
  obtain ⟨jobs', targets', fresh', frame'⟩ := k
  rw [clock] at fresh'
  refine ⟨by rw [jobs', jobs, List.append_assoc], by rw [List.map_append, targets, targets'], fun j hj => ?_, ?_⟩
  · rcases List.mem_append.1 hj with hj | hj
    · exact fresh j hj
    · exact fresh' j hj
  · have owed : t.fwd.runOwed = (s.fwd.runOwed || decide (xs ≠ [])) := by rw [frame]
    rw [frame', owed]
    generalize u.fwd.jobs = js
    generalize u.fwd.nextJob = nj
    have both : decide (xs ++ ys ≠ []) = (decide (xs ≠ []) || decide (ys ≠ [])) := by cases xs <;> cases ys <;> simp
    rw [both, ← Bool.or_assoc]
    rw [frame]

theorem JobsJoin.of_same {s t u : State} {as : List (Nat × Nat × Text × Bool)} {xs : List Job} (h : JobsJoin s t as xs)
    (fwd : u.fwd = t.fwd) : JobsJoin s u as xs := by
  obtain ⟨jobs, targets, fresh, frame⟩ := h
  exact ⟨by rw [fwd]; exact jobs, targets, fresh, by rw [fwd]; exact frame⟩

theorem landingTargets_length (d : Document) : (landingTargets d).length ≤ d.plan.dests.length := by
  unfold landingTargets planTargets
  split <;> simp

end Sys2Proof.Machine
end

section
/-! The calls of a Restart end line by line (R99): all that a Restart's lines leave. -/

namespace Sys2Proof.Machine

open Sys2Proof

/-! ## A line without a receiving call -/

/-- The classes that a line's restart effect hands to the Caller Memory (R93, R135). -/
def classesOf (b : State) (n : LineNo) : List Classification :=
  if inReceiving (lineAt b n) then ((rxOf (lineAt b n)).bind RxCall.calling).toList.map (fun x => ⟨x, .neutral⟩)
  else if inSending (lineAt b n) then (txOf (lineAt b n)).toList.map (fun u => ⟨u.destination, .neutral⟩)
  else []

/-- What the restart effect of a line without a receiving call leaves (R99). -/
structure LinePassed (s t : State) (n : LineNo) : Prop where
  handed : t.callers.handed = s.callers.handed ++ classesOf s n
  marked : Marked s t (fun x => x = .line n ∧ ((lineAt s n).chan = .alerted ∨ inSending (lineAt s n) = true))
  frame : t = { s with
    part := { s.part with tally := t.part.tally }, lines := t.lines, callers := { s.callers with handed := t.callers.handed }
    link := { s.link with notices := t.link.notices } }

theorem linePassed {s : State} {n : LineNo} (call : ¬ inReceiving (lineAt s n) = true) : LinePassed s (restartLine s n) n := by
  have classes : classesOf s n = if inSending (lineAt s n) then (txOf (lineAt s n)).toList.map (fun u => ⟨u.destination, .neutral⟩) else [] :=
    if_neg call
  unfold restartLine
  dsimp only
  by_cases alerted : (lineAt s n).chan = .alerted
  · have idle : inSending (lineAt s n) = false := by unfold inSending; rw [alerted]; simp [sendingChan]
    rw [if_pos alerted, releaseWith_eq]
    refine ⟨by rw [classes, idle]; simp [modTally, mark], ?_, rfl⟩
    exact ((mark_marked (.line n) _).of_link rfl rfl rfl).congr (by simp [alerted])
  · rw [if_neg alerted, if_neg call]
    by_cases attempt : inSending (lineAt s n) = true
    · obtain ⟨c, tx⟩ := Option.isSome_iff_exists.1 (Bool.and_eq_true _ _ ▸ attempt : _ ∧ _).1
      rw [if_pos attempt]
      unfold releaseAttempt
      rw [tx, releaseWith_eq]
      refine ⟨by rw [classes, attempt, tx]; rfl, ?_, rfl⟩
      exact ((mark_marked (.line n) _).of_link rfl rfl rfl).congr (by simp [attempt])
    · rw [if_neg attempt]
      refine ⟨by rw [classes, if_neg attempt, List.append_nil], (Marked.none rfl).congr (by simp [alerted, attempt]), rfl⟩

/-! ## Marks -/

/-- The subjects marked as the calls of some lines end (R28, R33, R98, R179, R197, R198). -/
def restartMarks (b u : State) (ns : List LineNo) (D : List Document) : Subject → Prop
  | .line n => n ∈ ns ∧ ((lineAt b n).chan = .alerted ∨ inReceiving (lineAt b n) = true ∨ inSending (lineAt b n) = true)
  | .department e => ∃ d ∈ D, d.pages ≠ [] ∧ d.dept = e
  | .store => u.store.pressure ≠ b.store.pressure ∨ u.integrity.exhausted ≠ b.integrity.exhausted
  | .journal => D ≠ [] ∧ ((b.journal.unreleased < 8128 ∧ 8128 ≤ b.journal.unreleased + D.length) ∨
      8192 < b.journal.unreleased + D.length)
  | .integrity => u.store.retired ≠ b.store.retired
  | .forward => False

theorem unreleased_receiptsOf (b : State) (D : List Document) :
    (receiptsOf b D).unreleased = max b.journal.unreleased (min (b.journal.unreleased + D.length) 8192) := by
  induction D using List.reverseRecOn with
  | nil => show b.journal.unreleased = _; simp only [List.length_nil]; omega
  | append_singleton D d ih =>
    have step : receiptsOf b (D ++ [d]) = (receiptsOf b D).offered (receiptFor d .partialRestart) b.clock.cal b.clock.trusted := by
      unfold receiptsOf; rw [List.foldl_append]; rfl
    have rises (j : Journal) (content : JournalContent) : (j.offered content b.clock.cal b.clock.trusted).unreleased =
        if j.unreleased < 8192 then j.unreleased + 1 else j.unreleased := by
      unfold Journal.offered; split <;> rfl
    rw [step, rises, ih, List.length_append, List.length_singleton]
    split <;> omega

section
variable {b u v : State} {ns : List LineNo} {D : List Document} {n : LineNo} {d : Document} {c : RxCall} {new : List Job}

/-- The marks of one receiving call more. -/
theorem marks_call (marks : Marked b u (restartMarks b u ns D)) (classes : u.link.classes = b.link.classes)
    (store : StoreSoFar b u ns D) (steady : Steady b) (journal : u.journal = receiptsOf b D) (given : GivenBack u v n d (callMarks u n d))
    (call : inReceiving (lineAt b n) = true) : Marked b v (restartMarks b v (ns ++ [n]) (D ++ [d])) := by
  refine (marks.trans given.marked classes).congr fun x => ?_
  cases x with
  | line m =>
    simp only [restartMarks, callMarks, Subject.line.injEq, List.mem_append, List.mem_singleton]
    constructor
    · rintro (⟨mem, why⟩ | (rfl | ⟨h, -⟩ | ⟨h, -⟩) | ⟨h, -⟩ | ⟨h, -⟩)
      · exact ⟨.inl mem, why⟩
      · exact ⟨.inr rfl, .inr (.inl call)⟩
      all_goals cases h
    · rintro ⟨mem | rfl, why⟩
      · exact .inl ⟨mem, why⟩
      · exact .inr (.inl (.inl rfl))
  | department e =>
    simp only [restartMarks, callMarks, Subject.department.injEq, List.mem_append, List.mem_singleton]
    constructor
    · rintro (⟨x, hx, full, dept⟩ | (h | ⟨h, -⟩ | ⟨rfl, full⟩) | ⟨h, -⟩ | ⟨h, -⟩)
      · exact ⟨x, .inl hx, full, dept⟩
      · cases h
      · cases h
      · exact ⟨d, .inr rfl, full, rfl⟩
      all_goals cases h
    · rintro ⟨x, hx | rfl, full, dept⟩
      · exact .inl ⟨x, hx, full, dept⟩
      · exact .inr (.inl (.inr (.inr ⟨dept.symm, full⟩)))
  | store =>
    have fell : u.store.pressure = true → b.store.pressure = true := fun on => steady.falls store.lighter (store.pressure ▸ on)
    have falls : v.store.pressure = true → u.store.pressure = true :=
      fun on => (Steady.after store.pressure).falls given.lighter (given.pressure ▸ on)
    have pressure := two_changes fell falls
    have exhausted : v.integrity.exhausted ≠ b.integrity.exhausted ↔
        u.integrity.exhausted ≠ b.integrity.exhausted ∨ v.integrity.exhausted ≠ u.integrity.exhausted := by
      have moved := two_changes given.exhausted store.exhausted
      exact ⟨fun k => (moved.1 k.symm).symm.imp Ne.symm Ne.symm, fun k => (moved.2 (k.symm.imp Ne.symm Ne.symm)).symm⟩
    simp only [restartMarks, callMarks, reduceCtorEq, false_and, or_false, false_or, true_and, pressure, exhausted]
    exact or_or_or_comm
  | journal =>
    have count := unreleased_receiptsOf b D
    rw [← journal] at count
    have some_ : D ≠ [] ↔ 0 < D.length := List.length_pos_iff.symm
    simp only [restartMarks, callMarks, reduceCtorEq, false_and, or_false, false_or, true_and, some_, List.length_append,
      List.length_singleton, ne_eq, List.append_eq_nil_iff, List.cons_ne_nil, and_false, not_false_eq_true]
    omega
  | integrity =>
    simp only [restartMarks, callMarks, reduceCtorEq, false_and, or_false, false_or, true_and]
    exact (changed_of_prefix store.spares.2.1 given.spares.2.1).symm
  | forward => simp only [restartMarks, callMarks, reduceCtorEq, false_and, or_false]

/-- The marks of a line without a receiving call. -/
theorem marks_other (marks : Marked b u (restartMarks b u ns D)) (classes : u.link.classes = b.link.classes)
    (passed : Marked u v (fun x => x = .line n ∧ ((lineAt b n).chan = .alerted ∨ inSending (lineAt b n) = true)))
    (store : v.store = u.store) (whole : v.integrity = u.integrity)
    (call : ¬ inReceiving (lineAt b n) = true) : Marked b v (restartMarks b v (ns ++ [n]) D) := by
  refine (marks.trans passed classes).congr fun x => ?_
  cases x with
  | line m =>
    simp only [restartMarks, Subject.line.injEq, List.mem_append, List.mem_singleton]
    constructor
    · rintro (⟨mem, why⟩ | ⟨rfl, why⟩)
      · exact ⟨.inl mem, why⟩
      · exact ⟨.inr rfl, why.imp_right .inr⟩
    · rintro ⟨mem | rfl, why⟩
      · exact .inl ⟨mem, why⟩
      · exact .inr ⟨rfl, why.imp_right (fun k => k.resolve_left call)⟩
  | department e => simp only [restartMarks, reduceCtorEq, false_and, or_false]
  | store => simp only [restartMarks, reduceCtorEq, false_and, or_false, store, whole]
  | journal => simp only [restartMarks, reduceCtorEq, false_and, or_false]
  | integrity => simp only [restartMarks, reduceCtorEq, false_and, or_false, store]
  | forward => simp only [restartMarks, reduceCtorEq, false_and, or_false]

end

end Sys2Proof.Machine
end

section
/-! The calls of a Restart end one after another (R99): an induction over the lines. -/

namespace Sys2Proof.Machine

open Sys2Proof

/-- What holds as the first call of a Restart ends: RestartFits, of the state once the offers have been withdrawn. -/
structure RestartReady (b : State) : Prop where
  quiet : b.collect.queue = []
  steady : Steady b
  canonical : MemoryCanonical b
  calls : ∀ n, inReceiving (lineAt b n) = true → ∃ c d, rxOf (lineAt b n) = some c ∧ c.document = some d.number ∧
    findDoc b d.number = some d ∧ (allotment b n).dept = some d.dept ∧ d.line = n ∧
    (d.plan.hold = false → (d.plan.collect = true ∨ d.plan.dests ≠ []) ∧ d.forwards = [] ∧ d.disposition = .none) ∧
    (∀ e : Dept, d.number ∉ readyQueue b e) ∧ ∀ l, d.landing = some l → l.held.length = l.length % 8
  apart : ((endedDocs b allLines).flatMap landingBlocks).Nodup
  room : b.fwd.jobs.length + ((endedDocs b allLines).map (fun d => d.plan.dests.length)).sum ≤ 256

/-- What a Restart has done once the restart effects of some lines have been applied (R99). -/
structure Progress (b u : State) (ns : List LineNo) : Prop where
  docs : DocsSoFar b u (endedDocs b ns)
  store : StoreSoFar b u ns (endedDocs b ns)
  memory : MemorySoFar b u (endedDocs b ns)
  joins : ∃ new, JobsJoin b u ((endedDocs b ns).flatMap landingTargets) new
  lines : ∀ m, m ∉ ns → lineAt u m = lineAt b m
  handed : u.callers.handed = b.callers.handed ++ ns.flatMap (classesOf b)
  tally : u.part.tally.map RestartTally.documentsLanded =
    b.part.tally.map (fun y => y.documentsLanded + (endedDocs b ns).countP (fun d => decide (d.pages ≠ [])))
  marks : Marked b u (restartMarks b u ns (endedDocs b ns))
  frame : u = { b with
    part := { b.part with tally := u.part.tally }, store := u.store, mem := u.mem, dram := u.dram
    dir := { b.dir with docs := u.dir.docs, ready := u.dir.ready }, lines := u.lines
    callers := { b.callers with handed := u.callers.handed }, fwd := u.fwd, journal := u.journal
    integrity := { b.integrity with exhausted := u.integrity.exhausted }, link := { b.link with notices := u.link.notices } }

section
variable {b u : State} {ns : List LineNo} {n : LineNo}

theorem RestartReady.document (h : RestartReady b) {x : Document} (mem : x ∈ endedDocs b ns) : findDoc b x.number = some x ∧
    (∃ m ∈ ns, x.line = m) ∧ ∀ e : Dept, x.number ∉ readyQueue b e := by
  obtain ⟨m, hm, call, document⟩ := mem_endedDocs mem
  obtain ⟨c, d, rx, number, record, -, line, -, unqueued, -⟩ := h.calls m call
  have same : callDocument b m = some d := by
    unfold callDocument; rw [rx, Option.bind_some, number]; exact record
  rw [same] at document
  obtain rfl := Option.some.inj document
  exact ⟨record, ⟨m, hm, line⟩, unqueued⟩

theorem progress_nil (h : RestartReady b) : Progress b b [] :=
  ⟨docsSoFar_nil b, storeSoFar_nil h.steady, memorySoFar_nil h.canonical, ⟨[], .none rfl⟩, fun _ _ => rfl, (List.append_nil _).symm,
    by cases b.part.tally <;> simp [endedDocs], (Marked.none rfl).congr (fun x => by cases x <;> simp [restartMarks, endedDocs]), rfl⟩

theorem landsOf_eq (s : State) (n : LineNo) (call : inReceiving (lineAt s n) = true) {d : Document} (document : callDocument s n = some d) :
    landsOf s n = [d].countP (fun d => decide (d.pages ≠ [])) := by
  have ends : (lineAt s n).endsCall = true := by
    unfold Line.endsCall; rw [call]; simpa using receiving_not_alerted call
  unfold landsOf
  rw [ends, document]
  by_cases empty : d.pages = [] <;> simp [empty]

theorem landsOf_none (s : State) (n : LineNo) (call : ¬ inReceiving (lineAt s n) = true) : landsOf s n = 0 := by
  unfold landsOf
  rw [if_neg]
  rintro ⟨ends, -⟩
  unfold Line.endsCall at ends
  rw [Bool.eq_false_iff.2 call] at ends
  simp at ends

theorem RestartReady.room_for (h : RestartReady b) {new : List Job}
    (joins : new.map Job.target = (endedDocs b ns).flatMap landingTargets) {d : Document} (listed : endedDocs b ns ++ [d] <+: endedDocs b allLines) :
    b.fwd.jobs.length + new.length + d.plan.dests.length ≤ 256 := by
  have targets : new.length ≤ ((endedDocs b ns).map (fun d => d.plan.dests.length)).sum := by
    have := congrArg List.length joins
    rw [List.length_map, List.length_flatMap] at this
    rw [this]
    exact List.sum_le_sum (fun x _ => landingTargets_length x)
  obtain ⟨rest, whole⟩ := listed
  have room := h.room
  rw [← whole] at room
  simp only [List.map_append, List.sum_append, List.map_cons, List.map_nil, List.sum_cons, List.sum_nil] at room
  omega

theorem endedDocs_prefix (h : ns <+: allLines) : endedDocs b ns <+: endedDocs b allLines := by
  obtain ⟨rest, whole⟩ := h
  refine ⟨endedDocs b rest, ?_⟩
  rw [← whole]
  unfold endedDocs
  rw [List.filter_append, List.filterMap_append]

/-- One line more, with a receiving call (R91, R99). -/
theorem Progress.call (h : RestartReady b) (p : Progress b u ns) (before : ns ++ [n] <+: allLines) (call : inReceiving (lineAt b n) = true) :
    Progress b (restartLine u n) (ns ++ [n]) := by
  obtain ⟨c, d, rx, number, record, account, line, plan, unqueued, held⟩ := h.calls n call
  have distinct : n ∉ ns := by
    have := (allLines_nodup.sublist before.sublist)
    rw [List.nodup_append] at this
    exact fun k => this.2.2 n k n (by simp) rfl
  have document : callDocument b n = some d := by
    unfold callDocument; rw [rx, Option.bind_some, number]; exact record
  have grown := endedDocs_call (ns := ns) call document
  have listed : endedDocs b ns ++ [d] <+: endedDocs b allLines := by rw [← grown]; exact endedDocs_prefix before
  have records (x : Document) (hx : x ∈ endedDocs b ns) := (h.document hx).1
  have queued (x : Document) (hx : x ∈ endedDocs b ns) := (h.document hx).2.2
  have apart : ∀ x ∈ endedDocs b ns, x.number ≠ d.number := by
    intro x hx same
    obtain ⟨found, ⟨m, hm, onLine⟩, -⟩ := h.document hx
    rw [same, record] at found
    obtain rfl := Option.some.inj found
    exact distinct (onLine.symm.trans line ▸ hm)
  obtain ⟨docs, store, memory, ⟨new, joins⟩, lines, handed, tally, marks, frame⟩ := p
  have clock : u.clock = b.clock := by rw [frame]
  have classes : u.link.classes = b.link.classes := by rw [frame]
  have here : lineAt u n = lineAt b n := lines n distinct
  have foundU : findDoc u d.number = some d := (docs.others d.number apart).trans record
  have documentU : callDocument u n = some d := by
    unfold callDocument; rw [here, rx, Option.bind_some, number]; exact foundU
  have fits : CallFits u n c d := by
    refine ⟨⟨by rw [frame]; exact h.quiet, foundU, fun hold => ?_, fun e => docs.unqueued apart (unqueued e)⟩, by rw [here]; exact rx, number, ?_,
      Steady.after store.pressure⟩
    · obtain ⟨some_plan, unplanned, undue⟩ := plan hold
      refine ⟨some_plan, unplanned, undue, ?_⟩
      rw [joins.jobs, List.length_append]
      exact h.room_for joins.targets listed
    · rw [store.allotments, if_neg (fun k => distinct k.1)]; exact account
  obtain ⟨more, ended⟩ := callEnded fits
  have lineEnd := lineAt_restartLine u n
  have tallied := restartLine_tally u n
  have step : restartLine u n = modTally (fun t => { t with
      callsEnded := t.callsEnded + 1
      documentsLanded := t.documentsLanded + (if (callDocument u n).any (fun d => !d.pages.isEmpty) then 1 else 0) })
      (endReceiving n .restart true u) := by
    unfold restartLine callDocument
    dsimp only
    rw [if_neg (receiving_not_alerted (by rw [here]; exact call)), if_pos (by rw [here]; exact call)]
  have same : restartLine u n = { endReceiving n .restart true u with part := (restartLine u n).part } := by rw [step]; rfl
  have part : (restartLine u n).part = { u.part with tally := (restartLine u n).part.tally } := by
    rw [step]; unfold modTally; dsimp only; rw [endReceiving_part]
  generalize restartLine u n = v at *
  have storeV := store.call ended.given h.steady distinct call
  have memoryV := memory.call ended.memory held (by
    obtain ⟨rest, whole⟩ := listed
    have := h.apart
    rw [← whole, List.flatMap_append] at this
    exact (List.nodup_append.1 this).1)
  have docsV := docs.call ended clock records queued record apart
  have marksV := marks_call marks classes store h.steady docs.journal ended.given call
  have joinsV := joins.trans ended.joins clock
  have handedV := ended.handed
  have frameV := ended.frame
  generalize endReceiving n .restart true u = w at *
  have others : v = { w with part := v.part } := same
  refine ⟨?_, ?_, ?_, ⟨new ++ more, ?_⟩, fun m hm => ?_, ?_, ?_, ?_, ?_⟩
  · rw [grown]; exact docsV.of_same (by rw [others]) (by rw [others])
  · rw [grown]
    rw [others]
    exact ⟨storeV.accounts, storeV.allotments, storeV.free, storeV.spares, storeV.pressure, storeV.exhausted⟩
  · rw [grown]; exact memoryV.of_same (by rw [others]) (by rw [others])
  · rw [grown, List.flatMap_append, List.flatMap_singleton]
    exact joinsV.of_same (by rw [others])
  · rw [lineEnd, if_neg (fun k => hm (by simp [k]))]
    exact lines m (fun k => hm (List.mem_append_left _ k))
  · have mine : classesOf b n = c.calling.toList.map (fun x => ⟨x, .neutral⟩) := by
      unfold classesOf; rw [if_pos call, rx]; rfl
    rw [List.flatMap_append, List.flatMap_singleton, mine, ← List.append_assoc, ← handed, ← handedV, others]
  · rw [tallied, Option.map_map, grown, List.countP_append, landsOf_eq u n (by rw [here]; exact call) documentU]
    cases hu : u.part.tally with
    | none =>
      rw [hu] at tally
      cases hb : b.part.tally with
      | none => rfl
      | some z => rw [hb] at tally; cases tally
    | some y =>
      rw [hu] at tally
      cases hb : b.part.tally with
      | none => rw [hb] at tally; cases tally
      | some z =>
        rw [hb] at tally
        have := Option.some.inj tally
        show some (y.documentsLanded + _) = some _
        rw [this, Nat.add_assoc]
  · rw [grown]
    have all := marksV
    refine (all.of_link (t' := v) rfl (by rw [others]) rfl).congr fun x => ?_
    have sameStore : v.store = w.store := by rw [others]
    have sameWhole : v.integrity = w.integrity := by rw [others]
    cases x <;> simp only [restartMarks, sameStore, sameWhole]
  · have partB : v.part = { b.part with tally := v.part.tally } := by rw [part, frame]
    have sames : v.store = w.store ∧ v.mem = w.mem ∧ v.dram = w.dram ∧ v.dir = w.dir ∧ v.lines = w.lines ∧ v.callers = w.callers ∧
        v.fwd = w.fwd ∧ v.journal = w.journal ∧ v.integrity = w.integrity ∧ v.link = w.link := by
      rw [others]; exact ⟨rfl, rfl, rfl, rfl, rfl, rfl, rfl, rfl, rfl, rfl⟩
    obtain ⟨e1, e2, e3, e4, e5, e6, e7, e8, e9, e10⟩ := sames
    rw [← partB, e1, e2, e3, e4, e5, e6, e7, e8, e9, e10]
    refine others.trans ?_
    conv_lhs => rw [frameV, frame]

/-- One line more, without a receiving call (R99). -/
theorem Progress.other (p : Progress b u ns) (before : ns ++ [n] <+: allLines) (call : ¬ inReceiving (lineAt b n) = true) :
    Progress b (restartLine u n) (ns ++ [n]) := by
  have distinct : n ∉ ns := by
    have := (allLines_nodup.sublist before.sublist)
    rw [List.nodup_append] at this
    exact fun k => this.2.2 n k n (by simp) rfl
  obtain ⟨docs, store, memory, ⟨new, joins⟩, lines, handed, tally, marks, frame⟩ := p
  have classes : u.link.classes = b.link.classes := by rw [frame]
  have here : lineAt u n = lineAt b n := lines n distinct
  obtain ⟨handedV, marked, frameV⟩ := linePassed (s := u) (n := n) (by rw [here]; exact call)
  have lineEnd := lineAt_restartLine u n
  have tallied := restartLine_tally u n
  have grown := endedDocs_other (ns := ns) call
  rw [here] at marked
  generalize restartLine u n = v at *
  refine ⟨?_, ?_, ?_, ⟨new, ?_⟩, fun m hm => ?_, ?_, ?_, ?_, ?_⟩
  · rw [grown]; exact docs.of_same (by rw [frameV]) (by rw [frameV])
  · rw [grown]; exact store.other (by rw [frameV]) (by rw [frameV]) call
  · rw [grown]; exact memory.of_same (by rw [frameV]) (by rw [frameV])
  · rw [grown]; exact joins.of_same (by rw [frameV])
  · rw [lineEnd, if_neg (fun k => hm (by simp [k]))]
    exact lines m (fun k => hm (List.mem_append_left _ k))
  · have mine : classesOf u n = classesOf b n := by unfold classesOf; rw [here]
    rw [handedV, handed, mine, List.flatMap_append, List.flatMap_singleton, List.append_assoc]
  · rw [tallied, Option.map_map, grown, landsOf_none u n (by rw [here]; exact call), ← tally]
    cases u.part.tally <;> rfl
  · rw [grown]
    exact marks_other marks classes marked (by rw [frameV]) (by rw [frameV]) call
  · refine frameV.trans ?_
    have others : v.store = u.store ∧ v.mem = u.mem ∧ v.dram = u.dram ∧ v.dir = u.dir ∧ v.fwd = u.fwd ∧ v.journal = u.journal ∧
        v.integrity = u.integrity := by rw [frameV]; exact ⟨rfl, rfl, rfl, rfl, rfl, rfl, rfl⟩
    obtain ⟨e1, e2, e3, e4, e5, e6, e7⟩ := others
    rw [e1, e2, e3, e4, e5, e6, e7]
    conv_lhs => rw [frame]

/-- All the lines' restart effects (R99). -/
theorem progress (h : RestartReady b) (before : ns <+: allLines) : Progress b (ns.foldl restartLine b) ns := by
  induction ns using List.reverseRecOn with
  | nil => exact progress_nil h
  | append_singleton ns n ih =>
    have p := ih ((List.prefix_append ns [n]).trans before)
    rw [List.foldl_append]
    by_cases call : inReceiving (lineAt b n) = true
    · exact p.call h before call
    · exact p.other before call

end

end Sys2Proof.Machine
end

section
/-! The documents that a Restart returns to their ready queues (R166), and the state in which the calls end. -/

namespace Sys2Proof.Machine

open Sys2Proof

/-! ## Documents that become DUE -/

/-- A document outside its ready queue becomes DUE while no Collect waits (R37, R39). -/
structure DueQuietly (s t : State) (d : Document) : Prop where
  numbers : t.dir.docs.map (fun e => e.number) = s.dir.docs.map (fun e => e.number)
  queues : ∀ e : Dept, readyQueue t e = if e = d.dept then joinQueue s d (readyQueue s e) else readyQueue s e
  marked : Marked s t (fun x => x = .department d.dept)
  frame : t = { s with dir := { s.dir with docs := t.dir.docs, ready := t.dir.ready }, link := { s.link with notices := t.link.notices } }

theorem becomeDue_quietly {s : State} {d : Document} (quiet : s.collect.queue = []) (found : findDoc s d.number = some d)
    (unqueued : d.number ∉ readyQueue s d.dept) : DueQuietly s (becomeDue d.number s) d := by
  have record := findDoc_modDoc_self (f := fun e => { e with disposition := .due }) found (fun _ => rfl)
  have away := modDoc_others d.number (fun e => { e with disposition := .due }) (fun _ => rfl) s
  have urgency := isUrgent_modDoc d.number (fun e => { e with disposition := .due }) (fun _ => rfl) (fun _ => rfl) s
  have outside : (readyQueue (modDoc d.number (fun e => { e with disposition := .due }) s) d.dept).contains d.number = false := by
    show (readyQueue s d.dept).contains d.number = false
    simpa using unqueued
  unfold becomeDue
  rw [joinReady_empty (by exact quiet) record]
  dsimp only
  rw [outside]
  refine ⟨away.2, fun e => ?_, (mark_marked (.department d.dept) _).of_link rfl rfl rfl, rfl⟩
  show readyQueue (setReady d.dept _ _) e = _
  rw [readyQueue_setReady]
  by_cases he : e = d.dept
  · rw [if_pos he, if_pos he, he]; exact joinQueue_congr urgency _ _
  · rw [if_neg he, if_neg he]; rfl

/-- Some documents outside their ready queues have become DUE while no Collect waits. -/
structure AllDue (s t : State) (l : List Nat) : Prop where
  numbers : t.dir.docs.map (fun e => e.number) = s.dir.docs.map (fun e => e.number)
  records : ∀ m, findDoc t m = (findDoc s m).map (fun d => if m ∈ l then { d with disposition := .due } else d)
  queues : ∀ (e : Dept) (k : Bool), (readyQueue t e).filter (fun m => isUrgent s m == k) =
    (readyQueue s e).filter (fun m => isUrgent s m == k) ++
      l.filter (fun m => (findDoc s m).any (fun d => decide (d.dept = e)) && isUrgent s m == k)
  marked : Marked s t (fun x => ∃ m ∈ l, ∃ d, findDoc s m = some d ∧ x = .department d.dept)
  frame : t = { s with dir := { s.dir with docs := t.dir.docs, ready := t.dir.ready }, link := { s.link with notices := t.link.notices } }

theorem AllDue.urgent {s t : State} {l : List Nat} (h : AllDue s t l) (m : Nat) : isUrgent t m = isUrgent s m := by
  unfold isUrgent
  rw [h.records]
  cases findDoc s m with
  | none => rfl
  | some d => by_cases mem : m ∈ l <;> simp [mem]

theorem AllDue.queued {s t : State} {l : List Nat} (h : AllDue s t l) {e : Dept} {m : Nat} (mem : m ∈ readyQueue t e) :
    m ∈ readyQueue s e ∨ m ∈ l := by
  have listed : m ∈ (readyQueue t e).filter (fun x => isUrgent s x == isUrgent s m) := List.mem_filter.2 ⟨mem, by simp⟩
  rw [h.queues, List.mem_append] at listed
  exact listed.imp (fun k => (List.mem_filter.1 k).1) (fun k => (List.mem_filter.1 k).1)

theorem allDue {s : State} {l : List Nat} (quiet : s.collect.queue = []) (distinct : l.Nodup)
    (fits : ∀ m ∈ l, (findDoc s m).isSome ∧ ∀ e : Dept, m ∉ readyQueue s e) : AllDue s (dueAll l s) l := by
  induction l using List.reverseRecOn with
  | nil =>
    exact ⟨rfl, fun m => by show findDoc s m = _; cases findDoc s m <;> simp, fun e k => by simp [dueAll],
      (Marked.none rfl).congr (by simp), rfl⟩
  | append_singleton l n ih =>
    obtain ⟨distinct, -, apart⟩ := List.nodup_append.1 distinct
    have new : n ∉ l := fun k => apart n k n (by simp) rfl
    have before := ih distinct (fun m hm => fits m (List.mem_append_left _ hm))
    have records := fun m => findDoc_dueAll (l ++ [n]) (s := s) m quiet
    obtain ⟨held, unqueued⟩ := fits n (by simp)
    obtain ⟨d, found⟩ := Option.isSome_iff_exists.1 held
    obtain rfl := findDoc_number found
    have step : dueAll (l ++ [d.number]) s = becomeDue d.number (dueAll l s) := by unfold dueAll; rw [List.foldl_append]; rfl
    have urgent := before.urgent
    have queued {e : Dept} (mem : d.number ∈ readyQueue (dueAll l s) e) := before.queued mem
    obtain ⟨numbers, earlier, queues, marked, frame⟩ := before
    rw [step] at records ⊢
    generalize dueAll l s = u at *
    have foundU : findDoc u d.number = some d := by rw [earlier, found, Option.map_some, if_neg new]
    obtain ⟨numbersV, queuesV, markedV, frameV⟩ := becomeDue_quietly (by rw [frame]; exact quiet) foundU
      (fun k => (queued k).elim (unqueued _) new)
    generalize becomeDue d.number u = v at *
    refine ⟨numbersV.trans numbers, records, fun e k => ?_, ?_, ?_⟩
    · have own : isUrgent s d.number = (d.priority == .urgent) := by unfold isUrgent; rw [found]
      rw [queuesV, List.filter_append, ← List.append_assoc, ← queues]
      by_cases he : e = d.dept
      · rw [if_pos he, filter_joinQueue (p := isUrgent s) (fun m _ => urgent m) own]
        simp [found, he, List.filter_singleton]
      · rw [if_neg he]
        simp [found, Ne.symm he]
    · refine (marked.trans markedV (by rw [frame])).congr fun x => ?_
      constructor
      · rintro (⟨m, hm, rest⟩ | rfl)
        · exact ⟨m, List.mem_append_left _ hm, rest⟩
        · exact ⟨d.number, by simp, d, found, rfl⟩
      · rintro ⟨m, hm, e, he, rfl⟩
        rcases List.mem_append.1 hm with hm | hm
        · exact .inl ⟨m, hm, e, he, rfl⟩
        · obtain rfl := List.mem_singleton.1 hm
          rw [found] at he
          obtain rfl := Option.some.inj he
          exact .inr rfl
    · rw [frameV, frame]

/-! ## The calls -/

section
variable {s b : State}

/-- The offers of a part that has run by the manual have been withdrawn (R166). -/
theorem returned_allDue (tag : Byte) (h : RestartFits s) : AllDue (cleared tag s) (dueAll (returnedDocs s) (cleared tag s)) (returnedDocs s) :=
  allDue rfl h.returned.1 (fun m hm => by
    obtain ⟨d, found, -, unqueued⟩ := h.returned.2 m hm
    exact ⟨Option.isSome_iff_exists.2 ⟨d, found⟩, unqueued⟩)

/-- The document of a call is not on offer, nor in transfer. -/
theorem call_not_returned (h : RestartFits s) {n : LineNo} {x : Document} (call : inReceiving (lineAt s n) = true)
    (document : callDocument s n = some x) : x.number ∉ returnedDocs s := by
  intro mem
  obtain ⟨d, found, life, -⟩ := h.returned.2 _ mem
  obtain ⟨c, e, rx, fits, landing, -⟩ := h.calls n (List.mem_filter.2 ⟨List.mem_finRange n, call⟩)
  have same : callDocument s n = some e := by
    unfold callDocument; rw [rx, Option.bind_some, fits.document]; exact fits.record
  rw [document] at same
  obtain rfl := Option.some.inj same
  rw [fits.record] at found
  obtain rfl := Option.some.inj found
  rw [landing] at life
  cases life

theorem callDocument_fits (h : RestartFits s) {n : LineNo} (call : inReceiving (lineAt s n) = true) : ∃ c d, rxOf (lineAt s n) = some c ∧
    RxFits s n c d ∧ d.life = .landing ∧ d.line = n ∧ d.verifying = false ∧ (∀ e : Dept, d.number ∉ readyQueue s e) ∧
    (∀ l, d.landing = some l → l.held.length = l.length % 8) ∧ callDocument s n = some d := by
  obtain ⟨c, d, rx, fits, landing, line, idle, unqueued, held⟩ := h.calls n (List.mem_filter.2 ⟨List.mem_finRange n, call⟩)
  refine ⟨c, d, rx, fits, landing, line, idle, unqueued, held, ?_⟩
  unfold callDocument; rw [rx, Option.bind_some, fits.document]; exact fits.record

theorem endedDocs_returned {tag : Byte} (h : RestartFits s) (due : AllDue (cleared tag s) b (returnedDocs s)) :
    endedDocs b allLines = callDocuments s := by
  have lines (n : LineNo) : lineAt b n = lineAt s n := by rw [due.frame]; rfl
  unfold endedDocs callDocuments receivingLines
  simp only [lines]
  refine List.filterMap_congr fun n hn => ?_
  obtain ⟨c, d, rx, fits, -, -, -, -, -, document⟩ := callDocument_fits h (List.mem_filter.1 hn).2
  have away := call_not_returned h (List.mem_filter.1 hn).2 document
  have found : findDoc b d.number = some d := by
    rw [due.records, show findDoc (cleared tag s) d.number = some d from fits.record, Option.map_some, if_neg away]
  rw [document]
  unfold callDocument
  rw [lines, rx, Option.bind_some, fits.document]
  exact found

theorem restartReady {tag : Byte} (h : RestartFits s) (due : AllDue (cleared tag s) b (returnedDocs s)) : RestartReady b := by
  have documents := endedDocs_returned h due
  have lines (n : LineNo) : lineAt b n = lineAt s n := by rw [due.frame]; rfl
  have store : b.store = s.store := by rw [due.frame]; rfl
  have quiet : b.collect.queue = [] := by rw [due.frame]; rfl
  have fwd : b.fwd = s.fwd := by rw [due.frame]; rfl
  have mem : b.mem = s.mem := by rw [due.frame]; rfl
  refine ⟨quiet, ?_, ?_, fun n call => ?_, ?_, ?_⟩
  · unfold Steady; rw [pressureAfter_of_store store, store]; exact h.pressure
  · unfold MemoryCanonical; rw [mem]; exact h.memory
  · rw [lines] at call
    obtain ⟨c, d, rx, fits, -, line, -, unqueued, held, document⟩ := callDocument_fits h call
    have away := call_not_returned h call document
    refine ⟨c, d, by rw [lines]; exact rx, fits.document, ?_, ?_, line, fun hold => ?_, fun e k => ?_, held⟩
    · rw [due.records, show findDoc (cleared tag s) d.number = some d from fits.record, Option.map_some, if_neg away]
    · unfold allotment; rw [store]; exact fits.account
    · obtain ⟨plan, unplanned, undue, -, -⟩ := fits.plan hold
      exact ⟨plan, unplanned, undue⟩
    · exact (due.queued k).elim (unqueued e) away
  · rw [documents]; exact h.apart
  · rw [documents, fwd]; exact h.room

end

end Sys2Proof.Machine
end

section
/-! The end of a Restart of a part that has run by the manual (O38). -/

namespace Sys2Proof.Machine

open Sys2Proof

/-! ## Verifications and forwarding -/

theorem purgeAllPassed_none {ns : List Nat} {s : State} (h : ∀ n ∈ ns, ∀ d x, findDoc s n = some d → d.life = .settled →
    d.deadline = some x → s.clock.run < x) : purgeAllPassed ns s = s := by
  induction ns with
  | nil => rfl
  | cons n ns ih =>
    have stays : purgeIfPassed n s = s := by
      unfold purgeIfPassed
      split
      · rfl
      · rename_i d found
        split
        · rfl
        · rename_i x deadline
          exact if_neg (fun k => absurd (h n (by simp) d x found k.1 deadline) (Nat.not_lt.2 k.2.1))
    show purgeAllPassed ns (purgeIfPassed n s) = s
    rw [stays]
    exact ih (fun m hm => h m (List.mem_cons_of_mem _ hm))

theorem unverifyAll_frame (ns : List Nat) (s : State) : unverifyAll ns s = { s with dir := { s.dir with docs := (unverifyAll ns s).dir.docs } } ∧
    (unverifyAll ns s).dir.docs.map (fun e => e.number) = s.dir.docs.map (fun e => e.number) := by
  unfold unverifyAll
  induction ns generalizing s with
  | nil => exact ⟨rfl, rfl⟩
  | cons n ns ih =>
    obtain ⟨frame, numbers⟩ := ih (modDoc n (fun d => { d with verifying := false }) s)
    exact ⟨frame, numbers.trans (modDoc_others n (fun d => { d with verifying := false }) (fun _ => rfl) s).2⟩

/-- Verifications have ended with no purge, and forwarding is suspended (R51, R142). -/
structure Finished (u t : State) : Prop where
  records : ∀ m, findDoc t m = (findDoc u m).map
    (fun d => { d with verifying := d.verifying && !decide (m ∈ u.dir.verifications.map Verification.doc) })
  numbers : t.dir.docs.map (fun e => e.number) = u.dir.docs.map (fun e => e.number)
  landed : t.part.tally.map RestartTally.documentsLanded = u.part.tally.map RestartTally.documentsLanded
  marked : Marked u t (fun x => x = .forward)
  frame : t = { u with
    part := t.part, dir := { u.dir with docs := t.dir.docs, verifications := [] }
    fwd := { u.fwd with jobs := u.fwd.jobs.map (Job.interruptedAt u.clock.run), suspended := true, handed := [] }
    link := { u.link with notices := t.link.notices } }

theorem finished {u : State} (h : ∀ n ∈ u.dir.verifications.map Verification.doc, ∀ d x, findDoc u n = some d → d.life = .settled →
    d.deadline = some x → u.clock.run < x) : Finished u (restartForwarding (restartVerifications u)) := by
  obtain ⟨frame, numbers⟩ := unverifyAll_frame (u.dir.verifications.map Verification.doc) (verificationsDropped u)
  have records := findDoc_unverifyAll (u.dir.verifications.map Verification.doc) (verificationsDropped u)
  have course : restartVerifications u = unverifyAll (u.dir.verifications.map Verification.doc) (verificationsDropped u) := by
    rw [restartVerifications_eq]
    refine purgeAllPassed_none fun n hn d x found settled deadline => ?_
    rw [records, Option.map_eq_some_iff] at found
    obtain ⟨e, found, rfl⟩ := found
    rw [frame]
    exact h n hn e x found settled deadline
  rw [course, restartForwarding_eq]
  generalize unverifyAll (u.dir.verifications.map Verification.doc) (verificationsDropped u) = v at *
  have fwd : v.fwd = u.fwd := by rw [frame]; rfl
  have clock : v.clock = u.clock := by rw [frame]; rfl
  have link : v.link = u.link := by rw [frame]; rfl
  have part : v.part = (verificationsDropped u).part := by rw [frame]
  refine ⟨records, numbers, ?_, ?_, ?_⟩
  · show v.part.tally.map _ = _
    rw [part]
    unfold verificationsDropped modTally
    dsimp only
    rw [Option.map_map]; rfl
  · exact (mark_marked .forward _).of_link (by rw [← link]) rfl (by rw [← link])
  · rw [fwd, clock]
    unfold mark
    dsimp only
    rw [link]
    generalize hp : v.part = pv
    conv_lhs => rw [frame]
    rw [← hp, part]
    rfl

/-! ## What is left -/

section
variable {s b u t : State} {tag : Byte}

/-- The deadlines of verified documents have not passed when the calls have ended. -/
theorem deadlines_ahead (h : RestartFits s) (due : AllDue (cleared tag s) b (returnedDocs s)) (p : Progress b u allLines) :
    ∀ n ∈ u.dir.verifications.map Verification.doc, ∀ d x, findDoc u n = some d → d.life = .settled → d.deadline = some x →
      u.clock.run < x := by
  intro n hn d x found settled deadline
  have documents := endedDocs_returned h due
  have verifications : u.dir.verifications = s.dir.verifications := by rw [p.frame, due.frame]; rfl
  have clock : u.clock = s.clock := by rw [p.frame, due.frame]; rfl
  rw [verifications] at hn
  obtain ⟨v, hv, rfl⟩ := List.mem_map.1 hn
  rw [clock]
  by_cases call : ∃ y ∈ endedDocs b allLines, y.number = v.doc
  · obtain ⟨y, hy, number⟩ := call
    exfalso
    by_cases full : y.pages = []
    · have held : v.doc ∈ u.dir.docs.map (fun e => e.number) := by
        rw [← findDoc_number found]
        exact List.mem_map_of_mem (List.mem_of_find?_eq_some found)
      rw [p.docs.numbers, List.mem_filter] at held
      exact of_decide_eq_true held.2 y hy full number
    · obtain ⟨front, back, split⟩ := List.append_of_mem hy
      have landed := p.docs.landed front y back split full
      rw [number, found] at landed
      obtain rfl := Option.some.inj landed
      unfold landedRecord at settled
      split at settled <;> cases settled
  · have same : findDoc u v.doc = findDoc b v.doc := p.docs.others v.doc (fun y hy k => call ⟨y, hy, k⟩)
    rw [same, due.records, Option.map_eq_some_iff] at found
    obtain ⟨e, found, rfl⟩ := found
    refine h.deadlines v hv e found x ?_
    split at deadline <;> exact deadline

theorem receiptsOf_returned (due : AllDue (cleared tag s) b (returnedDocs s)) (D : List Document) : receiptsOf b D = receiptsOf s D := by
  have journal : b.journal = s.journal := by rw [due.frame]; rfl
  have clock : b.clock = s.clock := by rw [due.frame]; rfl
  unfold receiptsOf
  rw [journal, clock]

theorem restarted_landed (h : RestartFits s) (due : AllDue (cleared tag s) b (returnedDocs s)) (p : Progress b u allLines) (f : Finished u t)
    {front back : List Document} {d : Document} (split : callDocuments s = front ++ d :: back) (full : d.pages ≠ []) :
    findDoc t d.number = some (landedRecord { s with journal := receiptsOf s front } d) := by
  have documents := endedDocs_returned h due
  have clock : b.clock = s.clock := by rw [due.frame]; rfl
  rw [f.records, p.docs.landed front d back (documents.trans split) full, Option.map_some]
  have same : landedRecord { b with journal := receiptsOf b front } d = landedRecord { s with journal := receiptsOf s front } d :=
    landedRecord_congr (s := { s with journal := receiptsOf s front }) (t := { b with journal := receiptsOf b front })
      (receiptsOf_returned due front) clock d
  have mem : d ∈ callDocuments s := by rw [split]; simp
  obtain ⟨n, hn, document⟩ := List.mem_filterMap.1 mem
  obtain ⟨c, e, -, -, -, -, idle, -, -, document'⟩ := callDocument_fits h (List.mem_filter.1 hn).2
  rw [document] at document'
  obtain rfl := Option.some.inj document'
  have still : (landedRecord { s with journal := receiptsOf s front } d).verifying = false := by
    unfold landedRecord; split <;> exact idle
  rw [same]
  generalize landedRecord { s with journal := receiptsOf s front } d = r at still
  rw [still, Bool.false_and, ← still]

theorem restarted_numbers (h : RestartFits s) (due : AllDue (cleared tag s) b (returnedDocs s)) (p : Progress b u allLines) (f : Finished u t) :
    t.dir.docs.map (fun d => d.number) = (s.dir.docs.filter (fun d =>
      decide (¬ (d.pages = [] ∧ ∃ x ∈ callDocuments s, x.number = d.number)))).map (fun d => d.number) := by
  have before : b.dir.docs.map (fun d => d.number) = s.dir.docs.map (fun d => d.number) := due.numbers
  rw [f.numbers, p.docs.numbers, before, endedDocs_returned h due, List.filter_map]
  congr 1
  refine List.filter_congr fun e he => ?_
  rw [Function.comp_apply, decide_eq_decide]
  have own {x : Document} (hx : x ∈ callDocuments s) (number : x.number = e.number) : x = e := by
    obtain ⟨n, -, document⟩ := List.mem_filterMap.1 hx
    exact List.inj_on_of_nodup_map h.numbers (List.mem_of_find?_eq_some (callDocument_record document)) he number
  constructor
  · rintro k ⟨empty, x, hx, number⟩
    exact k x hx (by rw [own hx number]; exact empty) number
  · intro k x hx empty number
    exact k ⟨by rw [← own hx number]; exact empty, x, hx, number⟩

theorem restarted_others (h : RestartFits s) (due : AllDue (cleared tag s) b (returnedDocs s)) (p : Progress b u allLines) (f : Finished u t)
    {m : Nat} {d : Document} (found : findDoc s m = some d) (apart : ∀ x ∈ callDocuments s, x.number ≠ m) : findDoc t m = some { d with
      disposition := if m ∈ returnedDocs s then .due else d.disposition
      verifying := d.verifying && decide (∀ v ∈ s.dir.verifications, v.doc ≠ m) } := by
  have verifications : u.dir.verifications = s.dir.verifications := by rw [p.frame, due.frame]; rfl
  have idle : (!decide (m ∈ s.dir.verifications.map Verification.doc)) = decide (∀ v ∈ s.dir.verifications, v.doc ≠ m) := by
    rw [← decide_not, decide_eq_decide, List.mem_map, not_exists]
    exact forall_congr' fun v => not_and
  rw [f.records, p.docs.others m (by rw [endedDocs_returned h due]; exact apart), due.records,
    show findDoc (cleared tag s) m = some d from found, Option.map_some, Option.map_some, verifications, idle]
  by_cases mem : m ∈ returnedDocs s
  · rw [if_pos mem, if_pos mem]
  · rw [if_neg mem, if_neg mem]

theorem restarted_queues (h : RestartFits s) (due : AllDue (cleared tag s) b (returnedDocs s)) (p : Progress b u allLines) (f : Finished u t)
    (e : Dept) (k : Bool) : (readyQueue t e).filter (fun m => isUrgent t m == k) = (readyQueue s e).filter (fun m => isUrgent s m == k) ++
      ((returnedDocs s ++ ((callDocuments s).filter (fun d => decide (d.pages ≠ []) && !d.plan.hold && d.plan.collect)).map
        (fun d => d.number)).filter (fun m => (findDoc s m).any (fun d => decide (d.dept = e)) && isUrgent s m == k)) := by
  have documents := endedDocs_returned h due
  have ready := restartReady h due
  have queue : readyQueue t e = readyQueue u e := by unfold readyQueue; rw [f.frame]
  have urgentB (m : Nat) : isUrgent b m = isUrgent s m := due.urgent m
  have urgentT (m : Nat) : isUrgent t m = isUrgent u m := by
    unfold isUrgent; rw [f.records]; cases findDoc u m <;> rfl
  have dept (m : Nat) : (findDoc b m).any (fun d => decide (d.dept = e)) = (findDoc s m).any (fun d => decide (d.dept = e)) := by
    rw [due.records, show findDoc (cleared tag s) m = findDoc s m from rfl]
    cases findDoc s m with
    | none => rfl
    | some d => by_cases mem : m ∈ returnedDocs s <;> simp [mem]
  have joins : Document.joinsQueue = fun d => decide (d.pages ≠ []) && !d.plan.hold && d.plan.collect := by
    funext d; unfold Document.joinsQueue; cases d.pages <;> rfl
  have member {m : Nat} (mem : m ∈ readyQueue u e) : isUrgent t m = isUrgent s m := by
    rw [urgentT, p.docs.urgent (fun x hx => (ready.document hx).1) (fun x hx => (ready.document hx).2.2) mem, urgentB]
  have calls := p.docs.queues e k
  have returned := due.queues e k
  simp only [urgentB, dept, documents, joins] at calls
  rw [queue, List.filter_congr (q := fun m => isUrgent s m == k) (fun m hm => by rw [member hm]), calls, List.filter_append,
    ← List.append_assoc]
  exact congrArg (· ++ _) returned

theorem landingTargets_flatMap (D : List Document) : D.flatMap landingTargets =
    (D.filter (fun d => decide (d.pages ≠ []) && !d.plan.hold)).flatMap planTargets := by
  induction D with
  | nil => rfl
  | cons d D ih =>
    rw [List.flatMap_cons, ih, List.filter_cons]
    unfold landingTargets
    cases empty : d.pages <;> cases hold : d.plan.hold <;> simp

theorem Job.isNew.interruptedAt {run : Nat} {j : Job} (h : j.isNew run) : j.interruptedAt run = j := by
  obtain ⟨idle, -, -, -, -⟩ := h
  unfold Job.interruptedAt
  rw [idle]
  obtain ⟨_, _, _, _, _, _, _, _, _, _⟩ := j
  simp only at idle
  rw [idle]; rfl

theorem restarted_jobs (h : RestartFits s) (due : AllDue (cleared tag s) b (returnedDocs s)) (p : Progress b u allLines) (f : Finished u t) :
    ∃ new : List Job, t.fwd.jobs = s.fwd.jobs.map (Job.interruptedAt s.clock.run) ++ new ∧
      new.map Job.target = ((callDocuments s).filter (fun d => decide (d.pages ≠ []) && !d.plan.hold)).flatMap planTargets ∧
      (∀ j ∈ new, j.isNew s.clock.run) ∧ t.fwd.runOwed = (s.fwd.runOwed || decide (new ≠ [])) := by
  have fwd : b.fwd = s.fwd := by rw [due.frame]; rfl
  have clockB : b.clock = s.clock := by rw [due.frame]; rfl
  have clockU : u.clock = s.clock := by rw [p.frame, due.frame]; rfl
  obtain ⟨new, jobs, targets, fresh, frame⟩ := p.joins
  rw [endedDocs_returned h due, landingTargets_flatMap] at targets
  rw [fwd] at jobs frame
  rw [clockB] at fresh
  refine ⟨new, ?_, targets, fresh, ?_⟩
  · rw [f.frame]
    show u.fwd.jobs.map _ = _
    rw [clockU, jobs, List.map_append]
    congr 1
    exact (List.map_congr_left (fun j hj => (fresh j hj).interruptedAt)).trans (List.map_id _)
  · rw [f.frame]
    show u.fwd.runOwed = _
    rw [frame]

theorem restarted_marks (h : RestartFits s) (due : AllDue (cleared tag s) b (returnedDocs s)) (p : Progress b u allLines) (f : Finished u t)
    (x : Subject) : x ∈ t.link.notices ↔ s.link.classes.enables x = true ∧
      ((∃ m ∈ returnedDocs s, ∃ d, findDoc s m = some d ∧ x = .department d.dept) ∨ restartMarks s t allLines (callDocuments s) x ∨
        x = .forward) := by
  have classesB : b.link.classes = s.link.classes := by rw [due.frame]; rfl
  have classesU : u.link.classes = s.link.classes := by rw [p.frame, due.frame]; rfl
  have lines (n : LineNo) : lineAt b n = lineAt s n := by rw [due.frame]; rfl
  have store : b.store = s.store := by rw [due.frame]; rfl
  have whole : b.integrity = s.integrity := by rw [due.frame]; rfl
  have journal : b.journal = s.journal := by rw [due.frame]; rfl
  have storeT : t.store = u.store := by rw [f.frame]
  have wholeT : t.integrity = u.integrity := by rw [f.frame]
  have same : restartMarks b u allLines (callDocuments s) x ↔ restartMarks s t allLines (callDocuments s) x := by
    cases x <;> simp only [restartMarks, lines, store, whole, journal, storeT, wholeT]
  have first := due.marked.2 x
  have second := p.marks.2 x
  rw [endedDocs_returned h due, same, classesB] at second
  rw [f.marked.2 x, second, first, classesU]
  have none : x ∉ (cleared tag s).link.notices := List.not_mem_nil
  have classes : (cleared tag s).link.classes = s.link.classes := rfl
  have records (m : Nat) : findDoc (cleared tag s) m = findDoc s m := rfl
  simp only [none, false_or, classes, records]
  rw [← and_or_left, ← and_or_left, or_assoc]

/-- What a Restart leaves of a part that has run by the manual (R28, R99, R166). -/
theorem restarted_of (h : RestartFits s) (due : AllDue (cleared tag s) b (returnedDocs s)) (p : Progress b u allLines) (f : Finished u t) :
    Restarted s t := by
  have documents := endedDocs_returned h due
  have lines (n : LineNo) : lineAt b n = lineAt s n := by rw [due.frame]; rfl
  have storeB : b.store = s.store := by rw [due.frame]; rfl
  have acctB (e : Dept) : acct b e = acct s e := by unfold acct; rw [storeB]
  have allotB (n : LineNo) : allotment b n = allotment s n := by unfold allotment; rw [storeB]
  have memB : b.mem = s.mem := by rw [due.frame]; rfl
  have dramB : b.dram = s.dram := by rw [due.frame]; rfl
  have storeT : t.store = u.store := by rw [f.frame]
  have memT : t.mem = u.mem := by rw [f.frame]
  have dramT : t.dram = u.dram := by rw [f.frame]
  have receiving : receivingOf b allLines = receivingLines s := by unfold receivingOf receivingLines; simp only [lines]
  obtain ⟨accounts, allotments, free, spares, pressure, -⟩ := p.store
  obtain ⟨-, groups, bytes, draws, faults⟩ := p.memory
  rw [documents] at accounts free groups bytes faults
  obtain ⟨new, jobs, targets, fresh, owed⟩ := restarted_jobs h due p f
  refine
    { journal := ?_, numbers := restarted_numbers h due p f, landed := fun front d back split full => ?_
      others := fun m d found apart => restarted_others h due p f found apart, queues := restarted_queues h due p f
      accounts := fun e => ?_, allotments := fun n => ?_, free := ?_, spares := ?_, pressure := ?_, groups := ?_, bytes := ?_, dram := ?_
      jobs := ⟨new, jobs, targets, fresh, owed⟩, handed := ?_, tally := ?_, marks := fun x => ?_, frame := ?_ }
  · rw [← receiptsOf_returned due, ← documents, ← p.docs.journal, f.frame]
  · exact restarted_landed h due p f split full
  · rw [acct_congr (congrArg PageStore.accounts storeT), accounts, acctB, receiving]
    simp only [allotB]
    rfl
  · have := allotments n
    rw [lines, allotB] at this
    rw [show allotment t n = allotment u n by unfold allotment; rw [storeT], this]
    simp [allLines]
  · rw [storeT, ← storeB]; exact free
  · rw [storeT, ← storeB]; exact spares
  · rw [pressureAfter_of_store storeT, storeT, ← storeB]; exact pressure
  · rw [memT]; exact groups
  · rw [memT, ← memB]; exact bytes
  · rw [dramT, ← dramB]; exact ⟨draws, faults⟩
  · have callersB : b.callers = s.callers := by rw [due.frame]; rfl
    have callersT : t.callers = u.callers := by rw [f.frame]
    have classes : classesOf b = classesOf s := by funext n; unfold classesOf; rw [lines]
    rw [callersT, p.handed, callersB, classes]
    rfl
  · have start : b.part.tally = (cleared tag s).part.tally := by rw [due.frame]
    rw [f.landed, p.tally, start, documents]
    show some (0 + _) = _
    rw [Nat.zero_add]
  · rw [restarted_marks h due p f x]
    refine and_congr_right fun _ => ?_
    cases x with
    | department e => simp only [restartMarks, Subject.department.injEq, reduceCtorEq, or_false, eq_comm (a := e)]
    | line n => simp [restartMarks, allLines]
    | store => simp [restartMarks]
    | journal => simp [restartMarks]
    | integrity => simp [restartMarks]
    | forward => simp
  · obtain ⟨more, -, -, -, fwdU⟩ := p.joins
    have whole : t = { s with
        part := t.part, store := t.store, lines := t.lines, mem := t.mem, dram := t.dram, journal := t.journal, integrity := t.integrity
        callers := t.callers, dir := t.dir, fwd := t.fwd, collect := t.collect, link := t.link } := by
      have kept : t.pending = s.pending ∧ t.clock = s.clock ∧ t.policy = s.policy ∧ t.routes = s.routes := by
        rw [f.frame, p.frame, due.frame]; exact ⟨rfl, rfl, rfl, rfl⟩
      obtain ⟨e1, e2, e3, e4⟩ := kept
      rw [← e1, ← e2, ← e3, ← e4]
    have fwdT : t.fwd = { s.fwd with
        jobs := t.fwd.jobs, nextJob := t.fwd.nextJob, suspended := true, handed := [], runOwed := t.fwd.runOwed } := by
      have fwdB : b.fwd = s.fwd := by rw [due.frame]; rfl
      rw [f.frame, fwdU, fwdB]
    have integrityT : t.integrity = { s.integrity with exhausted := t.integrity.exhausted } := by
      rw [f.frame, p.frame, due.frame]; rfl
    have callersT : t.callers = { s.callers with handed := t.callers.handed } := by
      rw [f.frame, p.frame, due.frame]; rfl
    have dirT : t.dir = { s.dir with docs := t.dir.docs, ready := t.dir.ready, verifications := [] } := by
      rw [f.frame, p.frame, due.frame]; rfl
    have collectT : t.collect = { s.collect with queue := [], offers := [], transfer := none } := by
      rw [f.frame, p.frame, due.frame]; rfl
    have linkT : t.link = { s.link with
        intake := [], notices := t.link.notices, holdNotices := true, waiting := t.link.waiting } := by
      rw [f.frame, p.frame, due.frame]; rfl
    rw [← fwdT, ← integrityT, ← callersT, ← dirT, ← collectT, ← linkT]
    exact whole

end

end Sys2Proof.Machine
end

section
/-! The obligation about Restart (O38). -/

namespace Sys2Proof.Machine

open Sys2Proof

/-- A Restart of a part that has run by the manual (R28, R99, R166). -/
theorem restarted (tag : Byte) {s : State} (h : RestartFits s) : Restarted s (afterRestart tag s) := by
  have due := returned_allDue tag h
  have p := progress (restartReady h due) (List.prefix_refl allLines)
  exact restarted_of h due p (finished (deadlines_ahead h due p))

/-- Settles O38, from the course of a Restart: offers and transfer, lines, verifications, jobs. -/
theorem restartBringsAllToAnEnd : Obligations.RestartBringsAllToAnEnd := by
  intro s r takes
  refine ⟨afterRestart r.tag s, exec_restart takes, ?_⟩
  have fits := restarted r.tag (s := s)
  have frame := afterRestart_frame r.tag s
  have lines := afterRestart_lines r.tag s
  obtain ⟨landed, tally⟩ := afterRestart_tally r.tag s
  obtain ⟨suspended, handed, waiting, jobs, forward⟩ := afterRestart_jobs r.tag s
  have accounts := afterRestart_accounts r.tag s
  have gone := fun v hv d x found settled deadline passed apart =>
    afterRestart_gone (tag := r.tag) (s := s) (v := v) (d := d) (x := x) hv found settled deadline passed apart
  generalize afterRestart r.tag s = t at *
  have part : t.part = { s.part with phase := some .restarting, tally := t.part.tally } := by rw [frame]; rfl
  have link : t.link = { (cleared r.tag s).link with notices := t.link.notices } := by rw [frame]
  have collect : t.collect = { s.collect with queue := [], offers := [], transfer := none } := by rw [frame]; rfl
  refine ⟨by rw [part], by rw [part], by rw [part], ⟨landed, tally⟩, by rw [link]; rfl, by rw [link]; rfl, by rw [link]; rfl, by rw [link]; rfl,
    by rw [link]; rfl, by rw [link]; rfl, by rw [link]; rfl, fun none => ?_, fun some_ => ?_, by rw [collect], by rw [collect], by rw [collect],
    by rw [collect], by rw [frame], fun n alerted => ?_, fun n quiet call => ?_, fun n quiet idle still => ?_, fits,
    fun v hv d x found settled deadline passed apart => gone v hv d x found settled deadline passed apart, suspended, handed, waiting, jobs,
    forward, by rw [frame]; rfl, by rw [frame]; rfl, by rw [frame]; rfl, by rw [frame], fun d => ?_⟩
  · rw [link]; unfold cleared; rw [none]
  · obtain ⟨tr, h⟩ := Option.ne_none_iff_exists'.1 some_
    rw [link]; unfold cleared; rw [h]
  · rw [lines]; exact if_pos alerted
  · rw [lines]; exact (if_neg quiet).trans (if_pos call)
  · rw [lines]
    exact (if_neg quiet).trans (if_neg (by rw [idle, still]; simp))
  · have same := accounts d
    unfold Account.settings at same
    simp only [Prod.mk.injEq] at same
    exact same

end Sys2Proof.Machine
end

section
/-! The state right after reset, and the requests that read the directory (O12, O20). -/

namespace Sys2Proof.Machine

open Sys2Proof

/-! ## The state right after reset -/

theorem lineAt_reset (n : LineNo) : lineAt State.reset n = Line.fresh := by
  simp [lineAt, State.reset, State.fresh]

theorem fresh_line_ok : Line.fresh.ok := by simp [Line.ok, Line.quiet, Line.fresh]

theorem linesOk_reset : LinesOk State.reset :=
  ⟨fun n => by rw [lineAt_reset]; exact fresh_line_ok,
    fun _ n => by rw [lineAt_reset]; exact ⟨rfl, ⟨rfl, rfl, rfl⟩, rfl⟩⟩

theorem tablesFit_reset : TablesFit State.reset := by
  constructor <;> exact Nat.zero_le _

theorem jobsOk_reset : JobsOk State.reset := by
  simp [JobsOk, State.reset, State.fresh, Forwarding.fresh, maxJobNumber]

theorem journalOk_reset : JournalOk State.reset := by
  simp [JournalOk, State.reset, State.fresh, maxNumber]

theorem callersOk_reset : CallersOk State.reset := by
  simp [CallersOk, State.reset, State.fresh, Policy.defaults]

theorem collectMet_reset : CollectMet State.reset := fun _ => .inr (fun _ h => absurd h (List.not_mem_nil))

theorem sparesConserved_reset : SparesConserved State.reset := by
  simp [SparesConserved, State.reset, State.fresh]

/-- Settles O12, one law after the other: no table holds anything yet, and every line is as at a start. -/
theorem resetMeetsTheLaws : Obligations.ResetMeetsTheLaws :=
  ⟨memoryWf_reset, sparesConserved_reset, collectMet_reset, callersOk_reset, linesOk_reset, tablesFit_reset, jobsOk_reset,
    journalOk_reset, storeOk_fresh _ _ _ _ _ _ rfl⟩

/-! ## Requests that read the directory -/

theorem exec_readDocument {s : State} {r : Envelope} {doc firstPage : Nat} (takes : Takes s r) :
    exec (.readDocument r doc firstPage) s = .next (match findDoc s doc with
      | none => answered s r .readDocument .noSuch .empty
      | some d => answered s r .readDocument .done (.document d.toDocFields d.pages.length (clamp 1 maxPages firstPage)
          ((d.pages.drop (clamp 1 maxPages firstPage - 1)).take 8))) := by
  refine (congrArg Host.Outcome.next (takeRequest_of_takes takes .readDocument _)).trans ?_
  rw [show findDoc (takeFrame r.tag s) doc = findDoc s doc from rfl]
  cases findDoc s doc <;> rfl

theorem exec_listDocuments {s : State} {r : Envelope} {dept : Nat} {filter : Option LifeFilter} {start : Nat} (takes : Takes s r) :
    exec (.listDocuments r dept filter start) s = .next (listDocuments r.tag dept filter start (takeFrame r.tag s)) :=
  congrArg Host.Outcome.next (takeRequest_of_takes takes ..)

/-- The numbers of List Documents are put in order as the library's insertion sort does it. -/
theorem ascending_id (xs : List Nat) : ascending id xs = xs.insertionSort (· ≤ ·) := by
  have insert (x : Nat) (ys : List Nat) : insertByKey id x ys = ys.orderedInsert (· ≤ ·) x := by
    induction ys with
    | nil => rfl
    | cons y ys ih => simp only [insertByKey, List.orderedInsert, id, ih]
  induction xs with
  | nil => rfl
  | cons x xs ih => rw [ascending, insert, ih]; rfl

/-- Settles O20: the branches of the two requests, and the order of the numbers listed. -/
theorem directoryReadsAnswer : Obligations.DirectoryReadsAnswer := by
  refine ⟨fun s r doc firstPage takes => ⟨fun none => ?_, fun d found => ?_⟩,
    fun s r dept filter start takes => ⟨fun bad => ?_, fun d f hd hf => ⟨fun unconfigured => ?_, fun configured => ?_⟩⟩⟩
  · rw [exec_readDocument takes, none]
  · refine ⟨(d.pages.drop (clamp 1 maxPages firstPage - 1)).take 8, ?_, fun i => ?_⟩
    · rw [exec_readDocument takes, found]; rfl
    · rw [List.getElem?_take, List.getElem?_drop]; rfl
  · rw [exec_listDocuments takes]
    unfold listDocuments
    rcases bad with above | rfl
    · rw [deptOf_above above]; rfl
    · cases deptOf dept <;> rfl
  all_goals
    subst hd hf
    rw [exec_listDocuments takes]
    unfold listDocuments
    rw [deptOf_val]
    dsimp only
    rw [show acct (takeFrame r.tag s) d = acct s d from rfl]
  · rw [if_pos unconfigured]; rfl
  · rw [if_neg (by rw [configured]; decide)]
    exact ⟨listed s d f start, rfl, by rw [listed, ascending_id]; exact List.pairwise_insertionSort (· ≤ ·) _,
      by rw [listed, ascending_id]; exact List.perm_insertionSort (· ≤ ·) _⟩

end Sys2Proof.Machine
end

section
/-! A document enters OPEN, with its collection and its jobs (R35 to R39, R117, R118), and Release Hold (O40). -/

namespace Sys2Proof.Machine

open Sys2Proof

/-! ## Job numbers -/

/-- A number of the job numbers' cycle (R117), and the list that has it. -/
def jobNumberUsed (jobs : List Job) (n : Nat) : Prop := ∃ j ∈ jobs, j.number = n

theorem nextJobNumber_iterate {n : Nat} (h : 1 ≤ n ∧ n ≤ maxJobNumber) (i : Nat) :
    nextJobNumber^[i] n = (n - 1 + i) % 65535 + 1 := by
  have top : maxJobNumber = 65535 := rfl
  rw [top] at h
  induction i with
  | zero => simp; omega
  | succ i ih =>
    rw [Function.iterate_succ_apply', ih]
    unfold nextJobNumber
    rw [top]
    split <;> omega

/-- The search for a job number goes along the cycle, past numbers in use, until its fuel ends or the number is free (R117). -/
theorem freeJobNumber_iterate (jobs : List Job) (k n : Nat) : ∃ m ≤ k, freeJobNumber jobs k n = nextJobNumber^[m] n ∧
    (∀ i < m, jobNumberUsed jobs (nextJobNumber^[i] n)) ∧ (m < k → ¬ jobNumberUsed jobs (nextJobNumber^[m] n)) := by
  induction k generalizing n with
  | zero => exact ⟨0, le_rfl, rfl, fun i hi => absurd hi (Nat.not_lt_zero i), fun h => absurd h (Nat.not_lt_zero 0)⟩
  | succ k ih =>
    unfold freeJobNumber
    by_cases used : jobNumberUsed jobs n
    · rw [if_pos (by simpa [jobNumberUsed] using used)]
      obtain ⟨m, hm, e, before, free⟩ := ih (nextJobNumber n)
      refine ⟨m + 1, by omega, e, fun i hi => ?_, fun h => free (by omega)⟩
      cases i with
      | zero => exact used
      | succ i => exact before i (by omega)
    · rw [if_neg (by simpa [jobNumberUsed] using used)]
      exact ⟨0, Nat.zero_le _, rfl, fun i hi => absurd hi (Nat.not_lt_zero i), fun _ => used⟩

/-- A list of at most 256 jobs leaves a number free, and the search finds one in its range (R117). -/
theorem freeJobNumber_free {jobs : List Job} {n : Nat} (few : jobs.length ≤ maxJobs) (range : 1 ≤ n ∧ n ≤ maxJobNumber) :
    (1 ≤ freeJobNumber jobs jobs.length n ∧ freeJobNumber jobs jobs.length n ≤ maxJobNumber) ∧
      ¬ jobNumberUsed jobs (freeJobNumber jobs jobs.length n) := by
  have limit : maxJobs = 256 := rfl
  have top : maxJobNumber = 65535 := rfl
  obtain ⟨m, hm, e, before, free⟩ := freeJobNumber_iterate jobs jobs.length n
  rw [e]
  refine ⟨by rw [nextJobNumber_iterate range, top]; omega, fun last => ?_⟩
  have full : m = jobs.length := by
    by_contra h
    exact free (by omega) last
  have inUse : (List.range (m + 1)).map (fun i => nextJobNumber^[i] n) ⊆ jobs.map Job.number := by
    intro x hx
    obtain ⟨i, hi, rfl⟩ := List.mem_map.1 hx
    obtain ⟨j, hj, number⟩ : jobNumberUsed jobs (nextJobNumber^[i] n) := by
      rcases Nat.lt_succ_iff_lt_or_eq.1 (List.mem_range.1 hi) with h | rfl
      · exact before i h
      · exact last
    exact List.mem_map.2 ⟨j, hj, number⟩
  have apart : ((List.range (m + 1)).map (fun i => nextJobNumber^[i] n)).Nodup := by
    refine List.Nodup.map_on (fun i hi k hk same => ?_) List.nodup_range
    rw [List.mem_range] at hi hk
    rw [nextJobNumber_iterate range, nextJobNumber_iterate range] at same
    omega
  have := (List.subperm_of_subset apart inUse).length_le
  simp only [List.length_map, List.length_range] at this
  omega

/-- The law of job numbers that a new job relies on (R116, R117). -/
def JobNumbersOk (s : State) : Prop :=
  (1 ≤ s.fwd.nextJob ∧ s.fwd.nextJob ≤ maxJobNumber) ∧ (s.fwd.jobs.map Job.number).Nodup

theorem JobsOk.numbers {s : State} (h : JobsOk s) : JobNumbersOk s := by
  obtain ⟨-, next, -, apart, -⟩ := h
  exact ⟨next, apart⟩

theorem nextJobNumber_range {n : Nat} (h : 1 ≤ n ∧ n ≤ maxJobNumber) : 1 ≤ nextJobNumber n ∧ nextJobNumber n ≤ maxJobNumber := by
  unfold nextJobNumber; split <;> omega

/-- A new job has a number of its own (R117). -/
theorem jobNumbersOk_addJob {s : State} (h : JobNumbersOk s) (room : s.fwd.jobs.length < maxJobs) (n i : Nat) (dest : Text) (urgent : Bool) :
    JobNumbersOk (addJob n i dest urgent s).1 := by
  obtain ⟨range, free⟩ := freeJobNumber_free room.le h.1
  refine ⟨nextJobNumber_range range, ?_⟩
  show ((s.fwd.jobs ++ [_]).map Job.number).Nodup
  rw [List.map_append]
  refine List.Nodup.append h.2 (List.nodup_singleton _) (fun x hx hy => free ?_)
  obtain ⟨j, hj, rfl⟩ := List.mem_map.1 hx
  exact ⟨j, hj, List.mem_singleton.1 hy⟩

theorem jobNumbersOk_openForwards {n : Nat} {urgent : Bool} {i : Nat} {dests : List Text} {s : State} (h : JobNumbersOk s)
    (room : s.fwd.jobs.length + dests.length ≤ maxJobs) : JobNumbersOk (openForwards n urgent i dests s) := by
  induction dests generalizing i s with
  | nil => exact h
  | cons dest rest ih =>
    rw [List.length_cons] at room
    have made : createJob n i dest urgent (addForwardEntry n (ForwardEntry.fresh dest) s) =
        (addJob n i dest urgent (addForwardEntry n (ForwardEntry.fresh dest) s)).1 :=
      if_pos (show s.fwd.jobs.length < maxJobs by omega)
    show JobNumbersOk (openForwards n urgent (i + 1) rest (createJob n i dest urgent (addForwardEntry n (ForwardEntry.fresh dest) s)))
    rw [made]
    refine ih (jobNumbersOk_addJob (s := addForwardEntry n (ForwardEntry.fresh dest) s) h (show s.fwd.jobs.length < maxJobs by omega) ..) ?_
    show (s.fwd.jobs ++ [_]).length + _ ≤ _
    rw [List.length_append, List.length_singleton]; omega

/-- The jobs of a plan, one by one (R35, R117). -/
theorem planTargets_jobs {d : Document} {new : List Job} {run : Nat} (targets : new.map Job.target = planTargets d)
    (fresh : ∀ j ∈ new, j.isNew run) : new.length = d.plan.dests.length ∧
    ∀ (i : Nat) (j : Job), new[i]? = some j → some j.destination = d.plan.dests[i]? ∧
      j = { j with
        document := d.number, index := i, inCall := false, attempts := 0, nextDue := run
        urgent := decide (d.priority = .urgent), interrupted := false, line := none } := by
  refine ⟨by simpa [planTargets] using congrArg List.length targets, fun i j hj => ?_⟩
  have place := congrArg (fun l => l[i]?) targets
  simp only [planTargets, List.getElem?_map, hj, List.getElem?_zipIdx, Option.map_some, Option.map_map] at place
  obtain ⟨dest, hdest, same⟩ := Option.map_eq_some_iff.1 place.symm
  obtain ⟨a, b, c, e, f⟩ := fresh j (List.mem_of_getElem? hj)
  simp only [Function.comp, Nat.zero_add, Job.target, Prod.mk.injEq] at same
  obtain ⟨h1, h2, h3, h4⟩ := same
  refine ⟨by rw [hdest, h3], ?_⟩
  obtain ⟨number, document, index, destination, inCall, attempts, nextDue, urgent, interrupted, line⟩ := j
  dsimp only at *
  subst a b c e f h1 h2 h4
  rfl

/-! ## Opening -/

/-- What a document's meeting the Collect Service reads of the state before it. -/
structure SameQueues (s s' : State) : Prop where
  queue : s'.collect.queue = s.collect.queue
  ready : s'.dir.ready = s.dir.ready
  policy : s'.policy = s.policy
  urgent : ∀ m, isUrgent s' m = isUrgent s m

theorem Joined.source {s s' t : State} {d : Document} {offers : List Offer} {answers : List Response} {left : Disposition}
    (same : SameQueues s s') (h : Joined s' t d offers answers left) : Joined s t d offers answers left := by
  obtain ⟨queue, ready, policy, urgent⟩ := same
  obtain ⟨others, waits, meets⟩ := h
  unfold readyQueue at *
  rw [ready] at others waits meets
  rw [queue] at waits meets
  rw [policy] at meets
  simp only [urgent] at waits
  exact ⟨others, waits, meets⟩

theorem Joined.target {s t t' : State} {d : Document} {offers : List Offer} {answers : List Response} {left : Disposition}
    (collect : t'.collect = t.collect) (ready : t'.dir.ready = t.dir.ready) (clock : t'.clock = t.clock)
    (h : Joined s t d offers answers left) : Joined s t' d offers answers left := by
  obtain ⟨others, waits, meets⟩ := h
  unfold readyQueue at *
  rw [← ready] at others waits meets
  rw [← collect] at waits meets
  rw [← clock] at meets
  exact ⟨others, waits, meets⟩

/-- A request's own frame and response leave what a document meets. -/
theorem Joined.request {s t : State} {d : Document} {offers : List Offer} {answers : List Response} {left : Disposition} {tag : Byte}
    (h : Joined (takeFrame tag s) t d offers answers left) (kind : ReqKind) (status : Status) (content : Content) :
    Joined s (respond tag kind status content t) d offers answers left :=
  have same : SameQueues s (takeFrame tag s) := ⟨rfl, rfl, rfl, fun _ => rfl⟩
  Joined.target (t := t) rfl rfl rfl (h.source same)

/-- A document may enter OPEN: its plan is not empty, it has no entry yet and nothing due, and the job list has room (R35, R57). -/
structure Openable (s : State) (d : Document) : Prop where
  record : findDoc s d.number = some d
  plan : d.plan.collect = true ∨ d.plan.dests ≠ []
  unplanned : d.forwards = []
  undue : d.disposition = .none
  unqueued : d.number ∉ readyQueue s d.dept
  room : s.fwd.jobs.length + d.plan.dests.length ≤ maxJobs

/-- A document has entered OPEN (R35), whether or not a request for it waited. -/
structure Opening (s t : State) (d : Document) (answers : List Response) (left : Disposition) (new : List Job) : Prop where
  record : findDoc t d.number = some { d with life := .opened, disposition := left, forwards := planned d }
  others : OtherDocs s t d.number
  collects : d.plan.collect = true → Joined s t { d with life := .opened } s.collect.offers answers left
  keeps : d.plan.collect = false → left = .none ∧ answers = [] ∧ t.collect = s.collect ∧ t.dir.ready = s.dir.ready
  joins : JobsJoin s t (planTargets d) new
  numbers : JobNumbersOk s → JobNumbersOk t
  responses : t.link.responses = s.link.responses ++ answers
  marked : Marked s t (fun x => x = .department d.dept ∧ d.plan.collect = true ∧ left = .due)
  frame : t = { s with
    dir := { s.dir with docs := t.dir.docs, ready := t.dir.ready }, fwd := t.fwd
    collect := { s.collect with queue := t.collect.queue, offers := t.collect.offers }
    link := { s.link with responses := t.link.responses, notices := t.link.notices } }

/-- The first two steps of R35: a document becomes OPEN, and DUE when its plan collects. -/
def openCollect (d : Document) (s : State) : State :=
  if d.plan.collect then becomeDue d.number (modDoc d.number (fun e => { e with life := .opened }) s)
  else modDoc d.number (fun e => { e with life := .opened }) s

theorem openCollect_spec {s : State} {d : Document} (h : Openable s d) : ∃ answers left,
    findDoc (openCollect d s) d.number = some { d with life := .opened, disposition := left } ∧
    OtherDocs s (openCollect d s) d.number ∧
    (d.plan.collect = true → Joined s (openCollect d s) { d with life := .opened } s.collect.offers answers left ∧ left ≠ .none) ∧
    (d.plan.collect = false → left = .none ∧ answers = [] ∧ (openCollect d s).collect = s.collect ∧
      (openCollect d s).dir.ready = s.dir.ready) ∧
    (left ≠ .done) ∧ (openCollect d s).link.responses = s.link.responses ++ answers ∧
    Marked s (openCollect d s) (fun x => x = .department d.dept ∧ d.plan.collect = true ∧ left = .due) ∧
    openCollect d s = { s with
      dir := { s.dir with docs := (openCollect d s).dir.docs, ready := (openCollect d s).dir.ready }
      collect := { s.collect with queue := (openCollect d s).collect.queue, offers := (openCollect d s).collect.offers }
      link := { s.link with responses := (openCollect d s).link.responses, notices := (openCollect d s).link.notices } } := by
  obtain ⟨record, -, -, undue, unqueued, -⟩ := h
  have opened := findDoc_modDoc_self (f := fun e => { e with life := .opened }) record (fun _ => rfl)
  have apart := modDoc_others d.number (fun e => { e with life := .opened }) (fun _ => rfl) s
  have urgent := isUrgent_modDoc d.number (fun e => { e with life := .opened }) (fun _ => rfl) (fun _ => rfl) s
  unfold openCollect
  cases d.plan.collect with
  | false =>
    refine ⟨[], .none, ?_, apart, by simp, fun _ => ⟨rfl, rfl, rfl, rfl⟩, by simp, (List.append_nil _).symm,
      (Marked.none rfl).congr (by simp), rfl⟩
    rw [← undue]; exact opened
  | true =>
    rw [if_pos rfl]
    have frame := becomeDue_frame d.number (modDoc d.number (fun e => { e with life := .opened }) s)
    have same : SameQueues s (modDoc d.number (fun e => { e with life := .opened }) s) := ⟨rfl, rfl, rfl, urgent⟩
    obtain ⟨answers, now, joined, found, others, two, responses, marked⟩ :=
      becomeDue_joined (s := modDoc d.number (fun e => { e with life := .opened }) s) (d := { d with life := .opened }) opened unqueued
    dsimp only at joined found others two responses marked
    refine ⟨answers, now, found, ⟨fun m hm => (others.1 m hm).trans (apart.1 m hm), others.2.trans apart.2⟩,
      fun _ => ⟨joined.source same, ?_⟩, by simp, ?_, responses, ?_, frame⟩
    · rcases two with rfl | rfl <;> simp
    · rcases two with rfl | rfl <;> simp
    · exact (marked.of_link rfl rfl rfl).congr (by simp)

theorem enterOpen_opening {s : State} {d : Document} (h : Openable s d) :
    ∃ answers left new, Opening s (enterOpen d.number s) d answers left new := by
  obtain ⟨answers, left, found, others, collects, keeps, undone, responses, marked, frame⟩ := openCollect_spec h
  obtain ⟨record, plan, unplanned, -, -, room⟩ := h
  have course : enterOpen d.number s =
      settle d.number (fallback d.number (openForwards d.number (d.priority == .urgent) 0 d.plan.dests (openCollect d s))) := by
    unfold enterOpen; rw [record]; rfl
  generalize openCollect d s = u at *
  have fwdU : u.fwd = s.fwd := by rw [frame]
  have clockU : u.clock = s.clock := by rw [frame]
  obtain ⟨new, ⟨jobs, targets, fresh, fwd⟩, whole⟩ :=
    openForwards_room d.number (d.priority == .urgent) 0 d.plan.dests u (by rw [fwdU]; exact room)
  have numbers : JobNumbersOk u → JobNumbersOk _ := fun ok =>
    jobNumbersOk_openForwards (n := d.number) (urgent := d.priority == .urgent) (i := 0) (dests := d.plan.dests) ok (by rw [fwdU]; exact room)
  have opened : findDoc (openForwards d.number (d.priority == .urgent) 0 d.plan.dests u) d.number =
      some { d with life := .opened, disposition := left, forwards := planned d } := by
    rw [whole]
    refine (findDoc_modDoc_self (f := fun e => { e with forwards := e.forwards ++ d.plan.dests.map ForwardEntry.fresh }) found
      (fun _ => rfl)).trans ?_
    dsimp only
    rw [unplanned, List.nil_append]
    rfl
  have stays : fallsBack { d with life := .opened, disposition := left, forwards := planned d } = false ∧
      settles { d with life := .opened, disposition := left, forwards := planned d } = false := by
    by_cases dests : d.plan.dests = []
    · have due := (collects (plan.resolve_right (not_not.2 dests))).2
      simp [fallsBack, settles, planned, dests, due, undone]
    · obtain ⟨x, hx⟩ := List.exists_mem_of_ne_nil _ dests
      have pending : (planned d).all ForwardEntry.isFinal = false :=
        List.all_eq_false.2 ⟨_, List.mem_map_of_mem hx, by simp [ForwardEntry.isFinal]⟩
      simp [fallsBack, settles, pending]
  rw [fallback_not opened stays.1, settle_not opened stays.2] at course
  rw [course]
  have apart := modDoc_others d.number (fun e => { e with forwards := e.forwards ++ d.plan.dests.map ForwardEntry.fresh }) (fun _ => rfl) u
  generalize openForwards d.number (d.priority == .urgent) 0 d.plan.dests u = t at *
  have docs : t.dir = (modDoc d.number (fun e => { e with forwards := e.forwards ++ d.plan.dests.map ForwardEntry.fresh }) u).dir := by
    rw [whole]
  have ready : t.dir.ready = u.dir.ready := by rw [docs]; rfl
  have link : t.link = u.link := by rw [whole]; rfl
  have collect : t.collect = u.collect := by rw [whole]; rfl
  have clock : t.clock = u.clock := by rw [whole]; rfl
  have urgent : (d.priority == .urgent) = decide (d.priority = .urgent) := by cases d.priority <;> rfl
  rw [fwdU] at jobs fwd
  rw [clockU] at fresh
  refine ⟨answers, left, new, opened, ?_, fun c => (collects c).1.target collect ready clock, fun c => ?_,
    ⟨jobs, ?_, fresh, fwd⟩, fun ok => numbers (by unfold JobNumbersOk; rw [fwdU]; exact ok), ?_, ?_, ?_⟩
  · have later := apart.of_docs (u := t) (by rw [docs])
    exact ⟨fun m hm => (later.1 m hm).trans (others.1 m hm), later.2.trans others.2⟩
  · rw [collect, ready]; exact keeps c
  · rw [targets, urgent]; rfl
  · rw [link]; exact responses
  · exact marked.of_link rfl (by rw [link]) rfl
  · rw [whole]
    generalize t.fwd = f
    unfold modDoc
    rw [frame]

/-! ## Release Hold -/

theorem exec_releaseHold {s : State} {r : Envelope} {doc : Nat} (takes : Takes s r) :
    exec (.releaseHold r doc) s = .next (releaseHold r.tag doc (takeFrame r.tag s)) :=
  congrArg Host.Outcome.next (takeRequest_of_takes takes ..)

theorem exec_releaseHold_found {s : State} {r : Envelope} {doc : Nat} {d : Document} (takes : Takes s r) (found : findDoc s doc = some d) :
    exec (.releaseHold r doc) s = .next (if d.life = .held
      then respond r.tag .releaseHold .done .empty (enterOpen doc (takeFrame r.tag s))
      else answered s r .releaseHold .wrongState .empty) := by
  have found : findDoc (takeFrame r.tag s) doc = some d := found
  rw [exec_releaseHold takes, releaseHold, found]; rfl

/-- Settles O40, from what entering OPEN does. -/
theorem releaseHoldOpensTheDocument : Obligations.ReleaseHoldOpensTheDocument := by
  refine fun s r doc takes => ⟨fun absent => ?_, fun d found => ⟨fun other => ?_, fun held unplanned undue unqueued plan room => ?_⟩⟩
  · have absent : findDoc (takeFrame r.tag s) doc = none := absent
    rw [exec_releaseHold takes, releaseHold, absent]; rfl
  · rw [exec_releaseHold_found takes found, if_neg other]
  · obtain rfl := findDoc_number found
    rw [exec_releaseHold_found takes found, if_pos held]
    obtain ⟨answers, left, new, record, others, collects, keeps, ⟨jobs, targets, fresh, fwd⟩, numbers, responses, marked, frame⟩ :=
      enterOpen_opening (s := takeFrame r.tag s) (d := d) ⟨found, plan, unplanned, undue, unqueued, room⟩
    generalize enterOpen d.number (takeFrame r.tag s) = t at *
    obtain ⟨length, each⟩ := planTargets_jobs targets fresh
    have empty : new ≠ [] ↔ d.plan.dests ≠ [] := by
      rw [← List.length_pos_iff, length, List.length_pos_iff]
    refine ⟨_, answers, left, new, rfl, record, others, fun c => (collects c).request .., keeps, jobs, length, each,
      fun ok => (numbers ok.numbers).2, ?_, ?_, ?_, marked.of_link rfl rfl rfl, ?_⟩
    · show t.fwd.runOwed = _
      rw [fwd, decide_eq_decide.2 empty]; rfl
    · show t.link.intake = _
      rw [frame]; rfl
    · show t.link.responses ++ _ = _
      rw [responses]; rfl
    · generalize t.fwd.jobs = a, t.fwd.nextJob = b at *
      rw [frame, fwd]
      rfl

end Sys2Proof.Machine
end

section
/-! Verify Document and its steps (R49, R50, O42). -/

namespace Sys2Proof.Machine

open Sys2Proof

/-! ## What a read leaves of the directory -/

/-- A read that is not UNCORRECTABLE leaves the directory and the clock (R191, R192). -/
theorem readSpan_some {reader : Reader} {doc off size : Nat} {pg : Page} {s u : State} {data : List Byte}
    (read : readSpan reader doc pg off size s = (u, some data)) : u.dir = s.dir ∧ u.clock = s.clock := by
  unfold readSpan at read
  dsimp only at read
  split at read
  · obtain ⟨rfl, -⟩ := Prod.mk.inj read; exact ⟨rfl, rfl⟩
  · split at read
    · obtain ⟨rfl, -⟩ := Prod.mk.inj read; exact ⟨rfl, rfl⟩
    · split at read
      · exact absurd (Prod.mk.inj read).2 nofun
      · obtain ⟨rfl, -⟩ := Prod.mk.inj read; exact ⟨rfl, rfl⟩

/-- An UNCORRECTABLE read marks its page damaged and leaves the rest of the directory and the clock (R194). -/
theorem readSpan_none {reader : Reader} {doc off size : Nat} {pg : Page} {s u : State}
    (read : readSpan reader doc pg off size s = (u, none)) : u.dir = (markDamaged doc pg.number s).dir ∧ u.clock = s.clock := by
  unfold readSpan at read
  dsimp only at read
  split at read
  · exact absurd (Prod.mk.inj read).2 nofun
  · split at read
    · exact absurd (Prod.mk.inj read).2 nofun
    · split at read
      · obtain ⟨rfl, -⟩ := Prod.mk.inj read
        split <;> (rw [appendRecord_frame]; dsimp only)
        · rw [append_frame]; exact ⟨rfl, rfl⟩
        · exact ⟨rfl, rfl⟩
      · exact absurd (Prod.mk.inj read).2 nofun

/-- A document whose page p has been marked damaged (R194). -/
def Document.damagedAt (d : Document) (p : Nat) : Document :=
  { d with damaged := true, pages := d.pages.map (fun q => if q.number = p then { q with damaged := true } else q) }

theorem Document.damagedAt_page {d : Document} {p : Page} (h : p ∈ d.pages) :
    ∃ q ∈ (d.damagedAt p.number).pages, q.number = p.number ∧ q.damaged = true :=
  ⟨{ p with damaged := true }, List.mem_map.2 ⟨p, h, if_pos rfl⟩, rfl, rfl⟩

theorem findDoc_readSpan_none {reader : Reader} {doc off size : Nat} {pg : Page} {s u : State} {d : Document}
    (found : findDoc s doc = some d) (read : readSpan reader doc pg off size s = (u, none)) :
    findDoc u doc = some (d.damagedAt pg.number) := by
  rw [findDoc_dir (congrArg Directory.docs (readSpan_none read).1) doc]
  exact findDoc_modDoc_self found (fun _ => rfl)

/-! ## The end of a verification -/

/-- A deadline that has been looked at leaves what a purge leaves (R44, R45). -/
theorem purgeIfPassed_frame (n : Nat) (s : State) : purgeIfPassed n s =
    { s with
      store := { (purgeIfPassed n s).store with allotments := s.store.allotments }
      dir := { s.dir with
        docs := (purgeIfPassed n s).dir.docs, ready := (purgeIfPassed n s).dir.ready, reclaim := (purgeIfPassed n s).dir.reclaim }
      integrity := { s.integrity with exhausted := (purgeIfPassed n s).integrity.exhausted }
      link := { s.link with notices := (purgeIfPassed n s).link.notices } } := by
  unfold purgeIfPassed
  split
  · rfl
  · split
    · rfl
    · split
      · exact purgeEvent_frame n s
      · rfl

/-- What the end of a verification may change, with its response (R50). -/
theorem endVerification_frame {s : State} {v : Verification} {e : Document} (h : findDoc s v.doc = some e) :
    endVerification v s = { s with
      store := { (endVerification v s).store with allotments := s.store.allotments }
      dir := { s.dir with
        docs := (endVerification v s).dir.docs, ready := (endVerification v s).dir.ready, reclaim := (endVerification v s).dir.reclaim
        verifications := s.dir.verifications.filter (fun x => decide (x.doc ≠ v.doc)) }
      integrity := { s.integrity with exhausted := (endVerification v s).integrity.exhausted }
      link := { s.link with
        responses := s.link.responses ++ [⟨v.tag, .verifyDocument, .done, .verified (verifyResult e (crc32Final v.crc)) e.digest
          (if verifyResult e (crc32Final v.crc) = .damaged then none else some (crc32Final v.crc)) (damagedPages e)⟩]
        notices := (endVerification v s).link.notices } } := by
  rw [endVerification_eq h, purgeIfPassed_frame]
  rfl

/-- The result of a verification in the words of R50. -/
theorem verifyResult_damaged {d : Document} (h : ∃ q ∈ d.pages, q.damaged = true) (crc : BitVec 32) : verifyResult d crc = .damaged :=
  if_pos (List.any_eq_true.2 h)

theorem verifyResult_sound {d : Document} (h : ∀ q ∈ d.pages, q.damaged = false) (crc : BitVec 32) :
    verifyResult d crc = if d.digest = some crc then .isMatch else .mismatch :=
  if_neg (by simpa using h)

/-- The verification v of a document of s has ended, from the state u to the state t, with the CRC carried so far (R50, R44, R45). -/
def VerificationEnded (s u t : State) (v : Verification) (d : Document) (crc : BitVec 32) : Prop :=
  let late := d.life = .settled ∧ ∃ x, d.deadline = some x ∧ x ≤ s.clock.run
  ∃ e result again,
    findDoc u v.doc = some e ∧ t.dir.verifications = s.dir.verifications.filter (fun x => decide (x.doc ≠ v.doc)) ∧
    t.link.responses = u.link.responses ++ [⟨v.tag, .verifyDocument, .done, .verified result d.digest again
      ((e.pages.filter (fun q => q.damaged)).map (fun q => q.number))⟩] ∧
    ((∃ q ∈ e.pages, q.damaged = true) → result = .damaged ∧ again = none) ∧
    ((∀ q ∈ e.pages, q.damaged = false) → again = some (crc ^^^ 0xFFFFFFFF) ∧
      (d.digest = again → result = .isMatch) ∧ (d.digest ≠ again → result = .mismatch)) ∧
    (¬ late → findDoc t v.doc = some { e with verifying := false } ∧ OtherDocs u t v.doc ∧ t = { u with
      dir := { u.dir with docs := t.dir.docs, verifications := t.dir.verifications }
      link := { u.link with responses := t.link.responses } }) ∧
    (late → findDoc t v.doc = none ∧ Purged u t e ∧
      Marked u t (fun x => x = .department d.dept ∨ (x = .integrity ∧ t.store.retired ≠ u.store.retired) ∨
        (x = .store ∧ (t.store.pressure ≠ u.store.pressure ∨ t.integrity.exhausted ≠ u.integrity.exhausted))) ∧
      t = { u with
        store := { t.store with allotments := u.store.allotments }
        dir := { u.dir with
          docs := t.dir.docs, ready := t.dir.ready, reclaim := t.dir.reclaim, verifications := t.dir.verifications }
        integrity := { u.integrity with exhausted := t.integrity.exhausted }
        link := { u.link with responses := t.link.responses, notices := t.link.notices } })

theorem findDoc_purged {s t : State} {d : Document} (h : Purged s t d) : findDoc t d.number = none := by
  have := findDoc_dropped d.number d.number s t.dir.docs h.docs
  rwa [if_pos rfl] at this

/-- What a read may do to a document leaves its department, life, deadline and digest. -/
structure SameTerms (d e : Document) : Prop where
  dept : e.dept = d.dept
  life : e.life = d.life
  deadline : e.deadline = d.deadline
  digest : e.digest = d.digest

theorem endVerification_ended {s u : State} {v : Verification} {d e : Document} (found : findDoc u v.doc = some e)
    (terms : SameTerms d e) (clock : u.clock = s.clock) (running : u.dir.verifications = s.dir.verifications) :
    VerificationEnded s u (endVerification v u) v d v.crc := by
  obtain ⟨dept, life, deadline, digest⟩ := terms
  have frame := endVerification_frame found
  refine ⟨e, verifyResult e (crc32Final v.crc),
    if verifyResult e (crc32Final v.crc) = .damaged then none else some (crc32Final v.crc), found, ?_, ?_, fun damaged => ?_,
    fun sound => ?_, fun early => ?_, fun late => ?_⟩
  · rw [frame, ← running]
  · rw [← digest, frame]; rfl
  · have result := verifyResult_damaged damaged (crc32Final v.crc)
    exact ⟨result, if_pos result⟩
  · have result := verifyResult_sound sound (crc32Final v.crc)
    rw [digest] at result
    have kept : verifyResult e (crc32Final v.crc) ≠ .damaged := by rw [result]; split <;> nofun
    rw [if_neg kept]
    exact ⟨rfl, fun same => by rw [result, if_pos same], fun other => by rw [result, if_neg other]⟩
  · exact endVerification_kept found (by rw [life, deadline, clock]; exact early)
  · obtain ⟨settled, x, at_x, passed⟩ := late
    obtain ⟨purged, marked⟩ := endVerification_purges found (life.trans settled) (deadline.trans at_x) (by rw [clock]; exact passed)
    have gone := findDoc_purged purged
    rw [findDoc_number found] at gone
    rw [dept] at marked
    refine ⟨gone, purged, marked, ?_⟩
    generalize endVerification v u = t at *
    rw [frame]

/-! ## The steps of a verification -/

/-- The verification of a document has moved on to its next stretch, from u to t. -/
def VerificationMoved (s u t : State) (doc : Nat) (next : Verification) : Prop :=
  t.dir.verifications.find? (fun x => decide (x.doc = doc)) = some next ∧
  t.dir.verifications.filter (fun x => decide (x.doc ≠ doc)) = s.dir.verifications.filter (fun x => decide (x.doc ≠ doc)) ∧
  t = { u with dir := { u.dir with verifications := t.dir.verifications } }

theorem find?_replaced {vs : List Verification} {doc : Nat} {v next : Verification} (same : next.doc = doc)
    (h : vs.find? (fun x => decide (x.doc = doc)) = some v) :
    (vs.map (fun x => if x.doc = doc then next else x)).find? (fun x => decide (x.doc = doc)) = some next := by
  induction vs with
  | nil => cases h
  | cons x xs ih =>
    by_cases hx : x.doc = doc
    · simp [hx, same]
    · rw [List.find?_cons_of_neg (by simpa using hx)] at h
      rw [List.map_cons, if_neg hx, List.find?_cons_of_neg (by simpa using hx), ih h]

theorem filter_replaced {doc : Nat} {next : Verification} (same : next.doc = doc) (vs : List Verification) :
    (vs.map (fun x => if x.doc = doc then next else x)).filter (fun x => decide (x.doc ≠ doc)) =
      vs.filter (fun x => decide (x.doc ≠ doc)) := by
  induction vs with
  | nil => rfl
  | cons x xs ih =>
    rw [List.map_cons]
    by_cases hx : x.doc = doc
    · rw [if_pos hx, List.filter_cons_of_neg (by simpa using same), List.filter_cons_of_neg (by simpa using hx), ih]
    · rw [if_neg hx, List.filter_cons_of_pos (by simpa using hx), List.filter_cons_of_pos (by simpa using hx), ih]

theorem setVerification_moved {s u : State} {v next : Verification} (same : next.doc = v.doc)
    (runs : s.dir.verifications.find? (fun x => decide (x.doc = v.doc)) = some v) (running : u.dir.verifications = s.dir.verifications) :
    VerificationMoved s u (setVerification next u) v.doc next := by
  unfold VerificationMoved setVerification
  dsimp only
  rw [same, running]
  exact ⟨find?_replaced same runs, filter_replaced same _, rfl⟩

/-- A stretch that ends a page: the verification goes on with the next one, or ends after the last (R50). -/
theorem afterStretch_next {s u : State} {v : Verification} {d e : Document} (crc : BitVec 32)
    (runs : s.dir.verifications.find? (fun x => decide (x.doc = v.doc)) = some v) (found : findDoc u v.doc = some e)
    (terms : SameTerms d e) (clock : u.clock = s.clock) (running : u.dir.verifications = s.dir.verifications) :
    let t := afterStretch { v with page := v.page + 1, offset := 0, crc := crc } d.pages.length u
    (v.page < d.pages.length → VerificationMoved s u t v.doc { v with page := v.page + 1, offset := 0, crc := crc }) ∧
    (v.page = d.pages.length → VerificationEnded s u t v d crc) := by
  refine ⟨fun more => ?_, fun last => ?_⟩
  · rw [afterStretch, if_neg (by dsimp only; omega)]
    exact setVerification_moved rfl runs running
  · rw [afterStretch, if_pos (by dsimp only; omega)]
    exact endVerification_ended (v := { v with page := v.page + 1, offset := 0, crc := crc }) found terms clock running

theorem exec_verifyStep {s : State} {doc : Nat} {v : Verification} {d : Document} {p : Page}
    (runs : s.dir.verifications.find? (fun x => decide (x.doc = doc)) = some v) (found : findDoc s doc = some d)
    (page : d.pages[v.page - 1]? = some p) :
    exec (.verifyStep doc) s = .next (match readSpan .verify doc p v.offset 1024 s with
      | (u, none) => afterStretch { v with page := v.page + 1, offset := 0 } d.pages.length u
      | (u, some data) =>
        if p.length ≤ v.offset + 1024 then
          afterStretch { v with page := v.page + 1, offset := 0, crc := crc32Run v.crc data } d.pages.length u
        else setVerification { v with offset := v.offset + 1024, crc := crc32Run v.crc data } u) := by
  have page : pageOf d v.page = some p := page
  show execVerifyStep doc s = _
  unfold execVerifyStep
  rw [runs, found]
  dsimp only
  rw [page]
  rfl

theorem verifyStep_reads {s u : State} {doc : Nat} {v : Verification} {d : Document} {p : Page} {data : List Byte}
    (runs : s.dir.verifications.find? (fun x => decide (x.doc = doc)) = some v) (found : findDoc s doc = some d)
    (page : d.pages[v.page - 1]? = some p) (read : readSpan .verify doc p v.offset 1024 s = (u, some data)) :
    ∃ t, exec (.verifyStep doc) s = .next t ∧
      (¬ p.length ≤ v.offset + 1024 →
        VerificationMoved s u t doc { v with offset := v.offset + 1024, crc := crc32Run v.crc data }) ∧
      (p.length ≤ v.offset + 1024 → v.page < d.pages.length →
        VerificationMoved s u t doc { v with page := v.page + 1, offset := 0, crc := crc32Run v.crc data }) ∧
      (p.length ≤ v.offset + 1024 → v.page = d.pages.length → VerificationEnded s u t v d (crc32Run v.crc data)) := by
  obtain rfl : v.doc = doc := by simpa using List.find?_some runs
  obtain ⟨dir, clock⟩ := readSpan_some read
  have running := congrArg Directory.verifications dir
  have record : findDoc u v.doc = some d := (findDoc_dir (congrArg Directory.docs dir) v.doc).trans found
  rw [exec_verifyStep runs found page, read]
  dsimp only
  refine ⟨_, rfl, fun part => ?_, fun whole => ?_, fun whole => ?_⟩
  · rw [if_neg part]; exact setVerification_moved rfl runs running
  all_goals rw [if_pos whole]
  · exact (afterStretch_next _ runs record ⟨rfl, rfl, rfl, rfl⟩ clock running).1
  · exact (afterStretch_next _ runs record ⟨rfl, rfl, rfl, rfl⟩ clock running).2

theorem verifyStep_skips {s u : State} {doc : Nat} {v : Verification} {d : Document} {p : Page}
    (runs : s.dir.verifications.find? (fun x => decide (x.doc = doc)) = some v) (found : findDoc s doc = some d)
    (page : d.pages[v.page - 1]? = some p) (read : readSpan .verify doc p v.offset 1024 s = (u, none)) :
    ∃ t, exec (.verifyStep doc) s = .next t ∧
      (∃ e q, findDoc u doc = some e ∧ q ∈ e.pages ∧ q.number = p.number ∧ q.damaged = true) ∧
      (v.page < d.pages.length → VerificationMoved s u t doc { v with page := v.page + 1, offset := 0 }) ∧
      (v.page = d.pages.length → VerificationEnded s u t v d v.crc) := by
  obtain rfl : v.doc = doc := by simpa using List.find?_some runs
  obtain ⟨dir, clock⟩ := readSpan_none read
  have record := findDoc_readSpan_none found read
  rw [exec_verifyStep runs found page, read]
  have running : u.dir.verifications = s.dir.verifications := by rw [dir]; rfl
  refine ⟨_, rfl, ?_, afterStretch_next v.crc runs record ⟨rfl, rfl, rfl, rfl⟩ clock running⟩
  obtain ⟨q, member, number, damaged⟩ := Document.damagedAt_page (List.mem_of_getElem? page)
  exact ⟨_, q, record, member, number, damaged⟩

/-- A stretch of a page that lies in one block is read whole, as far as the page goes (R50, R131). -/
theorem readSpan_stretch {s : State} {reader : Reader} {doc off size : Nat} {p : Page} (clean : s.dram.faults = [])
    (within : off % 8192 + size ≤ 8192) (holds : p.length ≤ p.blocks.length * 8192) :
    ∃ data, readSpan reader doc p off size s = (s, some data) ∧ data.length = min size (p.length - off) ∧
      ∀ i, i < data.length → ∃ b, p.blocks[(off + i) / 8192]? = some b ∧
        data[i]? = some (readByte s.mem (b.val * 8192 + (off + i) % 8192)) := by
  refine ⟨_, readSpan_clean reader doc p off size s clean, ?_⟩
  cases block : p.blocks[off / 8192]? with
  | none =>
    have past := List.getElem?_eq_none_iff.1 block
    refine ⟨?_, fun i hi => absurd hi (Nat.not_lt_zero i)⟩
    dsimp only
    rw [List.length_nil]; omega
  | some b =>
    dsimp only
    rw [readBytes_length]
    refine ⟨rfl, fun i hi => ?_⟩
    have here : (off + i) / 8192 = off / 8192 := by omega
    have at_i : b.val * 8192 + (off + i) % 8192 = b.val * 8192 + off % 8192 + i := by omega
    rw [here]
    exact ⟨b, block, by rw [at_i]; exact readBytes_get _ _ _ _ hi⟩

/-! ## The request -/

theorem exec_verifyDocument {s : State} {r : Envelope} {doc : Nat} (takes : Takes s r) :
    exec (.verifyDocument r doc) s = .next (verifyDocument r.tag doc (takeFrame r.tag s)) :=
  congrArg Host.Outcome.next (takeRequest_of_takes takes ..)

theorem exec_verifyDocument_found {s : State} {r : Envelope} {doc : Nat} {d : Document} (takes : Takes s r)
    (found : findDoc s doc = some d) :
    exec (.verifyDocument r doc) s = .next (
      if d.life = .landing then answered s r .verifyDocument .wrongState .empty
      else if d.verifying then answered s r .verifyDocument .inUse .empty
      else if 4 ≤ s.dir.verifications.length then answered s r .verifyDocument .busy .empty
      else
        let t := modDoc doc (fun e => { e with verifying := true }) (takeFrame r.tag s)
        { t with dir.verifications := t.dir.verifications ++ [⟨doc, r.tag, 1, 0, crc32Ones⟩] }) := by
  have found : findDoc (takeFrame r.tag s) doc = some d := found
  rw [exec_verifyDocument takes, verifyDocument, found]
  rfl

/-- Settles O42: the refusals in their order, and each step from what its read leaves. -/
theorem verificationCarriesTheCrc : Obligations.VerificationCarriesTheCrc := by
  refine ⟨fun s r doc takes => ⟨fun absent => ?_, fun d found => ?_⟩, fun s doc v d p runs found _ page => ?_⟩
  · have absent : findDoc (takeFrame r.tag s) doc = none := absent
    rw [exec_verifyDocument takes, verifyDocument, absent]; rfl
  · dsimp only
    rw [exec_verifyDocument_found takes found]
    refine ⟨fun landing => by rw [if_pos landing], fun landed marked => by rw [if_neg landed, if_pos marked],
      fun landed unmarked full => by rw [if_neg landed, if_neg (by simp [unmarked]), if_pos full], fun landed unmarked room => ?_⟩
    rw [if_neg landed, if_neg (by simp [unmarked]), if_neg (by omega)]
    exact ⟨_, rfl, rfl, findDoc_modDoc_self (s := takeFrame r.tag s) found (fun _ => rfl),
      modDoc_others doc (fun e => { e with verifying := true }) (fun _ => rfl) (takeFrame r.tag s), rfl⟩
  · obtain rfl : v.doc = doc := by simpa using List.find?_some runs
    exact ⟨fun clean aligned => readSpan_stretch clean (by omega), fun u data read => verifyStep_reads runs found page read,
      fun u read => verifyStep_skips runs found page read⟩

end Sys2Proof.Machine
end

section
/-! Offers that end by a decline or by their window (R148, R152, R153, O44). -/

namespace Sys2Proof.Machine

open Sys2Proof

/-- A document whose decline count has risen, up to 255 (R152). -/
def Document.declined (d : Document) : Document := { d with declines := if d.declines < 255 then d.declines + 1 else 255 }

/-- An open offer has ended: its document is DUE with one decline more, and has met a waiting request or joined its queue (R152). -/
structure OfferEnded (s t : State) (d : Document) (answers : List Response) (now : Disposition) : Prop where
  joined : Joined s t d.declined (s.collect.offers.filter (fun o => decide (o.doc ≠ d.number))) answers now
  record : findDoc t d.number = some { d.declined with disposition := now }
  others : OtherDocs s t d.number
  responses : t.link.responses = s.link.responses ++ answers
  marked : Marked s t (fun x => x = .department d.dept ∧ now = .due)
  frame : t = { s with
    dir := { s.dir with docs := t.dir.docs, ready := t.dir.ready }
    collect := { s.collect with queue := t.collect.queue, offers := t.collect.offers }
    link := { s.link with responses := t.link.responses, notices := t.link.notices } }

theorem declineOpen_ended {s : State} {d : Document} (found : findDoc s d.number = some d) (unqueued : d.number ∉ readyQueue s d.dept) :
    ∃ answers now, OfferEnded s (declineOpen d.number s) d answers now := by
  generalize hu : ({ s with collect.offers := s.collect.offers.filter (fun o => decide (o.doc ≠ d.number)) } : State) = u
  have course : declineOpen d.number s = becomeDue d.number (modDoc d.number Document.declined u) := by rw [← hu]; rfl
  have same : SameQueues s (modDoc d.number Document.declined u) := by
    refine ⟨by rw [← hu]; rfl, by rw [← hu]; rfl, by rw [← hu]; rfl, fun m => ?_⟩
    rw [isUrgent_modDoc d.number Document.declined (fun _ => rfl) (fun _ => rfl) u m, ← hu]; rfl
  have counted : findDoc (modDoc d.number Document.declined u) d.number = some d.declined :=
    findDoc_modDoc_self (by rw [← hu]; exact found) (fun _ => rfl)
  have apart := modDoc_others d.number Document.declined (fun _ => rfl) u
  have frame := becomeDue_frame d.number (modDoc d.number Document.declined u)
  obtain ⟨answers, now, joined, record, others, -, responses, marked⟩ :=
    becomeDue_joined (d := d.declined) counted (by rw [readyQueue, same.ready]; exact unqueued)
  rw [course]
  refine ⟨answers, now, ?_, record, ?_, ?_, ?_, ?_⟩
  · have offers : (modDoc d.number Document.declined u).collect.offers = s.collect.offers.filter (fun o => decide (o.doc ≠ d.number)) := by
      rw [← hu]; rfl
    exact offers ▸ joined.source same
  · have docs : u.dir.docs = s.dir.docs := by rw [← hu]
    exact ⟨fun m hm => (others.1 m hm).trans ((apart.1 m hm).trans (findDoc_dir docs m)), others.2.trans (apart.2.trans (by rw [docs]))⟩
  · rw [← hu] at responses ⊢; exact responses
  · rw [← hu] at marked ⊢; exact marked.of_link rfl rfl rfl
  · generalize becomeDue d.number (modDoc d.number Document.declined u) = t at *
    rw [frame, ← hu]; rfl

/-! ## The commands -/

theorem exec_declineOffer {s : State} {r : Envelope} {doc : Nat} (takes : Takes s r) :
    exec (.declineOffer r doc) s = .next (declineOffer r.tag doc (takeFrame r.tag s)) :=
  congrArg Host.Outcome.next (takeRequest_of_takes takes ..)

theorem openOffer_none {s : State} {doc : Nat} (none : ∀ o ∈ s.collect.offers, o.doc ≠ doc) : openOffer s doc = .none :=
  List.find?_eq_none.2 (fun o member => by simpa using none o member)

theorem openOffer_some {s : State} {doc : Nat} {o : Offer} (member : o ∈ s.collect.offers) (same : o.doc = doc) :
    (openOffer s doc).isNone = false := by
  rw [Option.isNone_eq_false_iff, openOffer, List.find?_isSome]
  exact ⟨o, member, by simpa using same⟩

theorem exec_declineOffer_found {s : State} {r : Envelope} {doc : Nat} {d : Document} (takes : Takes s r) (found : findDoc s doc = some d) :
    exec (.declineOffer r doc) s = .next (
      if (openOffer s doc).isNone then answered s r .declineOffer .tooLate .empty
      else respond r.tag .declineOffer .done (.declined doc d.declined.declines) (declineOpen doc (takeFrame r.tag s))) := by
  have found : findDoc (takeFrame r.tag s) doc = some d := found
  rw [exec_declineOffer takes, declineOffer, found]; rfl

theorem exec_offerWindowExpiry_none {s : State} {doc : Nat} (absent : ∀ o ∈ s.collect.offers, o.doc ≠ doc) :
    exec (.offerWindowExpiry doc) s = .next s := by
  show execOfferWindowExpiry doc s = _
  rw [execOfferWindowExpiry, openOffer_none absent]

theorem exec_offerWindowExpiry_some {s : State} {doc : Nat} {o : Offer} (runs : openOffer s doc = some o) :
    exec (.offerWindowExpiry doc) s = .next (declineOpen doc (advanceTo o.expiry s)) := by
  show execOfferWindowExpiry doc s = _
  rw [execOfferWindowExpiry, runs]

theorem exec_documentJoinsReadyQueue_due {s : State} {doc : Nat} {d : Document} (found : findDoc s doc = some d)
    (opened : d.life = .opened) (due : d.disposition = .due) : exec (.documentJoinsReadyQueue doc) s = .next (joinReady doc s) := by
  show execDocumentJoinsReadyQueue doc s = _
  rw [execDocumentJoinsReadyQueue, found]
  exact congrArg Host.Outcome.next (if_pos ⟨opened, due⟩)

/-- Settles O44: every way of it is a document that becomes DUE, from the state its command has brought. -/
theorem declinedOffersReturnToTheQueue : Obligations.DeclinedOffersReturnToTheQueue := by
  refine ⟨fun s r doc takes absent => ?_, fun s doc absent => exec_offerWindowExpiry_none absent, fun s doc d found unqueued => ?_⟩
  · have absent : findDoc (takeFrame r.tag s) doc = none := absent
    rw [exec_declineOffer takes, declineOffer, absent]; rfl
  obtain rfl := findDoc_number found
  refine ⟨fun opened due => ?_, fun r takes absent => ?_, fun r o takes member same => ?_, fun o runs => ?_⟩
  · obtain ⟨answers, now, joined, record, others, two, responses, marked⟩ := joinReady_joined found unqueued
    rw [exec_documentJoinsReadyQueue_due found opened due]
    have frame := joinReady_frame d.number s
    generalize joinReady d.number s = t at *
    refine ⟨t, answers, now, rfl, joined, ?_, others, responses, ?_, ?_, ?_, ?_, marked, ?_⟩
    · rw [record, due]
      rcases two with rfl | rfl <;> rfl
    all_goals rw [frame]
  · rw [exec_declineOffer_found takes found, openOffer_none absent]; rfl
  · obtain ⟨answers, now, joined, record, others, responses, marked, frame⟩ :=
      declineOpen_ended (s := takeFrame r.tag s) found unqueued
    rw [exec_declineOffer_found takes found, openOffer_some member same]
    generalize declineOpen d.number (takeFrame r.tag s) = t at *
    refine ⟨_, answers, now, rfl, joined.request .., record, others, ?_, ?_, ?_, ?_, ?_, marked.of_link rfl rfl rfl, ?_⟩
    · show t.link.responses ++ _ = _
      rw [responses]; rfl
    · show t.link.intake = _
      rw [frame]; rfl
    · show t.clock = _
      rw [frame]; rfl
    · show t.dram = _
      rw [frame]; rfl
    · show t.fwd = _
      rw [frame]; rfl
    · rw [frame]; rfl
  · obtain ⟨answers, now, joined, record, others, responses, marked, frame⟩ :=
      declineOpen_ended (s := advanceTo o.expiry s) found unqueued
    have run : (advanceTo o.expiry s).clock.run = max s.clock.run (min o.expiry 18446744073709551615) := advanceTo_clock_run o.expiry s
    rw [exec_offerWindowExpiry_some runs]
    have same : SameQueues s (advanceTo o.expiry s) := ⟨rfl, rfl, rfl, fun _ => rfl⟩
    generalize declineOpen d.number (advanceTo o.expiry s) = t at *
    refine ⟨t, answers, now, rfl, ?_, joined.source same, record, others, responses, ?_, marked.of_link rfl rfl rfl, ?_⟩
    · rw [frame]; exact run
    · rw [frame]; rfl
    · rw [frame]; rfl

end Sys2Proof.Machine
end

section
/-! Add Forward and Cancel Forward (R42, R117 to R121, R139, O47, O48). -/

namespace Sys2Proof.Machine

open Sys2Proof

/-! ## The end of an entry, seen from another state -/

/-- What the end of a forward entry of document n reads of the state before it. -/
structure SameEntries (s s' : State) (n : Nat) : Prop extends SameQueues s s' where
  journal : s'.journal = s.journal
  clock : s'.clock = s.clock
  others : ∀ m, m ≠ n → findDoc s' m = findDoc s m
  classes : s'.link.classes = s.link.classes
  reclaim : s'.dir.reclaim = s.dir.reclaim
  collect : s'.collect = s.collect
  store : s'.store = s.store

theorem EntryEnded.source {s s' t : State} {d : Document} {i : Nat} {e : ForwardEntry} {result : ForwardResult} {answers : List Response}
    (same : SameEntries s s' d.number) (h : EntryEnded s' t d i e result answers) : EntryEnded s t d i e result answers := by
  obtain ⟨queues, journal, clock, others, classes, reclaim, collect, store⟩ := same
  obtain ⟨journals, apart, marked, stays, falls, settled⟩ := h
  rw [journal, clock] at journals
  rw [classes] at marked
  rw [queues.ready, reclaim, collect, store] at stays
  unfold readyQueue acct at *
  rw [queues.ready, collect, reclaim, store] at falls
  rw [clock, queues.ready, reclaim, collect, store] at settled
  refine ⟨journals, fun m hm => (apart m hm).trans (others m hm), marked, stays, fun all failed undue unqueued => ?_, settled⟩
  obtain ⟨now, record, joined, kept⟩ := falls all failed undue unqueued
  exact ⟨now, record, joined.source queues, kept⟩

/-- An entry's end is told of its document whatever the entry was before. -/
theorem EntryEnded.overwritten {s t : State} {d : Document} {i : Nat} {e f : ForwardEntry} {result : ForwardResult} {answers : List Response}
    (h : EntryEnded s t { d with forwards := d.forwards.set i f } i e result answers) : EntryEnded s t d i e result answers := by
  obtain ⟨journals, apart, marked, stays, falls, settled⟩ := h
  simp only [List.set_set] at stays falls settled
  refine ⟨journals, apart, marked, stays, fun all failed undue unqueued => ?_, settled⟩
  obtain ⟨now, record, ⟨others, waits, meets⟩, kept⟩ := falls all failed undue unqueued
  exact ⟨now, record, ⟨others, waits, meets⟩, kept⟩

/-- The response after an entry's end leaves it. -/
theorem EntryEnded.responded {s t : State} {d : Document} {i : Nat} {e : ForwardEntry} {result : ForwardResult} {answers : List Response}
    (h : EntryEnded s t d i e result answers) (tag : Byte) (kind : ReqKind) (status : Status) (content : Content) :
    EntryEnded s (respond tag kind status content t) d i e result answers := by
  obtain ⟨journals, apart, marked, stays, falls, settled⟩ := h
  refine ⟨journals, apart, marked, stays, fun all failed undue unqueued => ?_, settled⟩
  obtain ⟨now, record, joined, kept⟩ := falls all failed undue unqueued
  exact ⟨now, record, joined.target (t := t) rfl rfl rfl, kept⟩

/-- What the end of a forward entry may change (R120, R121). -/
theorem endEntry_frame (n i : Nat) (state : ForwardState) (result : ForwardResult) (s : State) :
    endEntry n i state result s = { s with
      store := (endEntry n i state result s).store, dir := (endEntry n i state result s).dir
      integrity := (endEntry n i state result s).integrity, journal := (endEntry n i state result s).journal
      collect := (endEntry n i state result s).collect
      link := { s.link with
        responses := (endEntry n i state result s).link.responses, notices := (endEntry n i state result s).link.notices } } := by
  unfold endEntry
  dsimp only
  rw [settle_frame, fallback_frame]
  split
  · rw [append_frame]; rfl
  · rfl

/-! ## The list is full (R118) -/

/-- An entry whose job found no room (R118). -/
def ForwardEntry.turnedAway (e : ForwardEntry) : ForwardEntry := { e with last := some .tableFull }

def Document.turnedAway (i : Nat) (d : Document) : Document := { d with forwards := d.forwards.modify i ForwardEntry.turnedAway }

/-- The state in which the entry of a job that found no room ends (R118). -/
def turnAway (n i : Nat) (s : State) : State :=
  { modDoc n (Document.turnedAway i) s with fwd.lastEnd := some ⟨n, i, .tableFull, true⟩ }

theorem createJob_full_eq {s : State} (n i : Nat) (dest : Text) (urgent : Bool) (full : 256 ≤ s.fwd.jobs.length) :
    createJob n i dest urgent s = endEntry n i .failed (.failed .tableFull) (turnAway n i s) := if_neg (Nat.not_lt.2 full)

theorem sameEntries_turnAway (n i : Nat) (s : State) : SameEntries s (turnAway n i s) n :=
  ⟨⟨rfl, rfl, rfl, isUrgent_modDoc n (Document.turnedAway i) (fun _ => rfl) (fun _ => rfl) s⟩, rfl, rfl,
    (modDoc_others n (Document.turnedAway i) (fun _ => rfl) s).1, rfl, rfl, rfl, rfl⟩

theorem createJob_full {s : State} {d : Document} {i : Nat} {e : ForwardEntry} (dest : Text) (urgent : Bool)
    (found : findDoc s d.number = some d) (entry : d.forwards[i]? = some e) (opened : d.life = .opened)
    (full : 256 ≤ s.fwd.jobs.length) : ∃ answers,
    EntryEnded s (createJob d.number i dest urgent s) d i { e with state := .failed, last := some .tableFull } (.failed .tableFull)
      answers ∧
    (createJob d.number i dest urgent s).link.responses = s.link.responses ++ answers ∧
    (createJob d.number i dest urgent s).fwd = { s.fwd with lastEnd := some ⟨d.number, i, .tableFull, true⟩ } := by
  have record : findDoc (turnAway d.number i s) d.number = some (d.turnedAway i) :=
    findDoc_modDoc_self found (fun _ => rfl)
  have shown : d.turnedAway i = { d with forwards := d.forwards.set i e.turnedAway } := by
    rw [← modify_found _ _ _ _ entry]; rfl
  rw [shown] at record
  have length : i < d.forwards.length := (List.getElem?_eq_some_iff.1 entry).1
  obtain ⟨answers, ended, responses⟩ := endEntry_ended (d := { d with forwards := d.forwards.set i e.turnedAway })
    record (List.getElem?_set_self length) opened .failed (.failed .tableFull)
  rw [createJob_full_eq _ _ _ _ full]
  exact ⟨answers, ended.overwritten.source (sameEntries_turnAway d.number i s), responses, by rw [endEntry_frame]; rfl⟩

/-! ## Add Forward -/

theorem isNumber_iff (digits : Text) : isNumber digits = true ↔ 1 ≤ digits.length ∧ digits.length ≤ 24 ∧ allDigits digits = true := by
  simp only [isNumber, isDigits, Bool.and_eq_true, decide_eq_true_eq, and_assoc]; rfl

theorem exec_addForward {s : State} {r : Envelope} {doc : Nat} {digits : Text} (takes : Takes s r) :
    exec (.addForward r doc digits) s = .next (addForward r.tag doc digits (takeFrame r.tag s)) :=
  congrArg Host.Outcome.next (takeRequest_of_takes takes ..)

theorem exec_addForward_refused {s : State} {r : Envelope} {doc : Nat} {digits : Text} {why : Status} (takes : Takes s r)
    (refused : addForwardCheck s doc digits = some why) :
    exec (.addForward r doc digits) s = .next (answered s r .addForward why .empty) := by
  have refused : addForwardCheck (takeFrame r.tag s) doc digits = some why := refused
  rw [exec_addForward takes, addForward, refused]; rfl

/-- The tests of Add Forward on a document that is there (R119). -/
theorem addForwardCheck_found {s : State} {doc : Nat} {digits : Text} {d : Document} (formed : isNumber digits = true)
    (found : findDoc s doc = some d) : addForwardCheck s doc digits =
      if d.life = .landing ∨ d.life = .held then some .wrongState
      else if 4 ≤ d.forwards.length then some .limit
      else if d.forwards.any (fun e => e.state == .pending && decide (e.destination = digits)) then some .inUse
      else if 256 ≤ s.fwd.jobs.length then some .tableFull
      else none := by
  rw [addForwardCheck, if_neg (by rw [formed]; nofun), found]; rfl

/-- A document that Add Forward has returned to OPEN when it was SETTLED (R42). -/
def Document.reopened (d : Document) : Document :=
  if d.life = .settled then { d with life := .opened, settleTime := none, deadline := none } else d

/-- The state in which an accepted Add Forward makes its job (R42, R119). -/
theorem reopen_added {s : State} {doc : Nat} {d : Document} (e : ForwardEntry) (found : findDoc s doc = some d) :
    let t := addForwardEntry doc e (if d.life = .settled then reopen doc s else s)
    findDoc t doc = some { d.reopened with forwards := d.forwards ++ [e] } ∧ OtherDocs s t doc ∧
      t.dir.reclaim = (if d.life = .settled then s.dir.reclaim.filter (fun m => decide (m ≠ doc)) else s.dir.reclaim) ∧
      t = { s with dir := { s.dir with docs := t.dir.docs, reclaim := t.dir.reclaim } } := by
  unfold addForwardEntry
  dsimp only
  by_cases settled : d.life = .settled
  · simp only [if_pos settled, Document.reopened]
    have back : findDoc (reopen doc s) doc = some { d with life := .opened, settleTime := none, deadline := none } :=
      findDoc_modDoc_self (s := { s with dir.reclaim := s.dir.reclaim.filter (fun m => decide (m ≠ doc)) }) found (fun _ => rfl)
    have apart := modDoc_others doc (fun d => { d with life := .opened, settleTime := none, deadline := none }) (fun _ => rfl)
      { s with dir.reclaim := s.dir.reclaim.filter (fun m => decide (m ≠ doc)) }
    have later := modDoc_others doc (fun d => { d with forwards := d.forwards ++ [e] }) (fun _ => rfl) (reopen doc s)
    exact ⟨findDoc_modDoc_self back (fun _ => rfl),
      ⟨fun m hm => (later.1 m hm).trans (apart.1 m hm), later.2.trans apart.2⟩, rfl, rfl⟩
  · simp only [if_neg settled, Document.reopened]
    exact ⟨findDoc_modDoc_self found (fun _ => rfl),
      modDoc_others doc (fun d => { d with forwards := d.forwards ++ [e] }) (fun _ => rfl) s, rfl, rfl⟩

theorem exec_addForward_accepted {s : State} {r : Envelope} {doc : Nat} {digits : Text} {d : Document} (takes : Takes s r)
    (found : findDoc s doc = some d) (accepted : addForwardCheck s doc digits = none) :
    let u := addForwardEntry doc (ForwardEntry.fresh digits) (if d.life = .settled then reopen doc (takeFrame r.tag s) else takeFrame r.tag s)
    let made := addJob doc d.forwards.length digits (d.priority == .urgent) u
    exec (.addForward r doc digits) s = .next (respond r.tag .addForward .done (.forwardAdded d.forwards.length made.2) made.1) := by
  have accepted : addForwardCheck (takeFrame r.tag s) doc digits = none := accepted
  have found : findDoc (takeFrame r.tag s) doc = some d := found
  rw [exec_addForward takes, addForward, accepted, found]

/-- Settles O47: the refusals are the tests in their order, and the full list is an entry's end. -/
theorem addForwardMakesAJob : Obligations.AddForwardMakesAJob := by
  refine ⟨fun s r doc digits takes => ⟨fun illFormed => ?_, fun formed absent => ?_, fun d formed found => ?_⟩,
    fun s d i e dest urgent found entry opened full => createJob_full dest urgent found entry opened full⟩
  · rw [← isNumber_iff, Bool.not_eq_true] at illFormed
    exact exec_addForward_refused takes (if_pos illFormed)
  · refine exec_addForward_refused takes ?_
    rw [addForwardCheck, if_neg (by rw [(isNumber_iff digits).2 formed]; nofun), absent]
  · have check := addForwardCheck_found ((isNumber_iff digits).2 formed) found
    have twice : (d.forwards.any (fun e => e.state == .pending && decide (e.destination = digits)) = true) ↔
        ∃ e ∈ d.forwards, e.state = .pending ∧ e.destination = digits := by
      simp
    refine ⟨fun early => ?_, fun late full => ?_, fun late room again => ?_, fun late room once full => ?_,
      fun late room once free => ?_⟩
    · exact exec_addForward_refused takes (check.trans (if_pos early))
    · rw [if_neg late, if_pos full] at check
      exact exec_addForward_refused takes check
    · rw [if_neg late, if_neg (by omega), if_pos (twice.2 again)] at check
      exact exec_addForward_refused takes check
    · rw [if_neg late, if_neg (by omega), if_neg (fun h => once (twice.1 h)), if_pos full] at check
      exact exec_addForward_refused takes check
    · rw [if_neg late, if_neg (by omega), if_neg (fun h => once (twice.1 h)), if_neg (by omega)] at check
      obtain ⟨record, others, reclaim, frame⟩ := reopen_added (s := takeFrame r.tag s) (ForwardEntry.fresh digits) found
      have next := exec_addForward_accepted takes found check
      dsimp only at next
      generalize addForwardEntry doc (ForwardEntry.fresh digits)
        (if d.life = .settled then reopen doc (takeFrame r.tag s) else takeFrame r.tag s) = u at *
      have fwd : u.fwd = s.fwd := by rw [frame]; rfl
      have clock : u.clock = s.clock := by rw [frame]; rfl
      have urgent : (d.priority == .urgent) = decide (d.priority = .urgent) := by cases d.priority <;> rfl
      refine ⟨_, freeJobNumber s.fwd.jobs s.fwd.jobs.length s.fwd.nextJob, next, ?_, fun ok => ?_, fun opened => ?_, fun settled => ?_,
        others, ⟨?_, ?_⟩, ?_⟩
      · unfold addJob oweRun
        rw [fwd, clock, urgent]; rfl
      · obtain ⟨⟨low, high⟩, unused⟩ := freeJobNumber_free free.le ok.numbers.1
        exact ⟨low, high, fun k member same => unused ⟨k, member, same⟩⟩
      · have notSettled : d.life ≠ .settled := by rw [opened]; nofun
        rw [Document.reopened, if_neg notSettled] at record
        rw [if_neg notSettled] at reclaim
        exact ⟨record, reclaim⟩
      · rw [Document.reopened, if_pos settled] at record
        rw [if_pos settled] at reclaim
        exact ⟨record, reclaim⟩
      · show u.link.intake = _
        rw [frame]; rfl
      · show u.link.responses ++ [⟨_, _, _, .forwardAdded _ (freeJobNumber u.fwd.jobs u.fwd.jobs.length u.fwd.nextJob)⟩] = _
        rw [fwd, frame]; rfl
      · rw [frame]; rfl

/-! ## Cancel Forward -/

theorem exec_cancelForward {s : State} {r : Envelope} {doc index : Nat} (takes : Takes s r) :
    exec (.cancelForward r doc index) s = .next (cancelForward r.tag doc index (takeFrame r.tag s)) :=
  congrArg Host.Outcome.next (takeRequest_of_takes takes ..)

theorem entryOf_found {s : State} {n i : Nat} {d : Document} (found : findDoc s n = some d) : entryOf s n i = d.forwards[i]? := by
  rw [entryOf, found]; rfl

theorem isFinal_false {e : ForwardEntry} (pending : e.state = .pending) : e.isFinal = false := by
  rw [ForwardEntry.isFinal, pending]; rfl

/-- Cancel Forward of a PENDING entry (R139). -/
theorem exec_cancelForward_pending {s : State} {r : Envelope} {doc index : Nat} {e : ForwardEntry} (takes : Takes s r) (small : index ≤ 3)
    (entry : entryOf s doc index = some e) (pending : e.state = .pending) :
    exec (.cancelForward r doc index) s = .next (
      if atHighWater s then answered s r .cancelForward .journalFull .empty
      else respond r.tag .cancelForward .done (.forwardCancelled ((jobOf s doc index).any Job.inCall))
        (endEntry doc index .cancelled .cancelled (match jobOf s doc index with
          | some j => cancelJob j (takeFrame r.tag s)
          | none => takeFrame r.tag s))) := by
  have entry : entryOf (takeFrame r.tag s) doc index = some e := entry
  have range : ¬ maxForwards ≤ index := by unfold maxForwards; omega
  rw [exec_cancelForward takes, cancelForward, if_neg range, entry]
  dsimp only
  rw [if_neg (by rw [isFinal_false pending]; nofun)]
  rfl

theorem releaseCall_frame (j : Job) (s : State) : releaseCall j s = { s with
    lines := (releaseCall j s).lines, callers := (releaseCall j s).callers
    link := { s.link with notices := (releaseCall j s).link.notices } } := by
  unfold releaseCall
  split
  · rfl
  · split
    · unfold releaseAttempt
      split
      · rfl
      · rw [releaseWith_eq]; rfl
    · rfl

/-- What a cancelled job's going may change (R139). -/
theorem cancelJob_frame (j : Job) (s : State) : cancelJob j s = { s with
    lines := (cancelJob j s).lines, callers := (cancelJob j s).callers
    fwd := { s.fwd with
      jobs := s.fwd.jobs.filter (fun k => decide (k.number ≠ j.number)), runOwed := s.fwd.runOwed || j.inCall }
    link := { s.link with notices := (cancelJob j s).link.notices } } := by
  unfold cancelJob
  cases j.inCall with
  | false => rw [Bool.or_false]; rfl
  | true => rw [Bool.or_true, if_pos rfl, releaseCall_frame]; rfl

/-- A cancelled job's entry reads the state before the job's going as the one after it. -/
theorem sameEntries_cancelJob (j : Job) (s : State) (n : Nat) : SameEntries s (cancelJob j s) n := by
  rw [cancelJob_frame]
  exact ⟨⟨rfl, rfl, rfl, fun _ => rfl⟩, rfl, rfl, fun _ _ => rfl, rfl, rfl, rfl, rfl⟩

theorem cancelJob_waiting {j : Job} (waiting : j.inCall = false) (s : State) : cancelJob j s = dropJob j.number s := by
  rw [cancelJob, waiting]; rfl

/-- A call that sends for the job is released on its line, with a NEUTRAL classification (R139, R106). -/
theorem cancelJob_calling {j : Job} {s : State} {n : LineNo} {w : Option Wait} {u : TxCall} (calls : j.inCall = true) (line : j.line = some n)
    (call : (lineAt s n).call = some ⟨w, .sender u⟩) (job : u.job = j.number) (sending : sendingChan (lineAt s n).chan = true) :
    cancelJob j s = oweRun (dropJob j.number (mark (.line n) (handClass u.destination .neutral (releaseWith n .release s)))) := by
  have tx : txOf (lineAt s n) = some u := by rw [txOf, call]
  have carries : (inSending (lineAt s n) && (txOf (lineAt s n)).any (fun t => decide (t.job = j.number))) = true := by
    simp [inSending, tx, sending, job]
  rw [cancelJob, if_pos calls, releaseCall, line]
  dsimp only
  rw [if_pos carries, releaseAttempt, tx]

/-- A call already in RELEASING is left as it is (R139). -/
theorem cancelJob_releasing {j : Job} {s : State} {n : LineNo} (calls : j.inCall = true) (line : j.line = some n)
    (releasing : (lineAt s n).chan = .releasing) : cancelJob j s = oweRun (dropJob j.number s) := by
  have idle : ¬ (inSending (lineAt s n) && (txOf (lineAt s n)).any (fun t => decide (t.job = j.number))) = true := by
    simp [inSending, releasing, sendingChan]
  rw [cancelJob, if_pos calls, releaseCall, line]
  dsimp only
  rw [if_neg idle]

/-- A cancelled job has gone, from s to u (R139). -/
structure JobCancelled (s u : State) (j : Job) : Prop where
  frame : u = { s with
    lines := u.lines, callers := u.callers
    fwd := { s.fwd with
      jobs := s.fwd.jobs.filter (fun k => decide (k.number ≠ j.number)), runOwed := s.fwd.runOwed || j.inCall }
    link := { s.link with notices := u.link.notices } }
  waiting : j.inCall = false → u.lines = s.lines ∧ u.callers = s.callers
  calling : ∀ n w u', j.inCall = true → j.line = some n → (lineAt s n).call = some ⟨w, .sender u'⟩ → u'.job = j.number →
    sendingChan (lineAt s n).chan = true → OtherLines s u n ∧ lineAt u n = (lineAt s n).releases s.clock.run .release ∧
    u.callers = { s.callers with handed := s.callers.handed ++ [⟨u'.destination, .neutral⟩] }
  releasing : ∀ n, j.inCall = true → j.line = some n → (lineAt s n).chan = .releasing → u.lines = s.lines ∧ u.callers = s.callers

theorem cancelJob_cancelled (j : Job) (s : State) : JobCancelled s (cancelJob j s) j := by
  refine ⟨cancelJob_frame j s, fun waiting => ?_, fun n w u calls line call carries sending => ?_, fun n calls line releasing => ?_⟩
  · rw [cancelJob_waiting waiting]; exact ⟨rfl, rfl⟩
  · rw [cancelJob_calling calls line call carries sending, releaseWith_eq]
    have released := lineAt_modLine_self n (fun l => l.releases s.clock.run .release) s
    have others (m : LineNo) (hm : m ≠ n) := lineAt_modLine_ne hm (fun l => l.releases s.clock.run .release) s
    exact ⟨others, released, rfl⟩
  · rw [cancelJob_releasing calls line releasing]; exact ⟨rfl, rfl⟩

theorem sameEntries_takeFrame (tag : Byte) (s : State) (n : Nat) : SameEntries s (takeFrame tag s) n :=
  ⟨⟨rfl, rfl, rfl, fun _ => rfl⟩, rfl, rfl, fun _ _ => rfl, rfl, rfl, rfl, rfl⟩

/-- Settles O48: the refusals in their order, then the job's going and the entry's end, each seen from the state before. -/
theorem cancelForwardEndsTheEntry : Obligations.CancelForwardEndsTheEntry := by
  refine fun s r doc index takes => ⟨fun big => ?_, fun small done => ?_, fun d e small found entry pending => ⟨fun high => ?_, ?_⟩⟩
  · have range : maxForwards ≤ index := big
    rw [exec_cancelForward takes, cancelForward, if_pos range]; rfl
  · have range : ¬ maxForwards ≤ index := by unfold maxForwards; omega
    rw [exec_cancelForward takes, cancelForward, if_neg range]
    cases entry : entryOf (takeFrame r.tag s) doc index with
    | none => rfl
    | some e =>
      obtain ⟨d, found, place⟩ := Option.bind_eq_some_iff.1 entry
      have final : e.isFinal = true := by
        have := done d e found place
        unfold ForwardEntry.isFinal; cases h : e.state <;> simp_all
      dsimp only
      rw [if_pos final]; rfl
  all_goals have place : entryOf s doc index = some e := (entryOf_found found).trans entry
  · rw [exec_cancelForward_pending takes small place pending, if_pos ((atHighWater_iff s).2 high)]
  · intro j low opened job
    have job : jobOf s doc index = some j := job
    obtain rfl := findDoc_number found
    rw [exec_cancelForward_pending takes small place pending, if_neg (fun h => by have := (atHighWater_iff s).1 h; omega), job]
    dsimp only [Option.any_some]
    obtain ⟨gone, waiting, calling, releasing⟩ := cancelJob_cancelled j (takeFrame r.tag s)
    have same := sameEntries_cancelJob j (takeFrame r.tag s) d.number
    generalize cancelJob j (takeFrame r.tag s) = u at *
    have record : findDoc u d.number = some d := by rw [gone]; exact found
    obtain ⟨answers, ended, responses⟩ := endEntry_ended record entry opened .cancelled .cancelled
    have frame := endEntry_frame d.number index .cancelled .cancelled u
    generalize endEntry d.number index .cancelled .cancelled u = t at *
    have lines : t.lines = u.lines := by rw [frame]
    have callers : t.callers = u.callers := by rw [frame]
    refine ⟨_, answers, rfl, ((ended.source same).source (sameEntries_takeFrame r.tag s d.number)).responded .., ?_, ?_, ?_,
      fun waits => ?_, fun n w x calls line call carries sending => ?_, fun n calls line ends => ?_, ?_⟩
    · show t.link.intake = _
      rw [frame, gone]; rfl
    · show t.link.responses ++ _ = _
      rw [responses, gone]; rfl
    · show t.fwd = _
      rw [frame, gone]; rfl
    · show t.lines = _ ∧ t.callers = _
      rw [lines, callers]; exact waiting waits
    · show (∀ m : LineNo, m ≠ n → t.lines[m.val] = _) ∧ t.lines[n.val] = _ ∧ t.callers = _
      rw [lines, callers]; exact calling n w x calls line call carries sending
    · show t.lines = _ ∧ t.callers = _
      rw [lines, callers]; exact releasing n calls line ends
    · rw [frame, gone]; rfl

end Sys2Proof.Machine
end

section
/-! The tables and queues keep within their places through the operations that the commands share (O9). -/

namespace Sys2Proof.Machine

open Sys2Proof

/-- A state with the tables, queues and run time of one that fits, fits. -/
theorem fits_same {s t : State} (h : TablesFit s)
    (same : (t.collect.queue, t.link.intake, t.dir.verifications, t.routes, t.fwd.jobs, t.dir.docs, t.journal.ring, t.integrity.records,
      t.clock.run) = (s.collect.queue, s.link.intake, s.dir.verifications, s.routes, s.fwd.jobs, s.dir.docs, s.journal.ring,
      s.integrity.records, s.clock.run)) : TablesFit t := by
  simp only [Prod.mk.injEq] at same
  obtain ⟨queue, taken, running, table, list, docs, places, log, run⟩ := same
  exact ⟨queue ▸ h.collects, taken ▸ h.intake, running ▸ h.verifications, table ▸ h.routes, list ▸ h.jobs, docs ▸ h.records,
    places ▸ h.ring, log ▸ h.errors, run ▸ h.runTime⟩

theorem fits_ite {p : Prop} [Decidable p] {s t : State} (h : TablesFit s) (k : TablesFit t) : TablesFit (if p then s else t) := by
  split
  · exact h
  · exact k

theorem fits_foldl {α : Type} {f : State → α → State} (each : ∀ s x, TablesFit s → TablesFit (f s x)) (xs : List α) {s : State}
    (h : TablesFit s) : TablesFit (xs.foldl f s) := by
  induction xs generalizing s with
  | nil => exact h
  | cons x xs ih => exact ih (each s x h)

theorem fits_mark (x : Subject) {s : State} (h : TablesFit s) : TablesFit (mark x s) := fits_same h rfl

theorem fits_respond (tag : Byte) (kind : ReqKind) (status : Status) (content : Content) {s : State} (h : TablesFit s) :
    TablesFit (respond tag kind status content s) := fits_same h rfl

theorem fits_modLine (n : LineNo) (f : Line → Line) {s : State} (h : TablesFit s) : TablesFit (modLine n f s) := fits_same h rfl

theorem fits_modStats (n : LineNo) (f : LineStats → LineStats) {s : State} (h : TablesFit s) : TablesFit (modStats n f s) :=
  fits_modLine n _ h

theorem fits_modRx (n : LineNo) (f : RxCall → RxCall) {s : State} (h : TablesFit s) : TablesFit (modRx n f s) := fits_modLine n _ h

theorem fits_modTx (n : LineNo) (f : TxCall → TxCall) {s : State} (h : TablesFit s) : TablesFit (modTx n f s) := fits_modLine n _ h

theorem fits_setChan (n : LineNo) (c : Chan) {s : State} (h : TablesFit s) : TablesFit (setChan n c s) := fits_modLine n _ h

theorem fits_setWait (n : LineNo) (w : Option Wait) {s : State} (h : TablesFit s) : TablesFit (setWait n w s) := fits_modLine n _ h

theorem fits_sendCmd (n : LineNo) (c : PortCommand) {s : State} (h : TablesFit s) : TablesFit (sendCmd n c s) := fits_modLine n _ h

theorem fits_releaseWith (n : LineNo) (c : PortCommand) {s : State} (h : TablesFit s) : TablesFit (releaseWith n c s) := by
  rw [releaseWith_eq]; exact fits_modLine n _ h

theorem fits_handClass (number : Text) (c : CallClass) {s : State} (h : TablesFit s) : TablesFit (handClass number c s) := fits_same h rfl

theorem fits_report (n : LineNo) {s : State} (h : TablesFit s) : TablesFit (report n s) := fits_same h rfl

theorem fits_oweRun {s : State} (h : TablesFit s) : TablesFit (oweRun s) := fits_same h rfl

theorem fits_reportRun (n : LineNo) {s : State} (h : TablesFit s) : TablesFit (reportRun n s) := fits_oweRun (fits_report n h)

theorem fits_startWait (n : LineNo) (k : WaitKind) (ms : Nat) {s : State} (h : TablesFit s) : TablesFit (startWait n k ms s) :=
  fits_setWait n _ h

/-! ## Time and the journal -/

/-- Run time that passes stays a count of 64 bits (R186). -/
theorem fits_advance (ms : Nat) {s : State} (h : TablesFit s) : TablesFit (advance ms s) :=
  { h with runTime := later_le h.runTime ms }

theorem fits_advanceTo (time : Nat) {s : State} (h : TablesFit s) : TablesFit (advanceTo time s) := fits_advance _ h

/-- An entry takes a free place of the ring, or that of the oldest (R173). -/
theorem fits_writeEntry (content : JournalContent) {s : State} (h : TablesFit s) : TablesFit (writeEntry content s) := by
  have places : (s.journal.written content s.clock.cal s.clock.trusted).ring.length ≤ ringPlaces := by
    have := h.ring
    unfold Journal.written
    dsimp only
    rw [List.length_append, List.length_singleton]
    unfold ringPlaces at *
    split
    · omega
    · rw [List.length_tail]; omega
  have written : TablesFit { s with journal := s.journal.written content s.clock.cal s.clock.trusted } :=
    { h with ring := places }
  rw [writeEntry_eq]
  exact fits_ite (fits_same written rfl) written

theorem fits_append (content : JournalContent) {s : State} (h : TablesFit s) : TablesFit (append content s).1 := by
  unfold append
  split
  · exact fits_writeEntry content h
  · exact fits_same h rfl

/-! ## The store -/

theorem fits_evalPressure {s : State} (h : TablesFit s) : TablesFit (evalPressure s) := by
  rw [evalPressure_frame]; exact fits_same h rfl

theorem fits_freeBlocks (d : Dept) (bs : List Block) {s : State} (h : TablesFit s) : TablesFit (freeBlocks d bs s) := by
  rw [freeBlocks_frame]; exact fits_same h rfl

theorem fits_modDoc (n : Nat) (f : Document → Document) {s : State} (h : TablesFit s) : TablesFit (modDoc n f s) :=
  { h with records := (List.length_map _).le.trans h.records }

/-- An error record takes a free place of the log, or that of the oldest (R200). -/
theorem fits_appendRecord (r : ErrorRecord) {s : State} (h : TablesFit s) : TablesFit (appendRecord r s) := by
  have places : (appendRecord r s).integrity.records.length ≤ maxRecords := by
    have := h.errors
    show ((if s.integrity.records.length < maxRecords then s.integrity.records else s.integrity.records.drop 1) ++ [r]).length ≤ _
    rw [List.length_append, List.length_singleton]
    unfold maxRecords at *
    split
    · omega
    · rw [List.length_drop]; omega
  exact { h with errors := places }

theorem fits_readSpan (reader : Reader) (doc : Nat) (pg : Page) (off size : Nat) {s : State} (h : TablesFit s) :
    TablesFit (readSpan reader doc pg off size s).1 := by
  unfold readSpan
  split
  · exact h
  · dsimp only
    split
    · exact h
    · have marked (v : List (Block × HealthEntry)) : TablesFit (markDamaged doc pg.number { s with integrity.health := v }) :=
        fits_modDoc _ _ (fits_same h rfl)
      split
      · split
        · exact fits_same (fits_appendRecord _ (fits_append _ (marked _))) rfl
        · exact fits_same (fits_appendRecord _ (marked _)) rfl
      · exact fits_same (fits_appendRecord _ (fits_same (t := { s with integrity.health := _ }) h rfl)) rfl

theorem fits_closeGroup (l : Landing) {s : State} (h : TablesFit s) : TablesFit (closeGroup l s) := by
  rw [closeGroup_frame]; exact fits_same h rfl

/-! ## Purges and the allocation test -/

theorem purgeDoc_docs_le (n : Nat) (s : State) : (purgeDoc n s).dir.docs.length ≤ s.dir.docs.length := by
  cases found : findDoc s n with
  | none => unfold purgeDoc; rw [found]
  | some d => rw [purgeDoc_docs found]; exact List.length_filter_le _ _

theorem fits_purgeDoc (n : Nat) {s : State} (h : TablesFit s) : TablesFit (purgeDoc n s) := by
  have records := purgeDoc_docs_le n s
  rw [purgeDoc_frame]
  exact { h with records := records.trans h.records }

theorem fits_purgeEvent (n : Nat) {s : State} (h : TablesFit s) : TablesFit (purgeEvent n s) := fits_evalPressure (fits_purgeDoc n h)

theorem fits_purgeIfPassed (n : Nat) {s : State} (h : TablesFit s) : TablesFit (purgeIfPassed n s) := by
  unfold purgeIfPassed
  split
  · exact h
  · split
    · exact h
    · exact fits_ite (fits_purgeEvent n h) h

theorem fits_rounds {s t : State} {d : Dept} {k : Nat} (rounds : Relation.ReflTransGen (ReclaimRound d k) s t) (h : TablesFit s) :
    TablesFit t :=
  ReclaimRound.keeps rounds (fun _ m _ hu => fits_purgeDoc m hu) h

theorem fits_allocFailed (d : Dept) (k : Nat) (cause : AllocCause) {s : State} (h : TablesFit s) : TablesFit (allocFailed d k cause s) :=
  fits_evalPressure (fits_same h rfl)

theorem fits_reserve (n : LineNo) (d : Dept) (k : Nat) {s : State} (h : TablesFit s) : TablesFit (reserve n d k s).1 := by
  obtain ⟨u, rounds, ⟨made, -⟩ | ⟨cause, made, -⟩⟩ := reserve_cases n d k s <;> rw [made]
  · exact fits_evalPressure (fits_same (fits_rounds rounds h) rfl)
  · exact fits_allocFailed d k cause (fits_rounds rounds h)

theorem fits_reserve_eq {n : LineNo} {d : Dept} {k : Nat} {s t : State} {b : Bool} (made : reserve n d k s = (t, b)) (h : TablesFit s) :
    TablesFit t := by
  have := fits_reserve n d k h
  rwa [made] at this

theorem fits_drawBlock (n : LineNo) (d : Dept) (held : Nat) {s : State} (h : TablesFit s) : TablesFit (drawBlock n d held s).1 := by
  unfold drawBlock
  split
  · exact h
  · split
    · split
      · exact h
      · exact fits_evalPressure (fits_same h rfl)
    · obtain ⟨u, rounds, ⟨made, -⟩ | ⟨cause, made, -⟩⟩ := allocTest_cases d 1 s <;> rw [made] <;> dsimp only
      · split
        · exact fits_evalPressure (fits_rounds rounds h)
        · exact fits_evalPressure (fits_same (fits_rounds rounds h) rfl)
      · exact fits_allocFailed d 1 cause (fits_rounds rounds h)

theorem fits_topUp (n : LineNo) (d : Dept) {s : State} (h : TablesFit s) : TablesFit (topUp n d s) :=
  fits_ite (fits_reserve n d _ h) h

theorem fits_releaseAllotment (n : LineNo) {s : State} (h : TablesFit s) : TablesFit (releaseAllotment n s) := by
  unfold releaseAllotment
  split
  · exact fits_same h rfl
  · exact fits_evalPressure (fits_same h rfl)

/-- A slot that has been had leaves a place in the directory for its record (R29, R30). -/
theorem fits_addDoc_slot {s s' : State} {number : Nat} (h : TablesFit s) (slot : takeSlot s = some (s', number)) (d : Document) :
    TablesFit (addDoc d s') := by
  have room : TablesFit s' ∧ s'.dir.docs.length < recordSlots := by
    unfold takeSlot at slot
    split at slot
    · cases slot
    · dsimp only at slot
      split at slot
      next free =>
        obtain ⟨rfl, -⟩ := Prod.mk.inj (Option.some.inj slot)
        exact ⟨fits_same h rfl, free⟩
      next full =>
        obtain ⟨m, oldest, made⟩ := Option.map_eq_some_iff.1 slot
        obtain ⟨rfl, -⟩ := Prod.mk.inj made
        obtain ⟨-, x, found, -⟩ := ((candidate_eq_some_iff s (fun _ => true) m).1 oldest).found
        refine ⟨fits_same (fits_purgeEvent m h) rfl, ?_⟩
        have shorter : (s.dir.docs.filter (fun y => decide (y.number ≠ m))).length < s.dir.docs.length :=
          List.length_filter_lt_length_iff_exists.2 ⟨x, List.mem_of_find?_eq_some found, by simpa using findDoc_number found⟩
        have fits := h.records
        show (purgeEvent m s).dir.docs.length < _
        rw [purgeEvent_dir, purgeDoc_docs found]
        omega
  refine { room.1 with records := ?_ }
  rw [addDoc_dir_docs, List.length_append, List.length_singleton]
  omega

theorem fits_dropDoc (n : Nat) {s : State} (h : TablesFit s) : TablesFit (dropDoc n s) :=
  { h with records := (List.length_filter_le _ _).trans h.records }

/-! ## Offers and forward entries -/

theorem fits_makeOffer (d : Document) (tag : Byte) (timeout : Nat) {s : State} (h : TablesFit s) : TablesFit (makeOffer d tag timeout s) :=
  fits_same (fits_modDoc d.number _ (s := setReady d.dept _ s) (fits_same h rfl)) rfl

theorem fits_matchDoc (d : Document) {s : State} (h : TablesFit s) : TablesFit (matchDoc d s) := by
  unfold matchDoc
  split
  · exact fits_makeOffer _ _ _ { h with collects := List.length_eraseP_le.trans h.collects }
  · exact fits_same h rfl

theorem fits_joinReady (n : Nat) {s : State} (h : TablesFit s) : TablesFit (joinReady n s) := by
  unfold joinReady
  split
  · exact h
  · exact fits_matchDoc _ (fits_ite h (fits_same h rfl))

theorem fits_becomeDue (n : Nat) {s : State} (h : TablesFit s) : TablesFit (becomeDue n s) := fits_joinReady n (fits_modDoc n _ h)

theorem fits_declineOpen (n : Nat) {s : State} (h : TablesFit s) : TablesFit (declineOpen n s) :=
  fits_becomeDue n (fits_modDoc n _ (fits_same h rfl))

theorem fits_settle (n : Nat) {s : State} (h : TablesFit s) : TablesFit (settle n s) := by
  unfold settle
  split
  · exact h
  · have settled (f : Document → Document) (r : List Nat) : TablesFit { modDoc n f s with dir.reclaim := r } :=
      fits_same (fits_modDoc n f h) rfl
    exact fits_ite (fits_ite (fits_purgeEvent n (settled _ _)) (settled _ _)) h

theorem fits_fallback (n : Nat) {s : State} (h : TablesFit s) : TablesFit (fallback n s) := by
  unfold fallback
  split
  · exact h
  · exact fits_ite (fits_same (fits_becomeDue n h) rfl) h

theorem fits_modForward (n i : Nat) (f : ForwardEntry → ForwardEntry) {s : State} (h : TablesFit s) : TablesFit (modForward n i f s) :=
  fits_modDoc n _ h

theorem fits_modJob (j : Nat) (f : Job → Job) {s : State} (h : TablesFit s) : TablesFit (modJob j f s) :=
  { h with jobs := (List.length_map _).le.trans h.jobs }

theorem fits_dropJob (j : Nat) {s : State} (h : TablesFit s) : TablesFit (dropJob j s) :=
  { h with jobs := (List.length_filter_le _ _).trans h.jobs }

/-- A job joins a list with room for it (R116, R118). -/
theorem fits_addJob (n i : Nat) (dest : Text) (urgent : Bool) {s : State} (h : TablesFit s) (room : s.fwd.jobs.length < maxJobs) :
    TablesFit (addJob n i dest urgent s).1 := by
  refine { h with jobs := ?_ }
  show (s.fwd.jobs ++ [_]).length ≤ _
  rw [List.length_append, List.length_singleton]
  exact room

theorem fits_endEntry (n i : Nat) (state : ForwardState) (result : ForwardResult) {s : State} (h : TablesFit s) :
    TablesFit (endEntry n i state result s) := by
  refine fits_settle n (fits_fallback n (fits_same (s := match entryOf (modForward n i (fun e => { e with state := state }) s) n i with
    | some e => (append (.forward n i e.destination result e.attempts e.pages) (modForward n i (fun e => { e with state := state }) s)).1
    | none => modForward n i (fun e => { e with state := state }) s) ?_ rfl))
  split
  · exact fits_append _ (fits_modForward n i _ h)
  · exact fits_modForward n i _ h

theorem fits_createJob (n i : Nat) (dest : Text) (urgent : Bool) {s : State} (h : TablesFit s) : TablesFit (createJob n i dest urgent s) := by
  unfold createJob
  split
  next room => exact fits_addJob n i dest urgent h room
  next full => exact fits_endEntry n i _ _ (fits_same (fits_modForward n i (fun e => { e with last := some .tableFull }) h) rfl)

/-! ## Entering OPEN, landing and continuation -/

theorem fits_openForwards (n : Nat) (urgent : Bool) (i : Nat) (dests : List Text) {s : State} (h : TablesFit s) :
    TablesFit (openForwards n urgent i dests s) := by
  induction dests generalizing i s with
  | nil => exact h
  | cons dest rest ih => exact ih (i + 1) (fits_createJob n i dest urgent (fits_modDoc n _ h))

theorem fits_enterOpen (n : Nat) {s : State} (h : TablesFit s) : TablesFit (enterOpen n s) := by
  unfold enterOpen
  split
  · exact h
  · have opened := fits_modDoc n (fun e => { e with life := .opened }) h
    exact fits_settle n (fits_fallback n (fits_openForwards n _ 0 _ (fits_ite (fits_becomeDue n opened) opened)))

theorem fits_freeLanding (n : Nat) {s : State} (h : TablesFit s) : TablesFit (freeLanding n s) := by
  unfold freeLanding
  split
  · exact h
  · split
    · exact h
    · exact fits_evalPressure (fits_modDoc n _ (fits_freeBlocks _ _ (fits_closeGroup _ h)))

theorem fits_landDocument (n : Nat) (o : ReceiptOutcome) {s : State} (h : TablesFit s) : TablesFit (landDocument n o s) := by
  unfold landDocument
  dsimp only
  split
  · exact fits_freeLanding n h
  · have landed (content : JournalContent) (f g : Document → Document) :=
      fits_modDoc n g (fits_append content (fits_modDoc n f (fits_freeLanding n h)))
    exact fits_same (fits_ite (fits_modDoc n (fun e => { e with life := .held }) (landed _ _ _)) (fits_enterOpen n (landed _ _ _))) rfl

theorem fits_endDocument (n : Nat) (o : ReceiptOutcome) {s : State} (h : TablesFit s) : TablesFit (endDocument n o s) := by
  unfold endDocument
  split
  · exact h
  · refine fits_ite ?_ (fits_landDocument n o h)
    unfold dropEmpty
    dsimp only
    split
    · exact fits_freeLanding n h
    · exact fits_append _ (fits_dropDoc n (fits_freeLanding n h))

theorem fits_continueDoc {a b : Nat} {s t : State} (h : TablesFit s) (made : continueDoc a s = some (t, b)) : TablesFit t := by
  unfold continueDoc at made
  split at made
  · cases made
  · obtain ⟨⟨u, number⟩, slot, e⟩ := Option.map_eq_some_iff.1 made
    obtain ⟨rfl, -⟩ := Prod.mk.inj e
    exact fits_landDocument a .continued (fits_modDoc a _ (fits_addDoc_slot h slot _))

/-! ## Lines -/

theorem fits_lookupCaller (number : Text) {s : State} (h : TablesFit s) : TablesFit (lookupCaller number s).1 := by
  unfold lookupCaller
  split
  · exact h
  · exact fits_same h rfl

theorem fits_applyPending (n : LineNo) {s : State} (h : TablesFit s) : TablesFit (applyPending n s) := by
  unfold applyPending
  split
  · exact h
  · exact fits_mark _ (fits_sendCmd n _ (fits_modLine n _ h))

theorem fits_returnToIdle (n : LineNo) {s : State} (h : TablesFit s) : TablesFit (returnToIdle n s) :=
  fits_reportRun n (fits_applyPending n (fits_modLine n _ h))

theorem fits_endReceiving (n : LineNo) (e : RxEnd) (release : Bool) {s : State} (h : TablesFit s) :
    TablesFit (endReceiving n e release s) := by
  unfold endReceiving
  split
  · exact h
  · rename_i c _
    dsimp only
    have released : TablesFit (if release = true then releaseWith n .release s else s) := fits_ite (fits_releaseWith n _ h) h
    generalize (if release = true then releaseWith n .release s else s) = u at released
    cases c.document with
    | none =>
      have ended := fits_releaseAllotment n released
      dsimp only
      split
      · exact fits_mark _ (fits_handClass _ _ ended)
      · exact fits_mark _ ended
    | some d =>
      have ended := fits_releaseAllotment n (fits_endDocument d e.outcome released)
      dsimp only
      split
      · exact fits_mark _ (fits_handClass _ _ ended)
      · exact fits_mark _ ended

theorem fits_endAttempt (n : LineNo) (o : AttemptOutcome) (cause : TxCause) (release : Bool) {s : State} (h : TablesFit s) :
    TablesFit (endAttempt n o cause release s) := by
  unfold endAttempt
  split
  · exact h
  · have released : TablesFit (if release = true then releaseWith n .release s else s) := fits_ite (fits_same h rfl) h
    exact fits_same released rfl

theorem fits_releaseAttempt (n : LineNo) {s : State} (h : TablesFit s) : TablesFit (releaseAttempt n s) := by
  unfold releaseAttempt
  split
  · exact h
  · exact fits_mark _ (fits_handClass _ _ (fits_releaseWith n _ h))

theorem fits_endByFault (n : LineNo) (e : RxEnd) {s : State} (h : TablesFit s) : TablesFit (endByFault n e s) :=
  fits_ite (fits_endReceiving n e false h) (fits_ite (fits_endAttempt n _ _ false h) (fits_ite (fits_mark _ h) h))

theorem fits_enterFault (n : LineNo) (cause : FaultCause) {s : State} (h : TablesFit s) : TablesFit (enterFault n cause s) :=
  fits_reportRun n (fits_mark _ (fits_modLine n _ (fits_endByFault n .fault h)))

theorem fits_lineLost (n : LineNo) {s : State} (h : TablesFit s) : TablesFit (lineLost n s) :=
  fits_ite (fits_endReceiving n .lost true h) (fits_ite (fits_endAttempt n .lineLost .lost true h) h)

theorem fits_expireWait {n : LineNo} {k : WaitKind} {s t : State} (h : TablesFit s) (expired : expireWait n k s = some t) : TablesFit t := by
  obtain ⟨time, -, rfl⟩ := Option.map_eq_some_iff.1 expired
  exact fits_setWait n _ (fits_advanceTo time h)

/-! ## Admission -/

theorem fits_refuseCall (n : LineNo) (c : RxCall) (reason : Option RefusedReason) {s : State} (h : TablesFit s) :
    TablesFit (refuseCall n c reason s) := by
  have refused (f : RxCall → RxCall) (g : LineStats → LineStats) :
      TablesFit (mark (.line n) (modStats n g (releaseWith n .reject (modRx n f s)))) :=
    fits_mark _ (fits_modStats n _ (fits_releaseWith n _ (fits_modRx n _ h)))
  unfold refuseCall
  dsimp only
  split
  · exact refused _ _
  · exact fits_append _ (refused _ _)

theorem fits_sendOffer (n : LineNo) (c : RxCall) {s : State} (h : TablesFit s) : TablesFit (sendOffer n c s) := by
  unfold sendOffer
  dsimp only
  split
  · exact fits_sendCmd n _ (fits_modRx n _ (fits_lookupCaller _ h))
  · exact fits_sendCmd n _ (fits_modRx n _ h)

theorem fits_admission (n : LineNo) {s : State} (h : TablesFit s) : TablesFit (admission n s) := by
  unfold admission
  split
  · exact h
  · rename_i c _
    dsimp only
    generalize hu : modRx n _ s = u
    have routed : TablesFit u := by rw [← hu]; exact fits_modRx n _ h
    split
    · exact fits_refuseCall n c none routed
    · split
      · exact fits_refuseCall n c (some .directory) routed
      · rename_i t number slot
        have added := fits_addDoc_slot routed slot
        split
        · rename_i v made
          have reserved : TablesFit v := fits_reserve_eq made (added _)
          exact fits_refuseCall n c (some .quota) (fits_dropDoc number reserved)
        · rename_i v made
          have reserved : TablesFit v := fits_reserve_eq made (added _)
          exact fits_startWait n _ _ (fits_sendOffer n c (fits_setChan n _ (fits_modStats n _ (fits_sendCmd n _ (fits_modRx n _ reserved)))))

theorem fits_testAdmission (n : LineNo) {s : State} (h : TablesFit s) : TablesFit (testAdmission n s) := by
  unfold testAdmission
  split
  · exact h
  · exact fits_ite (fits_admission n h) h

/-! ## Sending pages -/

theorem fits_sendNext (n : LineNo) {s : State} (h : TablesFit s) : TablesFit (sendNext n s) := by
  unfold sendNext
  split
  · exact h
  · rename_i t _
    split
    · exact h
    · rename_i p pages _
      split
      · have read := fits_readSpan (.send n) t.document p t.offset portBytes h
        generalize readSpan (.send n) t.document p t.offset portBytes s = q at read
        obtain ⟨u, data⟩ := q
        cases data with
        | none => exact fits_endAttempt n .damaged .outcome true read
        | some bytes => exact fits_sendCmd n _ (fits_modTx n _ read)
      · exact fits_sendCmd n _ h

theorem fits_beginPage (n : LineNo) {s : State} (h : TablesFit s) : TablesFit (beginPage n s) := by
  unfold beginPage
  dsimp only
  generalize hu : setWait n none _ = u
  have begun : TablesFit u := by rw [← hu]; exact fits_setWait n _ (fits_setChan n _ (fits_modTx n _ h))
  split
  · exact begun
  · split
    · exact begun
    · exact fits_ite (fits_endAttempt n .damaged .outcome true begun) (fits_sendNext n begun)

end Sys2Proof.Machine
end

section
/-! The tables and queues keep within their places through every command and every step (O9). -/

namespace Sys2Proof.Machine

open Sys2Proof

/-! ## Requests -/

theorem afterTaking_length_le (tag : Byte) (l : List Frame) : (afterTaking tag l).length ≤ l.length := by
  cases l with
  | nil => exact le_rfl
  | cons f rest =>
    show (if f.tag = tag then rest else f :: rest).length ≤ _
    split
    · exact Nat.le_succ rest.length
    · exact le_rfl

theorem fits_takeFrame (tag : Byte) {s : State} (h : TablesFit s) : TablesFit (takeFrame tag s) :=
  { h with intake := (afterTaking_length_le tag _).trans h.intake }

theorem fits_takeRequest {r : Envelope} {k : ReqKind} {own : State → State} {s : State} (h : TablesFit s)
    (owns : ∀ t, TablesFit t → TablesFit (own t)) : TablesFit (takeRequest r k own s) := by
  have taken := fits_takeFrame r.tag h
  exact fits_ite (fits_ite (fits_respond _ _ _ _ taken) (fits_ite (fits_respond _ _ _ _ taken) (owns _ taken))) h

theorem fits_setAcct (d : Dept) (f : Account → Account) {s : State} (h : TablesFit s) : TablesFit (setAcct d f s) := fits_same h rfl

theorem fits_markPoolChange (before : State) {s : State} (h : TablesFit s) : TablesFit (markPoolChange before s) :=
  fits_ite h (fits_mark _ h)

theorem fits_setDepartment (tag : Byte) (dept : Nat) (name : Text) (guarantee cap retention : Nat) {s : State} (h : TablesFit s) :
    TablesFit (setDepartment tag dept name guarantee cap retention s) := by
  unfold setDepartment
  split
  · dsimp only
    split
    · exact fits_respond _ _ _ _ h
    · exact fits_respond _ _ _ _ (fits_markPoolChange s (fits_mark _ (fits_evalPressure (fits_setAcct _ _ h))))
  · exact fits_respond _ _ _ _ h

theorem fits_removeDepartment (tag : Byte) (dept : Nat) {s : State} (h : TablesFit s) : TablesFit (removeDepartment tag dept s) := by
  have refused (why : Status) : TablesFit (respond tag .removeDepartment why .empty s) := fits_respond _ _ _ _ h
  unfold removeDepartment
  split
  · exact refused _
  · exact fits_ite (refused _) (fits_ite (refused _) (fits_ite (refused _)
      (fits_respond _ _ _ _ (fits_markPoolChange s (fits_mark _ (fits_evalPressure (fits_setAcct _ _ h)))))))

/-- A route of a new key joins a table with a place for it (R55, R58). -/
theorem putRoute_length_le (e : RouteEntry) {t : List RouteEntry} (fits : t.length ≤ maxRoutes)
    (place : ¬ ((findRoute t e.key).isSome = false ∧ maxRoutes ≤ t.length)) : (putRoute e t).length ≤ maxRoutes := by
  unfold putRoute
  split
  · rw [List.length_map]; exact fits
  next new =>
    have : ¬ maxRoutes ≤ t.length := fun full => place ⟨Bool.not_eq_true _ ▸ new, full⟩
    rw [List.length_append, List.length_singleton]; omega

theorem fits_setRoute (tag : Byte) (key : Text) (dept : Nat) (hold collect : Option Bool) (priority : Option Priority) (dests : List Text)
    {s : State} (h : TablesFit s) : TablesFit (setRoute tag key dept hold collect priority dests s) := by
  have refused (why : Status) : TablesFit (respond tag .setRoute why .empty s) := fits_respond _ _ _ _ h
  unfold setRoute
  split
  · split
    · exact refused _
    · split
      · exact refused _
      · dsimp only
        split
        · exact refused _
        next place => exact fits_respond _ _ _ _ { h with routes := putRoute_length_le _ h.routes place }
  · exact refused _

theorem fits_removeRoute (tag : Byte) (key : Text) {s : State} (h : TablesFit s) : TablesFit (removeRoute tag key s) := by
  unfold removeRoute
  split
  · exact fits_respond _ _ _ _ h
  · split
    · exact fits_respond _ _ _ _ h
    · exact fits_respond _ _ _ _ { h with routes := (List.length_filter_le _ _).trans h.routes }

theorem fits_applySettings (n : LineNo) (outbound : Bool) (maxStep : Nat) (key : Option Text) {s : State} (h : TablesFit s) :
    TablesFit (applySettings n outbound maxStep key s) := fits_ite (fits_modLine n _ h) (fits_reportRun n (fits_modLine n _ h))

theorem fits_applyService (n : LineNo) (want : Service) {s : State} (h : TablesFit s) : TablesFit (applyService n want s) :=
  fits_ite (fits_ite h (fits_reportRun n (fits_mark _ (fits_sendCmd n _ (fits_modLine n _ h))))) (fits_modLine n _ h)

theorem fits_setLine (tag : Byte) (line : Nat) (service : Option ServiceRequest) (outbound : Option Bool) (maxStep : Nat)
    (key : Option Text) {s : State} (h : TablesFit s) : TablesFit (setLine tag line service outbound maxStep key s) := by
  unfold setLine
  split
  next n sv out _ _ =>
    split
    · exact fits_respond _ _ _ _ h
    · have applied := fits_applySettings n out maxStep key h
      dsimp only
      split
      · exact fits_respond _ _ _ _ applied
      · exact fits_respond _ _ _ _ (fits_applyService n _ applied)
  · exact fits_respond _ _ _ _ h

theorem fits_beginReset (n : LineNo) {s : State} (h : TablesFit s) : TablesFit (beginReset n s) := by
  have reset (f : Line → Line) : TablesFit (sendCmd n .reset (modLine n f s)) := fits_sendCmd n _ (fits_modLine n f h)
  exact fits_ite (fits_report n (reset _)) (fits_reportRun n (fits_mark _ (reset _)))

theorem fits_resetLine (tag : Byte) (line : Nat) {s : State} (h : TablesFit s) : TablesFit (resetLine tag line s) := by
  unfold resetLine
  split
  · exact fits_respond _ _ _ _ h
  · exact fits_ite (fits_respond _ _ _ _ h) (fits_respond _ _ _ _ (fits_beginReset _ (fits_endByFault _ _ h)))

theorem fits_readLineStatistics (tag : Byte) (line : Nat) (clear : Bool) {s : State} (h : TablesFit s) :
    TablesFit (readLineStatistics tag line clear s) := by
  unfold readLineStatistics
  split
  · exact fits_respond _ _ _ _ h
  · exact fits_respond _ _ _ _ (fits_ite (fits_modStats _ _ h) h)

theorem fits_setPolicy (tag : Byte) (p : PolicyRequest) {s : State} (h : TablesFit s) : TablesFit (setPolicy tag p s) := by
  unfold setPolicy
  split
  · exact fits_respond _ _ _ _ h
  · have set (new : Policy) : TablesFit { s with policy := new } := fits_same h rfl
    have clamped (new : Policy) : TablesFit (if new.failLimit < s.policy.failLimit
        then { s with policy := new, callers.table := clampFails new.failLimit s.callers.table } else { s with policy := new }) :=
      fits_ite (fits_same h rfl) (set new)
    have owed (b : Bool) (new : Policy) := fits_ite (p := b = true) (fits_oweRun (clamped new)) (clamped new)
    exact fits_respond _ _ _ _ (fits_ite (fits_foldl (fun _ n => fits_testAdmission n) _ (owed _ _)) (owed _ _))

theorem fits_setTime (tag : Byte) (sec : BitVec 32) (ms : Nat) {s : State} (h : TablesFit s) : TablesFit (setTime tag sec ms s) := by
  have set (cal : CalTime) (content : JournalContent) :=
    fits_append content (s := { s with clock.cal := cal, clock.trusted := true }) (fits_same h rfl)
  exact fits_ite (fits_respond _ _ _ _ h) (fits_respond _ _ _ _ (fits_mark _ (set _ _)))

theorem fits_readJournal (tag : Byte) (n : Nat) {s : State} (h : TablesFit s) : TablesFit (readJournal tag n s) := by
  unfold readJournal
  split
  · exact fits_respond _ _ _ _ h
  · split
    · exact fits_ite (fits_respond _ _ _ _ h) (fits_ite (fits_respond _ _ _ _ h) (fits_respond _ _ _ _ h))
    · exact fits_respond _ _ _ _ h

theorem fits_releaseJournal (tag : Byte) (n : Nat) {s : State} (h : TablesFit s) : TablesFit (releaseJournal tag n s) := by
  have released (point count : Nat) :
      TablesFit { s with journal.releasePoint := point, journal.unreleased := s.journal.unreleased - count } := fits_same h rfl
  have cleared (b : Bool) (point count : Nat) := fits_ite (p := b = true)
    (fits_same (t := { s with
      journal.releasePoint := point, journal.unreleased := s.journal.unreleased - count, journal.overrun := false }) h rfl)
    (released point count)
  have owed (b c : Bool) (point count : Nat) := fits_ite (p := c = true) (fits_oweRun (cleared b point count)) (cleared b point count)
  exact fits_respond _ _ _ _ (fits_ite (fits_mark _ (owed _ _ _ _)) (owed _ _ _ _))

theorem fits_releaseHold (tag : Byte) (n : Nat) {s : State} (h : TablesFit s) : TablesFit (releaseHold tag n s) := by
  unfold releaseHold
  split
  · exact fits_respond _ _ _ _ h
  · exact fits_ite (fits_respond _ _ _ _ (fits_enterOpen n h)) (fits_respond _ _ _ _ h)

theorem fits_cancelPending (d : Document) {s : State} (h : TablesFit s) : TablesFit (cancelPending d s) :=
  fits_foldl (fun _ p hu => fits_settle _ (fits_fallback _ (fits_append _ (fits_modForward d.number p.1 _ hu)))) _
    { h with jobs := (List.length_filter_le _ _).trans h.jobs }

theorem fits_discardDocument (tag : Byte) (n : Nat) {s : State} (h : TablesFit s) : TablesFit (discardDocument tag n s) := by
  unfold discardDocument
  split
  · exact fits_respond _ _ _ _ h
  · rename_i d _
    have journalled := fits_append (.discard n) (fits_cancelPending d h)
    exact fits_ite (fits_respond _ _ _ _ h) (fits_ite (fits_respond _ _ _ _ h)
      (fits_respond _ _ _ _ (fits_purgeEvent n (s := dropCollect n _) (fits_same journalled rfl))))

/-- A verification starts while fewer than 4 run (R49). -/
theorem fits_verifyDocument (tag : Byte) (n : Nat) {s : State} (h : TablesFit s) : TablesFit (verifyDocument tag n s) := by
  have refused (why : Status) : TablesFit (respond tag .verifyDocument why .empty s) := fits_respond _ _ _ _ h
  unfold verifyDocument
  split
  · exact refused _
  · refine fits_ite (refused _) (fits_ite (refused _) ?_)
    split
    · exact refused _
    next room =>
      refine { fits_modDoc n (fun e => { e with verifying := true }) h with verifications := ?_ }
      show (s.dir.verifications ++ [_]).length ≤ _
      rw [List.length_append, List.length_singleton]
      omega

theorem fits_listDocuments (tag : Byte) (dept : Nat) (filter : Option LifeFilter) (start : Nat) {s : State} (h : TablesFit s) :
    TablesFit (listDocuments tag dept filter start s) := by
  unfold listDocuments
  split
  · exact fits_ite (fits_respond _ _ _ _ h) (fits_respond _ _ _ _ h)
  · exact fits_respond _ _ _ _ h

/-- A Collect waits while fewer than 32 wait (R146, R147). -/
theorem fits_waitCollect (tag : Byte) (d : Dept) (timeout : Nat) {s : State} (h : TablesFit s) : TablesFit (waitCollect tag d timeout s) := by
  unfold waitCollect
  split
  · exact fits_respond _ _ _ _ h
  next room =>
    refine { h with collects := ?_ }
    show (s.collect.queue ++ [_]).length ≤ _
    rw [List.length_append, List.length_singleton]
    omega

theorem fits_collect (tag : Byte) (dept timeout : Nat) {s : State} (h : TablesFit s) : TablesFit (collect tag dept timeout s) := by
  unfold collect
  split
  · exact fits_respond _ _ _ _ h
  · refine fits_ite (fits_respond _ _ _ _ h) ?_
    split
    · exact fits_waitCollect _ _ _ h
    · split
      · exact fits_makeOffer _ _ _ h
      · exact h

theorem fits_setTransfer (t : Option Transfer) {s : State} (h : TablesFit s) : TablesFit (setTransfer t s) := fits_same h rfl

theorem fits_prepareFrame (fuel : Nat) {s : State} (h : TablesFit s) : TablesFit (prepareFrame fuel s) := by
  induction fuel generalizing s with
  | zero => exact h
  | succ k ih =>
    unfold prepareFrame
    split
    · exact h
    · rename_i t _
      split
      · exact h
      · split
        · exact fits_setTransfer _ (fits_same h rfl)
        · rename_i p _
          dsimp only
          split
          · exact ih (fits_setTransfer _ h)
          · have read := fits_readSpan .transfer t.doc p t.offset chunkBytes h
            generalize readSpan .transfer t.doc p t.offset chunkBytes s = q at read
            obtain ⟨u, data⟩ := q
            cases data with
            | none => exact ih (fits_setTransfer _ read)
            | some bytes => exact fits_setTransfer _ (fits_same read rfl)

theorem fits_prepareNext {s : State} (h : TablesFit s) : TablesFit (prepareNext s) := by
  unfold prepareNext
  split
  · exact h
  · exact fits_prepareFrame _ h

theorem fits_acceptOffer (tag : Byte) (doc : Nat) {s : State} (h : TablesFit s) : TablesFit (acceptOffer tag doc s) := by
  have refused (why : Status) : TablesFit (respond tag .acceptOffer why .empty s) := fits_respond _ _ _ _ h
  have opened : TablesFit (openTransfer doc s) := fits_prepareNext (fits_setTransfer _ (fits_modDoc doc _ (fits_same h rfl)))
  unfold acceptOffer
  split
  · exact refused _
  · exact fits_ite (refused _) (fits_ite (refused _) (fits_respond _ _ _ _ opened))

theorem fits_declineOffer (tag : Byte) (doc : Nat) {s : State} (h : TablesFit s) : TablesFit (declineOffer tag doc s) := by
  unfold declineOffer
  split
  · exact fits_respond _ _ _ _ h
  · exact fits_ite (fits_respond _ _ _ _ h) (fits_respond _ _ _ _ (fits_declineOpen doc h))

theorem fits_abortTransfer (tag : Byte) (doc : Nat) {s : State} (h : TablesFit s) : TablesFit (abortTransfer tag doc s) := by
  unfold abortTransfer
  split
  · exact fits_respond _ _ _ _ h
  · split
    · exact fits_respond _ _ _ _ h
    · exact fits_respond _ _ _ _ (fits_becomeDue doc (fits_setTransfer _ (fits_same h rfl)))

theorem fits_confirmCollected (tag : Byte) (doc : Nat) {s : State} (h : TablesFit s) : TablesFit (confirmCollected tag doc s) := by
  unfold confirmCollected
  split
  · exact fits_respond _ _ _ _ h
  · have journalled := fits_append (collectEntry s doc) h
    exact fits_ite (fits_respond _ _ _ _ h) (fits_ite (fits_respond _ _ _ _ h)
      (fits_respond _ _ _ _ (fits_settle doc (fits_modDoc doc _ (fits_same journalled rfl)))))

theorem fits_reopen (n : Nat) {s : State} (h : TablesFit s) : TablesFit (reopen n s) := fits_modDoc n _ (fits_same h rfl)

theorem addForwardCheck_room {s : State} {doc : Nat} {digits : Text} (accepted : addForwardCheck s doc digits = none) :
    s.fwd.jobs.length < maxJobs := by
  by_contra full
  unfold addForwardCheck at accepted
  rw [if_pos (Nat.not_lt.1 full)] at accepted
  repeat' split at accepted
  all_goals cases accepted

/-- Add Forward makes a job only while the list has room (R119). -/
theorem fits_addForward (tag : Byte) (doc : Nat) (digits : Text) {s : State} (h : TablesFit s) : TablesFit (addForward tag doc digits s) := by
  unfold addForward
  split
  · exact fits_respond _ _ _ _ h
  · exact h
  next d accepted found =>
    have room := addForwardCheck_room accepted
    have reopened : TablesFit (if d.life = .settled then reopen doc s else s) := fits_ite (fits_reopen doc h) h
    have fwd : (if d.life = .settled then reopen doc s else s).fwd = s.fwd := by split <;> rfl
    exact fits_respond _ _ _ _ (fits_addJob _ _ _ _ (fits_modDoc doc _ reopened) (by rw [addForwardEntry, modDoc_fwd, fwd]; exact room))

theorem fits_cancelJob (j : Job) {s : State} (h : TablesFit s) : TablesFit (cancelJob j s) := by
  rw [cancelJob_frame]
  exact { h with jobs := (List.length_filter_le _ _).trans h.jobs }

theorem fits_cancelForward (tag : Byte) (doc index : Nat) {s : State} (h : TablesFit s) : TablesFit (cancelForward tag doc index s) := by
  unfold cancelForward
  split
  · exact fits_respond _ _ _ _ h
  · split
    · exact fits_respond _ _ _ _ h
    · refine fits_ite (fits_respond _ _ _ _ h) (fits_ite (fits_respond _ _ _ _ h) ?_)
      dsimp only
      split
      · exact fits_respond _ _ _ _ (fits_endEntry _ _ _ _ (fits_cancelJob _ h))
      · exact fits_respond _ _ _ _ (fits_endEntry _ _ _ _ h)

theorem fits_resumeForwarding (tag : Byte) {s : State} (h : TablesFit s) : TablesFit (resumeForwarding tag s) :=
  fits_respond _ _ _ _ (fits_ite (fits_oweRun (fits_mark _ (fits_same h rfl))) h)

theorem fits_readJobs (tag : Byte) (doc start : Nat) {s : State} (h : TablesFit s) : TablesFit (readJobs tag doc start s) :=
  fits_ite (fits_respond _ _ _ _ h) (fits_respond _ _ _ _ h)

theorem fits_forgetCaller (tag : Byte) (number : Text) {s : State} (h : TablesFit s) : TablesFit (forgetCaller tag number s) := by
  unfold forgetCaller
  split
  · exact fits_respond _ _ _ _ h
  · split
    · exact fits_respond _ _ _ _ h
    · exact fits_respond _ _ _ _ (fits_same h rfl)

/-! ## Restart -/

theorem fits_modTally (f : RestartTally → RestartTally) {s : State} (h : TablesFit s) : TablesFit (modTally f s) := fits_same h rfl

theorem fits_restartLink (tag : Byte) {s : State} (h : TablesFit s) : TablesFit (restartLink tag s) :=
  { h with intake := (Nat.zero_le _).trans h.intake }

theorem fits_restartCollect {s : State} (h : TablesFit s) : TablesFit (restartCollect s) := by
  unfold restartCollect
  dsimp only
  generalize hu : modTally _ _ = u
  have dropped : TablesFit u := by rw [← hu]; exact fits_modTally _ { h with collects := (Nat.zero_le _).trans h.collects }
  have withdrawn : TablesFit (s.collect.offers.foldl withdrawOffer u) := fits_foldl (fun _ o hv => fits_becomeDue o.doc hv) _ dropped
  generalize s.collect.offers.foldl withdrawOffer u = v at withdrawn
  split
  · exact withdrawn
  · have stopped : TablesFit (setTransfer none { v with link.waiting := none }) := fits_setTransfer _ (fits_same withdrawn rfl)
    exact fits_ite stopped (fits_becomeDue _ stopped)

theorem fits_restartLine {s : State} (n : LineNo) (h : TablesFit s) : TablesFit (restartLine s n) :=
  fits_ite (fits_modTally _ (fits_mark _ (fits_releaseWith n _ h))) (fits_ite (fits_modTally _ (fits_endReceiving n _ true h))
    (fits_ite (fits_modTally _ (fits_releaseAttempt n h)) h))

theorem fits_restartVerifications {s : State} (h : TablesFit s) : TablesFit (restartVerifications s) :=
  fits_foldl (fun _ n hu => fits_purgeIfPassed n hu) _ (fits_foldl (fun _ n hu => fits_modDoc n _ hu) _
    (fits_modTally _ { h with verifications := (Nat.zero_le _).trans h.verifications }))

theorem fits_restartForwarding {s : State} (h : TablesFit s) : TablesFit (restartForwarding s) :=
  fits_mark _ { h with jobs := (List.length_map _).le.trans h.jobs }

/-! ## The link -/

theorem fits_keepBytes (buf : List Byte) {s : State} (h : TablesFit s) : TablesFit (keepBytes buf s) := fits_same h rfl

theorem fits_countCheckError {s : State} (h : TablesFit s) : TablesFit (countCheckError s) := fits_same h rfl

theorem fits_countLengthError {s : State} (h : TablesFit s) : TablesFit (countLengthError s) := fits_same h rfl

theorem fits_abandonFrame {s : State} (h : TablesFit s) : TablesFit (abandonFrame s) := fits_keepBytes _ (fits_countCheckError h)

/-- A frame joins an intake queue with a place for it (R209). -/
theorem fits_completeFrame (f : Frame) {s : State} (h : TablesFit s) : TablesFit (completeFrame f s) := by
  unfold completeFrame
  dsimp only
  split
  · exact fits_same h rfl
  · split
    next place =>
      refine { h with intake := ?_ }
      show (s.link.intake ++ [f]).length ≤ _
      rw [List.length_append, List.length_singleton]
      exact place
    · exact fits_same h rfl

theorem fits_scan (fuel : Nat) (buf : List Byte) {s : State} (h : TablesFit s) : TablesFit (scan fuel buf s) := by
  induction fuel generalizing buf s with
  | zero => exact fits_keepBytes _ h
  | succ k ih =>
    match buf with
    | [] => exact fits_keepBytes _ h
    | [x] => exact fits_keepBytes _ h
    | x :: y :: rest =>
      unfold scan
      refine fits_ite (ih _ h) ?_
      split
      · exact fits_ite (ih _ (fits_countLengthError h)) (fits_ite (fits_keepBytes _ h)
          (fits_ite (ih _ (fits_completeFrame _ h)) (ih _ (fits_countCheckError h))))
      · exact fits_keepBytes _ h

theorem fits_receiveBytes (bytes : List Byte) {s : State} (h : TablesFit s) : TablesFit (receiveBytes bytes s) := by
  have abandoned : TablesFit (if gapPassed s = true then abandonFrame s else s) := fits_ite (fits_abandonFrame h) h
  exact fits_scan _ _ (fits_same abandoned rfl)

theorem fits_beginTransferFrame (f : TransferFrame) {s : State} (h : TablesFit s) : TablesFit (beginTransferFrame f s) := by
  unfold beginTransferFrame
  dsimp only
  generalize hu : raiseSendCount _ = u
  have begun : TablesFit u := by rw [← hu]; exact fits_same h rfl
  split
  · exact fits_prepareNext begun
  · have closed := fits_setTransfer none begun
    exact fits_ite closed (fits_modDoc _ _ (fits_same closed rfl))
  · exact begun

theorem fits_beginFrameSend {s t : State} (h : TablesFit s) (e : execBeginFrameSend s = .next t) : TablesFit t := by
  obtain rfl := Host.Outcome.next.inj e
  split
  · exact h
  · split
    · exact fits_same h rfl
    · split
      · exact fits_same h rfl
      · split
        · exact fits_beginTransferFrame _ h
        · exact h

theorem fits_restartEnd {s t : State} (h : TablesFit s) (e : execRestartEnd s = .next t) : TablesFit t := by
  obtain rfl := Host.Outcome.next.inj e
  split
  · have appended := fits_append (.restart (satSucc maxNumber s.part.restarts))
      (s := { s with part.restarts := satSucc maxNumber s.part.restarts }) (fits_same h rfl)
    dsimp only
    generalize append (.restart (satSucc maxNumber s.part.restarts)) { s with part.restarts := satSucc maxNumber s.part.restarts } = p
      at appended
    obtain ⟨u, seq⟩ := p
    have ended := fits_foldl (fun _ n hv => fits_purgeIfPassed n hv) u.dir.reclaim
      (s := { u with part.cause := .restartRequest, part.phase := some .ready, part.tally := none }) (fits_same appended rfl)
    dsimp only
    split
    · exact ended
    · exact fits_respond _ _ _ _ ended
  · exact h

/-! ## Documents and jobs -/

theorem fits_endVerification (v : Verification) {s : State} (h : TablesFit s) : TablesFit (endVerification v s) := by
  have ended : TablesFit { s with dir.verifications := s.dir.verifications.filter (fun x => x.doc ≠ v.doc) } :=
    { h with verifications := (List.length_filter_le _ _).trans h.verifications }
  unfold endVerification
  dsimp only
  split
  · exact ended
  · exact fits_purgeIfPassed _ (fits_modDoc _ _ (fits_respond _ _ _ _ ended))

theorem fits_setVerification (v : Verification) {s : State} (h : TablesFit s) : TablesFit (setVerification v s) :=
  { h with verifications := (List.length_map _).le.trans h.verifications }

theorem fits_afterStretch (v : Verification) (pages : Nat) {s : State} (h : TablesFit s) : TablesFit (afterStretch v pages s) :=
  fits_ite (fits_endVerification v h) (fits_setVerification v h)

theorem fits_verifyStep {s t : State} {doc : Nat} (h : TablesFit s) (e : execVerifyStep doc s = .next t) : TablesFit t := by
  obtain rfl := Host.Outcome.next.inj e
  split
  · rename_i v d _ _
    split
    · exact fits_endVerification v h
    · rename_i p _
      have read := fits_readSpan .verify doc p v.offset chunkBytes h
      generalize readSpan .verify doc p v.offset chunkBytes s = q at read
      obtain ⟨u, data⟩ := q
      cases data with
      | none => exact fits_afterStretch _ _ read
      | some bytes => exact fits_ite (fits_afterStretch _ _ read) (fits_setVerification _ read)
  · exact h

theorem fits_countAttempt (j : Job) (a : AttemptEnd) (final : Bool) {s : State} (h : TablesFit s) : TablesFit (countAttempt j a final s) := by
  have counted (f : Job → Job) (g : ForwardEntry → ForwardEntry) := fits_modForward j.document j.index g (fits_modJob j.number f h)
  exact fits_same (counted (fun x => { x with attempts := j.attempts + 1, line := none })
    (fun e => { e with attempts := j.attempts + 1, last := some (.attempt a.outcome), pages := a.pages })) rfl

theorem fits_endJob (j : Job) (state : ForwardState) (result : ForwardResult) {s : State} (h : TablesFit s) :
    TablesFit (endJob j state result s) := fits_endEntry _ _ _ _ (fits_oweRun (fits_dropJob j.number h))

theorem fits_takeOutcome (j : Job) (a : AttemptEnd) {s : State} (h : TablesFit s) : TablesFit (takeOutcome j a s) := by
  unfold takeOutcome
  split
  · exact fits_endJob j _ _ (fits_modStats _ _ (fits_countAttempt j a true h))
  · exact fits_endJob j _ _ (fits_countAttempt j a true h)
  · exact fits_oweRun (fits_mark _ (fits_modJob _ _ (fits_countAttempt j a false h)))

theorem fits_grantSeize (j : Job) (n : LineNo) {s : State} (h : TablesFit s) : TablesFit (grantSeize j n s) :=
  fits_report n (fits_modJob _ _ (fits_modStats n _ (fits_sendCmd n _ (fits_modLine n _ h))))

theorem fits_arbiterTests (k : Nat) {s : State} (h : TablesFit s) : TablesFit (arbiterTests k s) := by
  induction k generalizing s with
  | zero => exact h
  | succ k ih =>
    unfold arbiterTests
    cases test : arbiterTest s with
    | none => exact h
    | some u =>
      refine ih ?_
      unfold arbiterTest at test
      split at test
      · split at test
        · obtain rfl := Option.some.inj test
          exact fits_ite (fits_grantSeize _ _ h) (fits_report _ h)
        · cases test
      · cases test

/-! ## Lines -/

theorem fits_ring {s t : State} {n : LineNo} (h : TablesFit s) (e : execRing n s = .next t) : TablesFit t := by
  obtain rfl := Host.Outcome.next.inj e
  split
  · split
    · exact fits_ite (fits_testAdmission n (fits_report n (fits_modStats n _ (fits_modLine n _ h)))) h
    · exact fits_testAdmission n (fits_modRx n _ h)
    · exact fits_ite (fits_ite h (fits_modTx n _ (fits_modStats n _ h))) h
    · exact h
  · exact h

theorem fits_endRinging (n : LineNo) {s : State} (h : TablesFit s) : TablesFit (endRinging n s) := fits_mark _ (fits_returnToIdle n h)

theorem fits_awaitPage (n : LineNo) {s : State} (h : TablesFit s) : TablesFit (awaitPage n s) := fits_startWait n _ _ (fits_setChan n _ h)

theorem fits_pageLimit (n : LineNo) (doc : Nat) {s : State} (h : TablesFit s) : TablesFit (pageLimit n doc s) := by
  unfold pageLimit
  split
  · exact fits_endReceiving n _ true h
  · split
    next made => exact fits_awaitPage n (fits_modRx n _ (fits_continueDoc h made))
    · exact fits_endReceiving n _ true h

theorem fits_afterVerdict (n : LineNo) (c : RxCall) {s : State} (h : TablesFit s) : TablesFit (afterVerdict n c s) := by
  have ends (e : RxEnd) := fits_endReceiving n e true h
  have waits := fits_awaitPage n h
  refine fits_ite (fits_ite (ends _) (fits_ite (ends _) waits)) (fits_ite (ends _) ?_)
  split
  · exact fits_ite (fits_pageLimit n _ h) waits
  · exact waits

theorem fits_afterAck (n : LineNo) (c : PortCommand) {s : State} (h : TablesFit s) : TablesFit (afterAck n c s) := by
  unfold afterAck
  split
  · exact fits_startWait n _ _ (fits_setChan n _ h)
  · exact fits_sendNext n h
  · exact fits_startWait n _ _ (fits_setChan n _ h)
  · exact fits_afterVerdict n _ h
  · exact h

theorem fits_completeCommand (n : LineNo) {s : State} (h : TablesFit s) : TablesFit (completeCommand n s) := by
  unfold completeCommand
  split
  · exact h
  · exact fits_ite (fits_modLine n _ h) (fits_afterAck n _ (fits_modLine n _ h))

theorem fits_commandAck {s t : State} {n : LineNo} {acked : Acked} (h : TablesFit s) (e : execCommandAck n acked s = .next t) :
    TablesFit t := by
  obtain rfl := Host.Outcome.next.inj e
  refine fits_ite h ?_
  split
  · exact h
  · exact fits_sendCmd n _ (fits_modLine n _ h)
  · exact h
  · exact h
  · exact fits_mark _ (fits_returnToIdle n (fits_modLine n _ h))
  · exact h
  · exact fits_completeCommand n h

theorem fits_released {s t : State} {n : LineNo} (h : TablesFit s) (e : execReleased n s = .next t) : TablesFit t := by
  obtain rfl := Host.Outcome.next.inj e
  exact fits_ite (fits_ite h (fits_ite (fits_endRinging n h) (fits_ite (fits_returnToIdle n (fits_endReceiving n _ false h))
    (fits_ite (fits_returnToIdle n (fits_endAttempt n _ _ false h)) (fits_returnToIdle n h))))) h

/-! ## Pages -/

theorem fits_fillPage (fuel : Nat) (n : LineNo) (d : Dept) (bytes : List Byte) (l : Landing) {s : State} (h : TablesFit s) :
    TablesFit (fillPage fuel n d bytes l s).2 := by
  induction fuel generalizing bytes l s with
  | zero => exact h
  | succ fuel ih =>
    unfold fillPage
    dsimp only
    have frame := putBytes_frame (bytes.take (l.blocks.length * blockBytes - l.length)) l s
    generalize putBytes (bytes.take (l.blocks.length * blockBytes - l.length)) l s = p at frame
    obtain ⟨l1, s1⟩ := p
    dsimp only at frame ⊢
    have put : TablesFit s1 := by rw [frame]; exact fits_same h rfl
    split
    · exact put
    · have drew := fits_drawBlock n d l1.blocks.length put
      generalize drawBlock n d l1.blocks.length s1 = q at drew
      obtain ⟨s2, draw⟩ := q
      cases draw with
      | block b => exact ih _ _ drew
      | oversize => exact drew
      | storeFull => exact drew

theorem fits_receiveData (n : LineNo) (doc : Nat) (d : Document) (c : RxCall) (bytes : List Byte) {s : State} (h : TablesFit s) :
    TablesFit (receiveData n doc d c bytes s) := by
  unfold receiveData
  split
  · exact h
  · have filled := fits_fillPage (bytes.length / blockBytes + 2) n d.dept bytes (d.landing.getD (startLanding d c)) h
    generalize fillPage (bytes.length / blockBytes + 2) n d.dept bytes (d.landing.getD (startLanding d c)) s = p at filled
    obtain ⟨⟨l, cause⟩, s1⟩ := p
    cases cause with
    | none => exact fits_modDoc doc _ filled
    | some why => exact fits_modRx n _ (fits_modDoc doc _ filled)

theorem fits_pageData {s t : State} {n : LineNo} {bytes : List Byte} (h : TablesFit s) (e : execPageData n bytes s = .next t) :
    TablesFit t := by
  obtain rfl := Host.Outcome.next.inj e
  split
  · split
    · exact h
    · dsimp only
      split
      · exact fits_startWait n _ _ (fits_receiveData n _ _ _ _ h)
      · exact fits_startWait n _ _ h
  · exact h

theorem fits_giveVerdict (n : LineNo) (v : Verdict) {s : State} (h : TablesFit s) : TablesFit (giveVerdict n v s) :=
  fits_setWait n _ (fits_setChan n _ (fits_sendCmd n _ h))

theorem fits_judgePage (n : LineNo) (doc : Nat) (d : Document) (c : RxCall) (total bad : Nat) (last : Bool) {s : State} (h : TablesFit s) :
    TablesFit (judgePage n doc d c total bad last s) := by
  unfold judgePage
  split
  · exact fits_giveVerdict n _ (fits_modStats n _ (fits_modRx n _ (fits_freeLanding doc h)))
  · have accepted := fun f (l : Landing) => fits_modDoc doc f (fits_closeGroup l h)
    exact fits_giveVerdict n _ (fits_topUp n _ (fits_modStats n _ (fits_modRx n _ (accepted _ _))))
  · exact h

theorem fits_pageEnd {s t : State} {n : LineNo} {total bad : Nat} {last : Bool} (h : TablesFit s)
    (e : execPageEnd n total bad last s = .next t) : TablesFit t := by
  obtain rfl := Host.Outcome.next.inj e
  split
  · split
    · exact h
    · split
      · exact fits_judgePage n _ _ _ _ _ _ h
      · exact h
  · exact h

theorem fits_failTraining (n : LineNo) (back : Chan) (c : RxCall) {s : State} (h : TablesFit s) : TablesFit (failTraining n back c s) := by
  have counted : TablesFit (countRxFail n (sendCmd n (.trainingReply false) s)) := fits_modStats n _ (fits_modRx n _ (fits_sendCmd n _ h))
  exact fits_ite (fits_endReceiving n _ true counted) (fits_startWait n _ _ (fits_setChan n _ counted))

theorem fits_remoteChoice {s t : State} {n : LineNo} {step : Nat} {res : Resolution} {identity : Text} (h : TablesFit s)
    (e : execRemoteChoice n step res identity s = .next t) : TablesFit t := by
  obtain rfl := Host.Outcome.next.inj e
  split
  · exact h
  · rename_i c _
    have noted : TablesFit (noteIdentity c identity s) := by
      unfold noteIdentity
      split
      · exact fits_modDoc _ _ h
      · exact h
    exact fits_ite (fits_ite (fits_startWait n _ _ (fits_setChan n _ (fits_sendCmd n _ (fits_modRx n _ noted))))
      (fits_failTraining n _ c noted)) h

theorem fits_trainAt (n : LineNo) (step : Nat) (res : Resolution) {s : State} (h : TablesFit s) : TablesFit (trainAt n step res s) :=
  fits_startWait n _ _ (fits_setChan n _ (fits_sendCmd n _ (fits_sendCmd n _ (fits_modTx n _ h))))

theorem fits_txTrained (n : LineNo) (t : TxCall) (step : Nat) (pass : Bool) {s : State} (h : TablesFit s) :
    TablesFit (txTrained n t step pass s) := by
  have counted : TablesFit (countTxFail n s) := fits_modStats n _ (fits_modTx n _ h)
  exact fits_ite (fits_beginPage n h) (fits_ite (fits_endAttempt n _ _ true counted) (fits_trainAt n _ _ counted))

theorem fits_trainingDone {s t : State} {n : LineNo} {step : Nat} {pass : Bool} (h : TablesFit s)
    (e : execTrainingDone n step pass s = .next t) : TablesFit t := by
  obtain rfl := Host.Outcome.next.inj e
  split
  · split
    · exact fits_ite (fits_awaitPage n (fits_sendCmd n _ h)) (fits_failTraining n _ _ h)
    · exact fits_txTrained n _ step pass h
    · exact h
  · exact h

theorem fits_beginSending (n : LineNo) (t : TxCall) (maxStep : Nat) {s : State} (h : TablesFit s) : TablesFit (beginSending n t maxStep s) :=
  fits_trainAt n _ _ (fits_modTx n _ (fits_lookupCaller _ h))

theorem fits_takeVerdict (n : LineNo) (v : Verdict) (t : TxCall) {s : State} (h : TablesFit s) : TablesFit (takeVerdict n v t s) := by
  have noted := fits_modTx n (noteVerdict v) h
  unfold takeVerdict
  dsimp only
  split
  · exact fits_ite (fits_endAttempt n _ _ true noted) (fits_trainAt n _ _ noted)
  · exact fits_endAttempt n _ _ true noted
  · exact fits_beginPage n (fits_modTx n _ noted)
  · exact fits_trainAt n _ _ (fits_modTx n _ noted)

/-! ## Every command -/

theorem fits_of_next {s t : State} (e : (Host.Outcome.next s : Result State) = .next t) (h : TablesFit s) : TablesFit t :=
  Host.Outcome.next.inj e ▸ h

/-- A part that starts anew has empty tables, and its initialization builds the store alone (R222, R224). -/
theorem fits_start {c : Instr} {s t : State} (start : isStart c = true) (h : TablesFit s) (e : exec c s = .next t) : TablesFit t := by
  have empty (pending : List Instr) (part : Part) (rate : LinkRate) (rts : Bool) (mem : List Host.Cell) (dram : Dram) :
      TablesFit (State.fresh pending part rate rts mem dram) := by
    constructor <;> exact Nat.zero_le _
  cases c <;> simp only [isStart, Bool.false_eq_true] at start
  case powerOn strap => exact fits_of_next e (fits_ite (empty ..) (empty ..))
  case resetPinAssert => exact fits_of_next e (empty ..)
  case resetPinRelease strap => exact fits_of_next e (fits_ite (empty ..) (empty ..))
  case powerFailure => exact fits_of_next e (empty ..)
  case storeInitializationComplete =>
    exact fits_of_next e (fits_ite (fits_foldl (fun _ n hu => fits_sendCmd n _ hu) _ (fits_same h rfl)) h)

/-- Every command but the starts, one lemma for each that does more than a record's update. -/
theorem fits_exec {c : Instr} {s t : State} (start : isStart c = false) (h : TablesFit s) (e : exec c s = .next t) : TablesFit t := by
  cases c with
  | powerOn strap => cases start
  | resetPinAssert => cases start
  | resetPinRelease strap => cases start
  | powerFailure => cases start
  | storeInitializationComplete => cases start
  | frameReceived bytes => exact fits_of_next e (fits_ite h (fits_receiveBytes bytes h))
  | byteGapTimeout => exact fits_of_next e (fits_ite (fits_abandonFrame (fits_advanceTo _ h)) h)
  | byteWithoutStopBit => exact fits_of_next e (fits_ite (fits_abandonFrame h) (fits_keepBytes _ h))
  | requestToSendChange active => exact fits_of_next e (fits_same h rfl)
  | beginFrameSend => exact fits_beginFrameSend h e
  | unknownKindRequest tag kind => exact fits_of_next e (fits_ite (fits_respond _ _ _ _ (fits_takeFrame tag h)) h)
  | setDepartment r dept name guarantee cap retention => exact fits_of_next e (fits_takeRequest h (fun _ => fits_setDepartment _ _ _ _ _ _))
  | removeDepartment r dept => exact fits_of_next e (fits_takeRequest h (fun _ => fits_removeDepartment r.tag dept))
  | setRoute r key dept hold collect priority dests => exact fits_of_next e (fits_takeRequest h (fun _ => fits_setRoute _ _ _ _ _ _ _))
  | removeRoute r key => exact fits_of_next e (fits_takeRequest h (fun _ => fits_removeRoute r.tag key))
  | setLine r line service outbound maxStep key => exact fits_of_next e (fits_takeRequest h (fun _ => fits_setLine _ _ _ _ _ _))
  | resetLine r line => exact fits_of_next e (fits_takeRequest h (fun _ => fits_resetLine r.tag line))
  | readLineStatistics r line clear => exact fits_of_next e (fits_takeRequest h (fun _ => fits_readLineStatistics r.tag line clear))
  | setPolicy r p => exact fits_of_next e (fits_takeRequest h (fun _ => fits_setPolicy r.tag p))
  | readStatus r =>
    refine fits_of_next e (fits_takeRequest h (fun u hu => ?_))
    split
    · exact hu
    · exact fits_respond _ _ _ _ hu
  | restart r =>
    exact fits_of_next e (fits_takeRequest h (fun _ hu => fits_restartForwarding (fits_restartVerifications
      (fits_foldl (fun _ n => fits_restartLine n) _ (fits_restartCollect (fits_restartLink r.tag hu))))))
  | restartEnd => exact fits_restartEnd h e
  | setTime r sec ms => exact fits_of_next e (fits_takeRequest h (fun _ => fits_setTime r.tag sec ms))
  | readJournal r seq => exact fits_of_next e (fits_takeRequest h (fun _ => fits_readJournal r.tag seq.toNat))
  | releaseJournal r seq => exact fits_of_next e (fits_takeRequest h (fun _ => fits_releaseJournal r.tag seq.toNat))
  | setNotices r line dept store journal integrity forward =>
    refine fits_of_next e (fits_takeRequest h (fun u hu => ?_))
    split
    · exact fits_respond _ _ _ _ (fits_same hu rfl)
    · exact fits_respond _ _ _ _ hu
  | readLinkStatistics r clear => exact fits_of_next e (fits_takeRequest h (fun u hu => fits_respond _ _ _ _ (fits_same hu rfl)))
  | releaseHold r doc => exact fits_of_next e (fits_takeRequest h (fun _ => fits_releaseHold r.tag doc))
  | discardDocument r doc => exact fits_of_next e (fits_takeRequest h (fun _ => fits_discardDocument r.tag doc))
  | verifyDocument r doc => exact fits_of_next e (fits_takeRequest h (fun _ => fits_verifyDocument r.tag doc))
  | verifyStep doc => exact fits_verifyStep h e
  | readDocument r doc firstPage =>
    refine fits_of_next e (fits_takeRequest h (fun u hu => ?_))
    split <;> exact fits_respond _ _ _ _ hu
  | listDocuments r dept filter first => exact fits_of_next e (fits_takeRequest h (fun _ => fits_listDocuments r.tag dept filter first))
  | collect r dept timeout => exact fits_of_next e (fits_takeRequest h (fun _ => fits_collect r.tag dept timeout))
  | acceptOffer r doc => exact fits_of_next e (fits_takeRequest h (fun _ => fits_acceptOffer r.tag doc))
  | declineOffer r doc => exact fits_of_next e (fits_takeRequest h (fun _ => fits_declineOffer r.tag doc))
  | abortTransfer r doc => exact fits_of_next e (fits_takeRequest h (fun _ => fits_abortTransfer r.tag doc))
  | confirmCollected r doc => exact fits_of_next e (fits_takeRequest h (fun _ => fits_confirmCollected r.tag doc))
  | addForward r doc digits => exact fits_of_next e (fits_takeRequest h (fun _ => fits_addForward r.tag doc digits))
  | cancelForward r doc index => exact fits_of_next e (fits_takeRequest h (fun _ => fits_cancelForward r.tag doc index))
  | resumeForwarding r => exact fits_of_next e (fits_takeRequest h (fun _ => fits_resumeForwarding r.tag))
  | readJobs r doc first => exact fits_of_next e (fits_takeRequest h (fun _ => fits_readJobs r.tag doc first))
  | readCallerMemory r index => exact fits_of_next e (fits_takeRequest h (fun _ => fits_respond _ _ _ _))
  | forgetCaller r number => exact fits_of_next e (fits_takeRequest h (fun _ => fits_forgetCaller r.tag number))
  | readErrorRecords r serial => exact fits_of_next e (fits_takeRequest h (fun _ => fits_respond _ _ _ _))
  | ring n => exact fits_ring h e
  | ringEnd n => exact fits_of_next e (fits_ite (fits_endRinging n h) h)
  | digits n string complete =>
    refine fits_of_next e ?_
    split
    · exact fits_ite (fits_testAdmission n (fits_modRx n _ h)) h
    · exact h
  | callingNumber n number => exact fits_of_next e (fits_ite (fits_modRx n _ h) h)
  | digitWindowExpiry n =>
    refine fits_of_next e ?_
    split
    next expired _ => exact fits_ite (fits_expireWait h expired) (fits_testAdmission n (fits_modRx n _ (fits_expireWait h expired)))
    next expired _ => exact fits_expireWait h expired
    · exact h
  | commandAck n acked => exact fits_commandAck h e
  | ackLimitExpiry n =>
    refine fits_of_next e ?_
    split
    · exact h
    · exact fits_enterFault n _ (fits_advanceTo _ h)
  | frontEndFault n => exact fits_of_next e (fits_ite (fits_enterFault n _ h) h)
  | remoteChoice n step resolution identity => exact fits_remoteChoice h e
  | trainingDone n step pass => exact fits_trainingDone h e
  | pageData n bytes => exact fits_pageData h e
  | pageEnd n total bad last => exact fits_pageEnd h e
  | carrierLost n => exact fits_of_next e (fits_ite (fits_lineLost n h) h)
  | released n => exact fits_released h e
  | receiverSignalWaitExpiry n =>
    refine fits_of_next e ?_
    split
    next expired => exact fits_lineLost n (fits_expireWait h expired)
    · exact h
  | pageWaitExpiry n =>
    refine fits_of_next e ?_
    split
    next expired => exact fits_lineLost n (fits_expireWait h expired)
    · exact h
  | releaseWaitExpiry n =>
    refine fits_of_next e ?_
    split
    next expired => exact fits_enterFault n _ (fits_expireWait h expired)
    · exact h
  | dialWaitExpiry n =>
    refine fits_of_next e ?_
    split
    next expired => exact fits_lineLost n (fits_expireWait h expired)
    · exact h
  | senderWaitExpiry n =>
    refine fits_of_next e ?_
    split
    next expired => exact fits_lineLost n (fits_expireWait h expired)
    · exact h
  | connected n => exact fits_of_next e (fits_ite (fits_startWait n _ _ (fits_setChan n _ h)) h)
  | dialFailed n reason => exact fits_of_next e (fits_ite (fits_endAttempt n _ _ true h) h)
  | remoteOffer n maxStep fine identity =>
    refine fits_of_next e (fits_ite ?_ h)
    split
    · exact h
    · exact fits_ite (fits_endAttempt n _ _ true h) (fits_beginSending n _ maxStep h)
  | verdict n v =>
    refine fits_of_next e (fits_ite ?_ h)
    split
    · exact h
    · exact fits_takeVerdict n v _ h
  | attemptOutcome a =>
    have taken : TablesFit { s with fwd.handed := s.fwd.handed.erase a } := fits_same h rfl
    refine fits_of_next e ?_
    split
    · exact fits_ite (fits_takeOutcome _ a taken) taken
    · exact taken
  | callerClassification number cls => exact fits_of_next e (fits_ite (fits_same h rfl) h)
  | jobDue job =>
    refine fits_of_next e ?_
    split
    · exact fits_ite h (fits_oweRun (fits_advanceTo _ h))
    · exact h
  | arbiterRun => exact fits_of_next e (fits_arbiterTests _ (fits_same h rfl))
  | collectExpiry tag =>
    refine fits_of_next e ?_
    split
    · exact h
    · rename_i w _
      have u := fits_advanceTo w.expiry h
      exact fits_respond _ _ _ _ { u with collects := List.length_erase_le.trans u.collects }
  | documentJoinsReadyQueue doc =>
    refine fits_of_next e ?_
    split
    · exact fits_ite (fits_joinReady doc h) h
    · exact h
  | offerWindowExpiry doc =>
    refine fits_of_next e ?_
    split
    · exact h
    · exact fits_declineOpen doc (fits_advanceTo _ h)
  | retentionExpiry doc =>
    refine fits_of_next e ?_
    split
    · exact h
    · split
      · exact h
      · exact fits_ite (fits_ite (fits_purgeIfPassed doc (fits_advanceTo _ h)) (fits_advanceTo _ h)) h
  | spontaneousAppend content => exact fits_of_next e (fits_ite (fits_append content h) h)
  | calendarClockLimit => exact fits_of_next e (fits_ite (fits_advance _ h) h)

/-! ## Every step -/

theorem fits_idle {s : State} (h : TablesFit s) : TablesFit (idle s) := by
  unfold idle
  split
  · exact h
  · split
    · exact fits_advance 1 h
    · exact fits_same h rfl

theorem fits_step {s t : State} (h : TablesFit s) (e : step s = .next t) : TablesFit t := by
  unfold step at e
  split at e
  · exact fits_of_next e (fits_idle h)
  · rename_i c rest _
    have taken : TablesFit { s with pending := rest } := fits_same h rfl
    cases start : isStart c with
    | true => exact fits_start start taken e
    | false => exact fits_exec start taken e

/-- Settles O9, by what each command leaves of the tables and queues. -/
theorem stepKeepsTablesFit : Obligations.StepKeepsTablesFit := fun _ _ h e => fits_step h e

end Sys2Proof.Machine
end

section
/-! The end of a receiving call, whatever ends it and whoever waits for its document (R33 to R35, R91). -/

namespace Sys2Proof.Machine

open Sys2Proof

/-! ## The document of the call -/

/-- The document of a receiving call that has ended (R33, R34), before the line's allotment is given back. -/
structure Filed (s t : State) (d : Document) (o : ReceiptOutcome) : Prop where
  journal : t.journal = s.journal.offered (receiptFor d o) s.clock.cal s.clock.trusted
  empty : d.pages = [] → t.dir = { s.dir with docs := s.dir.docs.filter (fun x => decide (x.number ≠ d.number)) } ∧ t.fwd = s.fwd ∧
    t.collect = s.collect ∧ t.link.responses = s.link.responses
  landed : d.pages ≠ [] → OtherDocs s t d.number ∧
    (d.plan.hold = true → findDoc t d.number = some { landedAs s d o with life := .held } ∧ t.dir.ready = s.dir.ready ∧
      t.fwd = s.fwd ∧ t.collect = s.collect ∧ t.link.responses = s.link.responses) ∧
    (d.plan.hold = false → ∃ (answers : List Response) (left : Disposition),
      let opened : Document := { landedAs s d o with life := .opened }
      findDoc t d.number = some { opened with disposition := left, forwards := planned d } ∧ Opened s t opened answers left ∧
      t.link.responses = s.link.responses ++ answers)
  others : ∀ m, m ≠ d.number → findDoc t m = findDoc s m
  freed : t.store = (freeLanding d.number s).store ∧ t.mem = (freeLanding d.number s).mem ∧ t.dram = (freeLanding d.number s).dram ∧
    t.integrity = (freeLanding d.number s).integrity
  marked : Marked (freeLanding d.number s) t (fun x => (x = .journal ∧ (s.journal.unreleased = 8127 ∨ 8192 ≤ s.journal.unreleased)) ∨
    (x = .department d.dept ∧ d.pages ≠ []))
  frame : t = { s with
    store := t.store, mem := t.mem, dram := t.dram, integrity := { s.integrity with exhausted := t.integrity.exhausted }
    dir := { s.dir with docs := t.dir.docs, ready := t.dir.ready }, journal := t.journal
    fwd := { s.fwd with jobs := t.fwd.jobs, nextJob := t.fwd.nextJob, runOwed := t.fwd.runOwed }
    collect := { s.collect with queue := t.collect.queue, offers := t.collect.offers }
    link := { s.link with responses := t.link.responses, notices := t.link.notices } }

/-- The document of a call fits the call's end: what RxFits says of it. -/
structure Filable (s : State) (d : Document) : Prop where
  record : findDoc s d.number = some d
  plan : d.plan.hold = false → (d.plan.collect = true ∨ d.plan.dests ≠ []) ∧ d.forwards = [] ∧ d.disposition = .none ∧
    d.number ∉ readyQueue s d.dept ∧ s.fwd.jobs.length + d.plan.dests.length ≤ 256

theorem filter_modDoc (n : Nat) (f : Document → Document) (number : ∀ e, (f e).number = e.number) (s : State) :
    (modDoc n f s).dir.docs.filter (fun x => decide (x.number ≠ n)) = s.dir.docs.filter (fun x => decide (x.number ≠ n)) := by
  unfold modDoc
  dsimp only
  induction s.dir.docs with
  | nil => rfl
  | cons x xs ih =>
    rw [List.map_cons]
    by_cases hx : x.number = n
    · rw [if_pos hx, List.filter_cons_of_neg (by simp [number, hx]), List.filter_cons_of_neg (by simp [hx]), ih]
    · rw [if_neg hx, List.filter_cons_of_pos (by simp [hx]), List.filter_cons_of_pos (by simp [hx]), ih]

/-- A landing page that leaves its record leaves every other record. -/
theorem filter_freeLanding {s : State} {d : Document} (found : findDoc s d.number = some d) :
    (freeLanding d.number s).dir.docs.filter (fun x => decide (x.number ≠ d.number)) =
      s.dir.docs.filter (fun x => decide (x.number ≠ d.number)) := by
  cases landing : d.landing with
  | none => rw [freeLanding_none found landing]
  | some l => rw [docs_freeLanding found landing, filter_modDoc d.number (fun e => { e with landing := none }) (fun _ => rfl) s]

theorem dropEmpty_filed {s : State} {d : Document} (o : ReceiptOutcome) (found : findDoc s d.number = some d) (empty : d.pages = []) :
    Filed s (dropEmpty d.number o s) d o := by
  have freed := findDoc_freeLanding found
  have apart := (freeLanding_others found).1
  have rest := filter_freeLanding found
  have frame := freeLanding_frame d.number s
  unfold dropEmpty
  dsimp only
  rw [freed]
  dsimp only
  rw [receiptOf_eq]
  generalize hu : freeLanding d.number s = u at *
  have journal : u.journal = s.journal := by rw [frame]
  have marks := append_marked (receiptFor d o) (dropDoc d.number u)
  rw [show (dropDoc d.number u).journal = s.journal from journal] at marks
  have appended := append_frame (receiptFor d o) (dropDoc d.number u)
  have time : (dropDoc d.number u).clock = s.clock := by show u.clock = _; rw [frame]
  rw [show (dropDoc d.number u).journal = s.journal from journal, time] at appended
  have docs : (dropDoc d.number u).dir = { s.dir with docs := s.dir.docs.filter (fun x => decide (x.number ≠ d.number)) } := by
    rw [← rest]; unfold dropDoc; dsimp only; rw [frame]
  generalize (append (receiptFor d o) (dropDoc d.number u)).1 = t at marks appended ⊢
  have dir : t.dir = (dropDoc d.number u).dir := by rw [appended]
  refine ⟨by rw [appended], fun _ => ⟨dir.trans docs, ?_, ?_, ?_⟩, fun full => absurd empty full, fun m hm => ?_, ?_, ?_, ?_⟩
  · rw [appended]; show u.fwd = _; rw [frame]
  · rw [appended]; show u.collect = _; rw [frame]
  · rw [appended]; show u.link.responses = _; rw [frame]
  · have := findDoc_dropped d.number m s t.dir.docs (by rw [dir, docs])
    rwa [if_neg hm] at this
  · rw [hu, appended]; exact ⟨rfl, rfl, rfl, rfl⟩
  · rw [hu]; exact (marks.of_link rfl rfl rfl).congr (by simp [empty])
  · rw [appended, docs]
    unfold dropDoc
    dsimp only
    rw [frame]

/-- The receipt of a document with pages is written, whose landing page has gone (R33). -/
theorem recorded_freed {s : State} {d : Document} (o : ReceiptOutcome) (found : findDoc s d.number = some d) :
    let u := freeLanding d.number s
    let w := recorded { d with landing := none } o u
    findDoc w d.number = some (landedAs s d o) ∧ OtherDocs s w d.number ∧ (∀ m, isUrgent w m = isUrgent s m) ∧
    w.journal = s.journal.offered (receiptFor d o) s.clock.cal s.clock.trusted ∧
    Marked u w (fun x => x = .journal ∧ (s.journal.unreleased = 8127 ∨ 8192 ≤ s.journal.unreleased)) ∧
    w = { s with
      store := u.store, mem := u.mem, dram := u.dram, integrity := { s.integrity with exhausted := u.integrity.exhausted }
      dir := { s.dir with docs := w.dir.docs }, journal := w.journal, link := { s.link with notices := w.link.notices } } := by
  have freed := findDoc_freeLanding found
  have apart := (freeLanding_others found).1
  have frame := freeLanding_frame d.number s
  have urgency (m : Nat) : isUrgent (freeLanding d.number s) m = isUrgent s m := by
    by_cases hm : m = d.number
    · rw [hm]; unfold isUrgent; rw [freed, found]
    · unfold isUrgent; rw [apart.1 m hm]
  obtain ⟨record, others, urgent, journal, marked, whole⟩ := recorded_recorded (o := o) freed
  dsimp only
  generalize freeLanding d.number s = u at *
  have journalU : u.journal = s.journal := by rw [frame]
  have clock : u.clock = s.clock := by rw [frame]
  have same : landedAs u d o = landedAs s d o := by unfold landedAs; rw [journalU, clock]
  generalize recorded { d with landing := none } o u = w at *
  refine ⟨record.trans (by rw [same]), ⟨fun m hm => (others.1 m hm).trans (apart.1 m hm), others.2.trans apart.2⟩,
    fun m => (urgent m).trans (urgency m), by rw [journal, journalU, clock], by rw [← journalU]; exact marked, ?_⟩
  rw [whole]
  dsimp only
  rw [frame]

theorem landDocument_held {s : State} {d : Document} (o : ReceiptOutcome) (found : findDoc s d.number = some d) (full : d.pages ≠ [])
    (hold : d.plan.hold = true) : Filed s (landDocument d.number o s) d o := by
  rw [landDocument_eq (findDoc_freeLanding found)]
  dsimp only
  rw [if_pos hold]
  obtain ⟨record, others, -, journal, marked, frame⟩ := recorded_freed o found
  have classes : (recorded { d with landing := none } o (freeLanding d.number s)).link.classes = s.link.classes := by rw [frame]
  have classesU : (freeLanding d.number s).link.classes = s.link.classes := by rw [freeLanding_frame]
  generalize recorded { d with landing := none } o (freeLanding d.number s) = w at *
  have later := modDoc_others d.number (fun e => { e with life := .held }) (fun _ => rfl) w
  have other : OtherDocs s (modDoc d.number (fun e => { e with life := .held }) w) d.number :=
    ⟨fun m hm => (later.1 m hm).trans (others.1 m hm), later.2.trans others.2⟩
  have last := mark_marked (.department d.dept) (modDoc d.number (fun e => { e with life := .held }) w)
  refine ⟨journal, fun empty => absurd empty full, fun _ => ⟨other, fun _ => ⟨findDoc_modDoc_self record (fun _ => rfl), ?_, ?_, ?_, ?_⟩,
    fun opens => absurd (hold.symm.trans opens) nofun⟩, other.1, ?_, ?_, ?_⟩
  · show w.dir.ready = _; rw [frame]
  · show w.fwd = _; rw [frame]
  · show w.collect = _; rw [frame]
  · show w.link.responses = _; rw [frame]
  · show w.store = _ ∧ w.mem = _ ∧ w.dram = _ ∧ w.integrity = _
    rw [frame, freeLanding_frame]; exact ⟨rfl, rfl, rfl, rfl⟩
  · exact ((marked.of_link rfl rfl rfl).trans last (classes.trans classesU.symm)).congr (by simp [full])
  · unfold mark modDoc
    rw [frame]

theorem landDocument_opened {s : State} {d : Document} (o : ReceiptOutcome) (fits : Filable s d) (full : d.pages ≠ [])
    (opens : d.plan.hold = false) : Filed s (landDocument d.number o s) d o := by
  obtain ⟨found, plan⟩ := fits
  obtain ⟨planned, unplanned, undue, unqueued, room⟩ := plan opens
  rw [landDocument_eq (findDoc_freeLanding found)]
  dsimp only
  rw [if_neg (by rw [opens]; nofun)]
  obtain ⟨record, others, urgent, journal, marked, frame⟩ := recorded_freed o found
  have classes : (recorded { d with landing := none } o (freeLanding d.number s)).link.classes = s.link.classes := by rw [frame]
  have classesU : (freeLanding d.number s).link.classes = s.link.classes := by rw [freeLanding_frame]
  generalize recorded { d with landing := none } o (freeLanding d.number s) = w at *
  have fwdW : w.fwd = s.fwd := by rw [frame]
  have clockW : w.clock = s.clock := by rw [frame]
  have readyW : w.dir.ready = s.dir.ready := by rw [frame]
  have collectW : w.collect = s.collect := by rw [frame]
  have responsesW : w.link.responses = s.link.responses := by rw [frame]
  have same : SameQueues s w := ⟨by rw [collectW], readyW, by rw [frame], urgent⟩
  obtain ⟨answers, left, new, recordT, othersT, collects, keeps, ⟨jobs, targets, fresh, fwd⟩, -, responses, markedT, frameT⟩ :=
    enterOpen_opening (s := w) (d := landedAs s d o) ⟨record, planned, unplanned, undue, by unfold readyQueue; rw [readyW]; exact unqueued,
      by rw [fwdW]; exact room⟩
  have number : (landedAs s d o).number = d.number := rfl
  rw [number] at recordT othersT collects keeps jobs fwd responses markedT frameT
  generalize enterOpen d.number w = t at *
  rw [clockW] at fresh
  obtain ⟨length, each⟩ := planTargets_jobs targets fresh
  have other : OtherDocs s t d.number := ⟨fun m hm => (othersT.1 m hm).trans (others.1 m hm), othersT.2.trans others.2⟩
  have last := mark_marked (.department d.dept) t
  refine ⟨?_, fun empty => absurd empty full, fun _ => ⟨other, fun hold => absurd (opens.symm.trans hold) nofun, fun _ =>
    ⟨answers, left, recordT, ⟨fun c => ?_, fun c => ?_, ⟨new, ?_, length, each⟩, fun dests => ?_⟩, ?_⟩⟩, other.1, ?_, ?_, ?_⟩
  · show t.journal = _; rw [frameT]; exact journal
  · have joined := (collects c).source same
    rw [collectW] at joined
    obtain ⟨a, b, m⟩ := joined
    exact ⟨a, b, m⟩
  · obtain ⟨none, silent, queue, ready⟩ := keeps c
    exact ⟨none.trans undue.symm, silent, queue.trans collectW, ready.trans readyW⟩
  · show t.fwd.jobs = _; rw [jobs, fwdW]
  · show t.fwd.runOwed = true
    have some : new ≠ [] := by rw [← List.length_pos_iff, length]; exact List.length_pos_iff.2 dests
    rw [fwd]; simp [some]
  · show t.link.responses = _; rw [responses, responsesW]
  · show t.store = _ ∧ t.mem = _ ∧ t.dram = _ ∧ t.integrity = _
    rw [frameT, frame, freeLanding_frame]; exact ⟨rfl, rfl, rfl, rfl⟩
  · refine ((marked.trans markedT (classes.trans classesU.symm)).trans last ?_).congr fun x => ?_
    · rw [frameT]; exact classes.trans classesU.symm
    · constructor
      · rintro ((h | ⟨rfl, -⟩) | rfl)
        · exact .inl h
        · exact .inr ⟨rfl, full⟩
        · exact .inr ⟨rfl, full⟩
      · rintro (h | ⟨rfl, -⟩)
        · exact .inl (.inl h)
        · exact .inr rfl
  · unfold mark
    dsimp only
    generalize t.link.notices = ns at *
    rw [fwdW] at fwd
    generalize t.fwd.jobs = js, t.fwd.nextJob = nj at *
    rw [frameT, fwd, frame]

theorem endDocument_filed {s : State} {d : Document} (o : ReceiptOutcome) (fits : Filable s d) : Filed s (endDocument d.number o s) d o := by
  unfold endDocument
  rw [fits.record]
  dsimp only
  by_cases empty : d.pages = []
  · rw [if_pos (List.isEmpty_iff.2 empty)]
    exact dropEmpty_filed o fits.record empty
  · rw [if_neg (by rw [List.isEmpty_iff]; exact empty)]
    cases hold : d.plan.hold with
    | true => exact landDocument_held o fits.record empty hold
    | false => exact landDocument_opened o fits empty hold

/-! ## The allotment -/

/-- The allotment of a line is given back (R19, R21). -/
structure AllotmentBack (s t : State) (n : LineNo) (d : Dept) : Prop where
  accounts : ∀ e : Dept, acct t e = if e = d then { acct s d with resv := (acct s d).resv - (allotment s n).count } else acct s e
  allotments : ∀ m : LineNo, allotment t m = if m = n then ⟨none, 0⟩ else allotment s m
  lists : t.store.free = s.store.free ∧ t.store.spares = s.store.spares ∧ t.store.retired = s.store.retired
  pressure : t.store.pressure = pressureAfter s.store.pressure t
  marked : Marked s t (fun x => x = .store ∧ t.store.pressure ≠ s.store.pressure)
  frame : t = { s with store := t.store, link := { s.link with notices := t.link.notices } }

theorem releaseAllotment_back {s : State} {n : LineNo} {d : Dept} (own : (allotment s n).dept = some d) :
    AllotmentBack s (releaseAllotment n s) n d := by
  have frame := releaseAllotment_frame n s
  have course : releaseAllotment n s = evalPressure (setAllotment n ⟨none, 0⟩
      (setAcct d (fun a => { a with resv := a.resv - (allotment s n).count }) s)) := by
    unfold releaseAllotment; rw [own]
  rw [course] at frame ⊢
  generalize hw : setAllotment n ⟨none, 0⟩ (setAcct d (fun a => { a with resv := a.resv - (allotment s n).count }) s) = w at *
  have account (e : Dept) : acct w e = if e = d then { acct s d with resv := (acct s d).resv - (allotment s n).count } else acct s e := by
    rw [← hw]; exact acct_setAcct e d (fun a => { a with resv := a.resv - (allotment s n).count }) s
  have given (m : LineNo) : allotment w m = if m = n then ⟨none, 0⟩ else allotment s m := by
    rw [← hw, allotment_setAllotment]; rfl
  have kept := evalPressure_frame w
  have marked := evalPressure_marked w
  have settled := evalPressure_settled w
  have pressure : w.store.pressure = s.store.pressure := by rw [← hw]; rfl
  have link : w.link = s.link := by rw [← hw]; rfl
  rw [pressure] at marked settled
  refine ⟨fun e => (acct_evalPressure w e).trans (account e), fun m => ?_, ?_, settled, marked.of_link (by rw [link]) rfl (by rw [link]), frame⟩
  · rw [← given]; unfold allotment; rw [kept]
  · rw [kept, ← hw]; exact ⟨rfl, rfl, rfl⟩

/-- Two evaluations under a load that falls are as one, from a state that is not under pressure without cause (R21). -/
theorem pressureAfter_twice {s t u : State} (calm : s.store.pressure = false → sharedCommitted s < pEnter s) (l : Lighter s t)
    (k : Lighter t u) : pressureAfter (pressureAfter s.store.pressure t) u = pressureAfter s.store.pressure u := by
  have first := l.committed
  have second := k.committed
  have order := pLeave_le_pEnter u
  have enter : pEnter t = pEnter s := by unfold pEnter; rw [l.pool]
  have leave : pLeave t = pLeave u := by unfold pLeave; rw [k.pool]
  cases was : s.store.pressure with
  | false =>
    have low := calm was
    have same : pressureAfter false t = false := by simp [pressureAfter]; omega
    rw [same]
  | true =>
    by_cases high : pLeave t ≤ sharedCommitted t
    · have same : pressureAfter true t = true := by simpa [pressureAfter] using high
      rw [same]
    · have same : pressureAfter true t = false := by simp [pressureAfter]; omega
      have low : ¬ pEnter u ≤ sharedCommitted u := by omega
      have low' : ¬ pLeave u ≤ sharedCommitted u := by omega
      rw [same]
      simp [pressureAfter, low, low']

/-! ## The call -/

/-- The classification of a call with a calling number is handed (R93). -/
def classed (c : RxCall) (cls : CallClass) (s : State) : State :=
  match c.calling with
  | some number => handClass number cls s
  | none => s

theorem classed_eq (c : RxCall) (cls : CallClass) (s : State) : classed c cls s =
    { s with callers := { s.callers with handed := s.callers.handed ++ (match c.calling with
      | some number => [⟨number, cls⟩]
      | none => []) } } := by
  unfold classed
  cases c.calling with
  | none => dsimp only; rw [List.append_nil]
  | some x => rfl

/-- What follows RELEASE at the end of a receiving call (R91). -/
def callEnd (n : LineNo) (c : RxCall) (d : Document) (o : ReceiptOutcome) (cls : CallClass) (s : State) : State :=
  mark (.line n) (classed c cls (releaseAllotment n (endDocument d.number o s)))

theorem endReceiving_eq {s : State} {n : LineNo} {w : Option Wait} {c : RxCall} {d : Document} (e : RxEnd) (release : Bool)
    (call : (lineAt s n).call = some ⟨w, .receiver c⟩) (document : c.document = some d.number) :
    endReceiving n e release s =
      callEnd n c d e.outcome (rxClass c e) (if release then releaseWith n .release s else s) := by
  unfold endReceiving
  rw [rxOf_receiver call]
  dsimp only
  rw [document]
  rfl

theorem RxFits.filable {s : State} {n : LineNo} {c : RxCall} {d : Document} (h : RxFits s n c d) : Filable s d := ⟨h.record, h.plan⟩

end Sys2Proof.Machine
end

section
/-! What the end of a receiving call leaves (R33 to R35, R91), and what of it the lines do not touch. -/

namespace Sys2Proof.Machine

open Sys2Proof

/-! ## Facts of a call's end -/

theorem landingSize_eq (d : Document) : landingSize d = d.landing.elim 0 (fun l => l.blocks.length) := by
  unfold landingSize
  cases d.landing <;> rfl

section
variable {s u v : State} {n : LineNo} {d : Document} {o : ReceiptOutcome}

theorem Filed.accounts (h : Filed s u d o) (found : findDoc s d.number = some d) (e : Dept) :
    acct u e = { acct s e with used := (acct s e).used - (if d.dept = e then landingSize d else 0) } := by
  rw [← (freeLanding_freed found).accounts e]
  exact acct_congr (congrArg PageStore.accounts h.freed.1) e

theorem Filed.allotments (h : Filed s u d o) (found : findDoc s d.number = some d) (m : LineNo) : allotment u m = allotment s m := by
  unfold allotment
  rw [h.freed.1, (freeLanding_freed found).allotments]

/-- A document without pages is gone (R34). -/
theorem Filed.gone (h : Filed s u d o) (empty : d.pages = []) : findDoc u d.number = none := by
  have := findDoc_dropped d.number d.number s u.dir.docs (by rw [(h.empty empty).1])
  rwa [if_pos rfl] at this

/-- The pressure state is evaluated when the landing page's blocks are given back and again behind the allotment, which is as once (R21). -/
theorem Filed.pressure (h : Filed s u d o) (found : findDoc s d.number = some d) (back : AllotmentBack u v n d.dept)
    (calm : s.store.pressure = false → sharedCommitted s < pEnter s) : v.store.pressure = pressureAfter s.store.pressure v := by
  have lessUsed : Lighter s u := fun e => by rw [h.accounts found e]; exact ⟨rfl, Nat.sub_le _ _, le_rfl⟩
  have lessReserved : Lighter u v := fun e => by
    rw [back.accounts e]
    by_cases he : e = d.dept
    · rw [if_pos he, he]; exact ⟨rfl, le_rfl, Nat.sub_le _ _⟩
    · rw [if_neg he]; exact ⟨rfl, le_rfl, le_rfl⟩
  rw [back.pressure]
  rcases (freeLanding_freed found).pressure with same | evaluated
  · rw [h.freed.1, same]
  · rw [← pressureAfter_of_store h.freed.1, ← h.freed.1] at evaluated
    rw [evaluated, pressureAfter_twice calm lessUsed lessReserved]

/-- The subjects a call's end marks before its line (R18, R21, R33, R98). -/
theorem Filed.marks (h : Filed s u d o) (back : AllotmentBack u v n d.dept) : ∃ P, Marked s v P ∧
    (d.pages ≠ [] → P (.department d.dept)) ∧
    ∀ x, P x → (x = .department d.dept ∧ d.pages ≠ []) ∨ x = .store ∨ x = .integrity ∨ x = .journal := by
  have freed := (freeLanding_marked d.number s).1
  have classesF : (freeLanding d.number s).link.classes = s.link.classes := by rw [freeLanding_frame]
  have classesU : u.link.classes = s.link.classes := by rw [h.frame]
  refine ⟨_, (freed.trans h.marked classesF).trans back.marked classesU, fun full => .inl (.inr (.inr ⟨rfl, full⟩)), ?_⟩
  rintro x (((⟨integrity, -⟩ | ⟨store, -⟩) | ⟨journal, -⟩ | department) | ⟨store, -⟩)
  · exact .inr (.inr (.inl integrity))
  · exact .inr (.inl store)
  · exact .inr (.inr (.inr journal))
  · exact .inl department
  · exact .inr (.inl store)

end

/-! ## The end as a whole -/

/-- What follows RELEASE at the end of a receiving call: the whole of R91 and R93. -/
theorem callEnd_ended {s : State} {n : LineNo} {c : RxCall} {d : Document} (o : ReceiptOutcome) (cls : CallClass) (fits : RxFits s n c d) :
    RxEnded s (callEnd n c d o cls s) n c d o cls ∧ (callEnd n c d o cls s).lines = s.lines ∧
      (callEnd n c d o cls s).fwd.view = s.fwd.view := by
  have found := fits.record
  have freed := freeLanding_freed found
  have memory := freeLanding_memory found
  have filed := endDocument_filed o fits.filable
  unfold callEnd
  rw [classed_eq]
  generalize endDocument d.number o s = u at *
  have back : AllotmentBack u (releaseAllotment n u) n d.dept :=
    releaseAllotment_back (by rw [filed.allotments found]; exact fits.account)
  generalize releaseAllotment n u = v at *
  obtain ⟨P, marked, department, allowed⟩ := filed.marks back
  have pressure := filed.pressure found back
  obtain ⟨accounts, allotments, ⟨free, spares, retired⟩, -, -, frame⟩ := back
  have whole := filed.frame
  have store : u.store = _ := filed.freed.1
  have mem : v.mem = (freeLanding d.number s).mem := by rw [frame]; exact filed.freed.2.1
  have dram : v.dram = (freeLanding d.number s).dram := by rw [frame]; exact filed.freed.2.2.1
  have dir : v.dir = u.dir := by rw [frame]
  have journal : v.journal = u.journal := by rw [frame]
  have fwd : v.fwd = u.fwd := by rw [frame]
  have collect : v.collect = u.collect := by rw [frame]
  have responses : v.link.responses = u.link.responses := by rw [frame]
  generalize ht : mark (.line n) { v with callers := _ } = t
  have last : Marked v t (fun x => x = .line n) := by rw [← ht]; exact (mark_marked (.line n) _).of_link rfl rfl rfl
  have marks := marked.trans last (by rw [frame, whole])
  have callers : t.callers = { v.callers with handed := v.callers.handed ++ (match c.calling with
      | some number => [⟨number, cls⟩]
      | none => []) } := by rw [← ht]; rfl
  have shell : t = { v with callers := t.callers, link := { v.link with notices := t.link.notices } } := by rw [← ht]; rfl
  have dirT : t.dir = u.dir := by rw [shell]; exact dir
  have storeT : t.store = v.store := by rw [shell]
  have docs (m : Nat) : findDoc t m = findDoc u m := findDoc_dir (congrArg Directory.docs dirT) m
  have accountT (e : Dept) : acct t e = acct v e := acct_congr (congrArg PageStore.accounts storeT) e
  have fwdT : t.fwd = u.fwd := by rw [shell]; exact fwd
  have collectT : t.collect = u.collect := by rw [shell]; exact collect
  have responsesT : t.link.responses = u.link.responses := by rw [shell]; exact responses
  have pressureT (was : Bool) : pressureAfter was t = pressureAfter was v := pressureAfter_of_store storeT was
  have lines : t.lines = s.lines := by rw [shell, frame, whole]
  have view : t.fwd.view = s.fwd.view := by rw [fwdT, whole]
  refine ⟨{
    receipt := by rw [shell]; exact journal.trans filed.journal
    empty := fun empty => ?empty
    landed := fun full => ?landed
    otherDocs := fun m hm => (docs m).trans (filed.others m hm)
    free := by rw [storeT, free, store, ← landingSize_eq]; exact ⟨freed.free.2, freed.free.1⟩
    spares := by rw [storeT, spares, retired, store]; exact freed.spares
    group := fun l landing => groupClosed (by rw [shell]; exact mem.trans (memory.1 l landing).1)
      (by rw [shell]; exact dram.trans (memory.1 l landing).2)
    noBlocks := fun landing => ?noBlocks
    account := ?account
    accounts := fun e he => ?accounts
    pressure := fun calm => by rw [storeT, pressureT]; exact pressure calm
    allotment := ⟨?own, fun m hm => ?others⟩
    handed := by rw [callers, frame, whole]; exact ⟨rfl, rfl⟩
    marked := fun enabled => (marks.2 _).2 (.inr ⟨enabled, .inr rfl⟩)
    marks := ⟨marks.1, fun x hx => ?marks⟩
    intake := fun _ => by rw [shell, frame, whole]
    frame := ?frame }, lines, view⟩
  case empty =>
    obtain ⟨dirU, fwdU, collectU, responsesU⟩ := filed.empty empty
    exact ⟨(docs _).trans (filed.gone empty), by rw [dirT, dirU], by rw [dirT, dirU], by rw [fwdT, fwdU], by rw [collectT, collectU],
      by rw [responsesT, responsesU, List.append_nil]⟩
  case landed =>
    obtain ⟨other, held, opened⟩ := filed.landed full
    refine ⟨other.of_docs (congrArg Directory.docs dirT), fun enabled => (marks.2 _).2 (.inr ⟨enabled, .inl (department full)⟩),
      fun hold => ?_, fun opens => ?_⟩
    · obtain ⟨record, readyU, fwdU, collectU, responsesU⟩ := held hold
      exact ⟨(docs _).trans record, by rw [dirT, readyU], by rw [fwdT, fwdU], by rw [collectT, collectU],
        by rw [responsesT, responsesU, List.append_nil]⟩
    · obtain ⟨answers, left, record, into, responsesU⟩ := opened opens
      refine ⟨answers, left, (docs _).trans record, ⟨fun k => ?_, ?_, ?_, ?_⟩, by rw [responsesT, responsesU, List.append_nil]⟩
      · exact (into.collects k).target collectT (by rw [dirT]) (by rw [shell, frame])
      · rw [collectT, dirT]; exact into.keeps
      · rw [fwdT]; exact into.jobs
      · rw [fwdT]; exact into.owed
  case noBlocks =>
    obtain ⟨memF, dramF⟩ := memory.2 landing
    refine ⟨?_, by rw [shell]; exact mem.trans memF, by rw [shell]; exact dram.trans dramF⟩
    rw [storeT, free, store, freeLanding_none found landing]
  case account =>
    rw [accountT, accounts, if_pos rfl, filed.accounts found, if_pos rfl, filed.allotments found, landingSize_eq]
  case accounts =>
    rw [accountT, accounts, if_neg he, filed.accounts found, if_neg (Ne.symm he)]; rfl
  case own => exact (show allotment t n = allotment v n by unfold allotment; rw [storeT]).trans ((allotments n).trans (if_pos rfl))
  case others =>
    exact (show allotment t m = allotment v m by unfold allotment; rw [storeT]).trans
      (((allotments m).trans (if_neg hm)).trans (filed.allotments found m))
  case marks =>
    rcases (marks.2 x).1 hx with was | ⟨enabled, new | line⟩
    · exact .inl was
    · exact .inr ⟨enabled, .inr (allowed x new)⟩
    · exact .inr ⟨enabled, .inl line⟩
  case frame =>
    rw [shell, frame, whole]

end Sys2Proof.Machine
end

section
/-! A call that is lost: CARRIER_LOST, the expiries of the waits for the remote, and RELEASED (R90, R92, R95). -/

namespace Sys2Proof.Machine

open Sys2Proof

/-! ## The lines are apart from the rest -/

/-- The end of a call reads nothing of the lines. -/
theorem RxEnded.of_lines {s t : State} {n : LineNo} {c : RxCall} {d : Document} {o : ReceiptOutcome} {cls : CallClass} {L : Vector Line 16}
    (h : RxEnded { s with lines := L } t n c d o cls) : RxEnded s t n c d o cls :=
  { h with
    landed := fun full => by
      obtain ⟨other, marked, held, opened⟩ := h.landed full
      refine ⟨⟨other.1, other.2⟩, marked, held, fun opens => ?_⟩
      obtain ⟨answers, left, record, ⟨collects, keeps, jobs, owed⟩, responses⟩ := opened opens
      have same : SameQueues s { s with lines := L } := ⟨rfl, rfl, rfl, fun _ => rfl⟩
      exact ⟨answers, left, record, ⟨fun k => (collects k).source same, keeps, jobs, owed⟩, responses⟩
    group := fun l landing => ⟨(h.group l landing).whole, (h.group l landing).written⟩ }

theorem RxFits.of_lines {s : State} {n : LineNo} {c : RxCall} {d : Document} (L : Vector Line 16) (h : RxFits s n c d) :
    RxFits { s with lines := L } n c d :=
  ⟨h.document, h.record, h.account, h.plan⟩

/-- A receiving call ends behind a change of the lines. -/
theorem callEnd_lines {s : State} {n : LineNo} {c : RxCall} {d : Document} (L : Vector Line 16) (o : ReceiptOutcome) (cls : CallClass)
    (fits : RxFits s n c d) :
    RxEnded s (callEnd n c d o cls { s with lines := L }) n c d o cls ∧ (callEnd n c d o cls { s with lines := L }).lines = L ∧
      (callEnd n c d o cls { s with lines := L }).fwd.view = s.fwd.view := by
  obtain ⟨ended, lines, view⟩ := callEnd_ended o cls (fits.of_lines L)
  exact ⟨ended.of_lines, lines, view⟩

/-- The end of a receiving call on line n (R91), with RELEASE or without. -/
theorem endReceiving_ended {s : State} {n : LineNo} {w : Option Wait} {c : RxCall} {d : Document} (e : RxEnd) (release : Bool)
    (call : (lineAt s n).call = some ⟨w, .receiver c⟩) (fits : RxFits s n c d) :
    RxEnded s (endReceiving n e release s) n c d e.outcome (rxClass c e) ∧ OtherLines s (endReceiving n e release s) n ∧
    lineAt (endReceiving n e release s) n = (if release then (lineAt s n).releases s.clock.run .release else lineAt s n) ∧
    (endReceiving n e release s).fwd.view = s.fwd.view := by
  rw [endReceiving_eq e release call fits.document]
  cases release with
  | false =>
    obtain ⟨ended, lines, view⟩ := callEnd_ended e.outcome (rxClass c e) fits
    exact ⟨ended, fun m _ => lineAt_of_lines lines m, lineAt_of_lines lines n, view⟩
  | true =>
    rw [if_pos rfl, if_pos rfl, releaseWith_eq]
    obtain ⟨ended, lines, view⟩ := callEnd_lines (modLine n (fun l => l.releases s.clock.run .release) s).lines e.outcome (rxClass c e) fits
    refine ⟨ended, fun m hm => ?_, ?_, view⟩
    · exact (lineAt_of_lines lines m).trans (lineAt_modLine_ne hm _ s)
    · exact (lineAt_of_lines lines n).trans (lineAt_modLine_self n _ s)

/-! ## The return to IDLE -/

/-- The channel of line n has returned to IDLE (R71, R92). -/
structure Idled (s t : State) (n : LineNo) : Prop where
  line : lineAt t n = (lineAt s n).idles s.clock.run
  others : OtherLines s t n
  told : ToldRun s t n
  marked : Marked s t (fun x => x = .line n ∧ (lineAt s n).pendingService ≠ none)
  frame : t = { s with
    lines := t.lines, fwd := { s.fwd with view := t.fwd.view, runOwed := true }
    link := { s.link with notices := t.link.notices } }

theorem applyPending_applied (n : LineNo) (s : State) :
    OtherLines s (applyPending n s) n ∧ Marked s (applyPending n s) (fun x => x = .line n ∧ (lineAt s n).pendingService ≠ none) ∧
    applyPending n s = { s with
      lines := (applyPending n s).lines, link := { s.link with notices := (applyPending n s).link.notices } } := by
  unfold applyPending
  cases pending : (lineAt s n).pendingService with
  | none => exact ⟨fun _ _ => rfl, (Marked.none rfl).congr (by simp), rfl⟩
  | some p =>
    dsimp only
    refine ⟨fun m hm => ?_, ((mark_marked (.line n) _).of_link rfl rfl rfl).congr (by simp), rfl⟩
    let served := modLine n (fun l => { l with service := p, pendingService := none }) s
    exact (lineAt_modLine_ne hm (fun l => l.sends served.clock.run (presentOf p)) served).trans (lineAt_modLine_ne hm _ s)

theorem reportRun_told (n : LineNo) (s : State) : ToldRun s (reportRun n s) n := by
  refine ⟨?_, fun m hm => ?_, rfl⟩
  · exact Vector.getElem_set_self n.isLt
  · exact Vector.getElem_set_ne n.isLt m.isLt (fun e => hm (Fin.ext e.symm))

theorem returnToIdle_idled (n : LineNo) (s : State) : Idled s (returnToIdle n s) n := by
  have line := returnToIdle_line n s
  unfold returnToIdle at *
  generalize hu : modLine n _ s = u at *
  have shell : u = { s with lines := u.lines } := by rw [← hu]; rfl
  have others : OtherLines s u n := fun m hm => by rw [← hu]; exact lineAt_modLine_ne hm _ s
  have pending : (lineAt u n).pendingService = (lineAt s n).pendingService := by rw [← hu, lineAt_modLine_self]
  obtain ⟨apart, marked, frame⟩ := applyPending_applied n u
  rw [pending] at marked
  generalize applyPending n u = v at *
  have told := reportRun_told n v
  have view : v.fwd = s.fwd := by rw [frame, shell]
  refine ⟨line, fun m hm => (apart m hm).trans (others m hm), ?_, ?_, ?_⟩
  · obtain ⟨entry, views, owed⟩ := told
    exact ⟨entry, fun m hm => by rw [views m hm, view], owed⟩
  · exact marked.of_link (by rw [shell]) rfl (by rw [shell])
  · show { v with fwd := _ } = _
    rw [frame, shell]
    rfl

end Sys2Proof.Machine
end

section
/-! The losses of a call (O59). -/

namespace Sys2Proof.Machine

open Sys2Proof

/-- The end of a receiving call stands, whatever becomes of its line behind it. -/
theorem RxEnded.idled {s t v : State} {n : LineNo} {c : RxCall} {d : Document} {o : ReceiptOutcome} {cls : CallClass}
    (h : RxEnded s t n c d o cls) (idle : Idled t v n) : RxEnded s v n c d o cls := by
  obtain ⟨-, -, -, ⟨kept, marked⟩, frame⟩ := idle
  have store : v.store = t.store := by rw [frame]
  have dir : v.dir = t.dir := by rw [frame]
  have jobs : v.fwd.jobs = t.fwd.jobs := by rw [frame]
  have collect : v.collect = t.collect := by rw [frame]
  have responses : v.link.responses = t.link.responses := by rw [frame]
  have mem : v.mem = t.mem := by rw [frame]
  have dram : v.dram = t.dram := by rw [frame]
  have classes : t.link.classes = s.link.classes := by rw [h.frame]
  have docs (m : Nat) : findDoc v m = findDoc t m := findDoc_dir (congrArg Directory.docs dir) m
  have account (e : Dept) : acct v e = acct t e := acct_congr (congrArg PageStore.accounts store) e
  have allotted (m : LineNo) : Machine.allotment v m = Machine.allotment t m := by
    unfold Machine.allotment; rw [store]
  exact {
    receipt := by rw [frame]; exact h.receipt
    empty := by rw [docs, dir, jobs, collect, responses]; exact h.empty
    landed := fun full => by
      obtain ⟨other, department, held, opened⟩ := h.landed full
      refine ⟨other.of_docs (congrArg Directory.docs dir), fun enabled => kept.subset (department enabled), ?_, fun opens => ?_⟩
      · rw [docs, dir, jobs, collect, responses]; exact held
      · obtain ⟨answers, left, record, ⟨collects, keeps, new, -⟩, answered⟩ := opened opens
        exact ⟨answers, left, (docs _).trans record, ⟨fun k => (collects k).target collect (by rw [dir]) (by rw [frame]),
          by rw [collect, dir]; exact keeps, by rw [jobs]; exact new, fun _ => by rw [frame]⟩, responses.trans answered⟩
    otherDocs := fun m hm => (docs m).trans (h.otherDocs m hm)
    free := by rw [store]; exact h.free
    spares := by rw [store]; exact h.spares
    group := fun l landing => by
      obtain ⟨whole, written⟩ := h.group l landing
      exact ⟨by rw [mem, dram]; exact whole, by rw [mem, dram]; exact written⟩
    noBlocks := by rw [store, mem, dram]; exact h.noBlocks
    account := (account _).trans h.account
    accounts := fun e he => (account e).trans (h.accounts e he)
    pressure := fun calm => by rw [store, pressureAfter_of_store store]; exact h.pressure calm
    allotment := ⟨(allotted n).trans h.allotment.1, fun m hm => (allotted m).trans (h.allotment.2 m hm)⟩
    handed := by rw [frame]; exact h.handed
    marked := fun enabled => kept.subset (h.marked enabled)
    marks := ⟨h.marks.1.trans kept, fun x hx => by
      rcases (marked x).1 hx with was | ⟨enabled, line, -⟩
      · exact h.marks.2 x was
      · exact .inr ⟨by rw [← classes]; exact enabled, .inl line⟩⟩
    intake := fun silent => by rw [frame]; exact h.intake silent
    frame := by rw [frame, h.frame] }

theorem TxEnded.idled {s t v : State} {n : LineNo} {u : TxCall} {o : AttemptOutcome} {cls : CallClass}
    (h : TxEnded s t n u o cls) (idle : Idled t v n) : TxEnded s v n u o cls := by
  obtain ⟨-, -, -, marked, frame⟩ := idle
  obtain ⟨outcome, handed, marks, ⟨responses, intake⟩, whole, engine⟩ := h
  have both := marks.trans marked (by rw [whole])
  refine ⟨by rw [frame]; exact outcome, by rw [frame]; exact handed, both.congr (by tauto),
    ⟨by rw [frame]; exact responses, fun silent => by rw [frame]; exact intake silent⟩, ?_, by rw [frame]; exact engine⟩
  rw [frame, whole]

/-- The end of an attempt reads nothing of the lines. -/
theorem TxEnded.of_lines {s t : State} {n : LineNo} {u : TxCall} {o : AttemptOutcome} {cls : CallClass} {L : Vector Line 16}
    (h : TxEnded { s with lines := L } t n u o cls) : TxEnded s t n u o cls :=
  ⟨h.outcome, h.handed, h.marked.of_link rfl rfl rfl, h.answers, h.frame, h.engine⟩

/-! ## The expiry of a wait -/

theorem expireWait_running {s : State} {n : LineNo} {k : WaitKind} {e : Nat} {part : CallPart}
    (call : (lineAt s n).call = some ⟨some ⟨k, e⟩, part⟩) : expireWait n k s = some (setWait n none (advanceTo e s)) := by
  unfold expireWait waitOf
  rw [call]
  dsimp only
  rw [if_pos rfl]
  rfl

theorem expireWait_idle {s : State} {n : LineNo} {k : WaitKind}
    (other : ∀ x e, (lineAt s n).call = some x → x.wait = some e → e.kind ≠ k) : expireWait n k s = none := by
  unfold expireWait waitOf
  split
  · rename_i w part call
    rw [if_neg (other _ w call rfl)]
    rfl
  · rfl

/-! ## A call that is lost -/

/-- The line of a call with its wait changed. -/
structure Unwaited (u : State) (L : Vector Line 16) (n : LineNo) (w : Option Wait) (part : CallPart) : Prop where
  call : (lineAt { u with lines := L } n).call = some ⟨w, part⟩
  line : (lineAt { u with lines := L } n).releases u.clock.run .release = (lineAt u n).releases u.clock.run .release
  chan : (lineAt { u with lines := L } n).chan = (lineAt u n).chan
  others : OtherLines u { u with lines := L } n

theorem setWait_unwaited {u : State} {n : LineNo} {w : Option Wait} {part : CallPart} (call : (lineAt u n).call = some ⟨w, part⟩) :
    Unwaited u (setWait n none u).lines n none part := by
  have line : lineAt (setWait n none u) n = { lineAt u n with call := some ⟨none, part⟩ } := by
    unfold setWait
    rw [lineAt_modLine_self, call]
    rfl
  refine ⟨congrArg Line.call line, ?_, (congrArg Line.chan line :),
    fun m hm => lineAt_modLine_ne hm (fun l => { l with call := l.call.map (fun x => { x with wait := none }) }) u⟩
  show (lineAt (setWait n none u) n).releases _ _ = _
  rw [line]
  unfold Line.releases
  rw [call]
  rfl

theorem lineLost_receiver {u : State} {L : Vector Line 16} {n : LineNo} {w : Option Wait} {c : RxCall} {d : Document}
    (h : Unwaited u L n w (.receiver c)) (receiving : receivingChan (lineAt u n).chan = true) (fits : RxFits u n c d) :
    RxEnded u (lineLost n { u with lines := L }) n c d .partialLineLost (if c.firstVerdict then .neutral else .failed) ∧
    OtherLines u (lineLost n { u with lines := L }) n ∧
    lineAt (lineLost n { u with lines := L }) n = (lineAt u n).releases u.clock.run .release ∧
    (lineLost n { u with lines := L }).fwd.view = u.fwd.view := by
  obtain ⟨call, line, chan, others⟩ := h
  have course : lineLost n { u with lines := L } = endReceiving n .lost true { u with lines := L } := by
    unfold lineLost inReceiving
    rw [rxOf_receiver call, chan, receiving]
    rfl
  obtain ⟨ended, apart, own, view⟩ := endReceiving_ended .lost true call (fits.of_lines L)
  rw [course]
  exact ⟨ended.of_lines, fun m hm => (apart m hm).trans (others m hm), own.trans line, view⟩

theorem lineLost_sender {u : State} {L : Vector Line 16} {n : LineNo} {w : Option Wait} {x : TxCall}
    (h : Unwaited u L n w (.sender x)) (sending : sendingChan (lineAt u n).chan = true) :
    TxEnded u (lineLost n { u with lines := L }) n x .lineLost
      (if connectedChan (lineAt u n).chan && !x.verdictReceived then .failed else .neutral) ∧
    OtherLines u (lineLost n { u with lines := L }) n ∧
    lineAt (lineLost n { u with lines := L }) n = (lineAt u n).releases u.clock.run .release ∧
    (lineLost n { u with lines := L }).fwd.view = u.fwd.view := by
  obtain ⟨call, line, chan, others⟩ := h
  have course : lineLost n { u with lines := L } = endAttempt n .lineLost .lost true { u with lines := L } := by
    unfold lineLost inReceiving inSending
    rw [rxOf_sender call, txOf_sender call, chan, sending]
    rfl
  obtain ⟨ended, apart, own⟩ := endAttempt_spec call .lineLost .lost true
  rw [chan] at ended
  rw [course]
  refine ⟨ended.of_lines, fun m hm => (apart m hm).trans (others m hm), own.trans line, ?_⟩
  unfold endAttempt
  rw [txOf_sender call]
  rfl

/-- CARRIER_LOST or the expiry of a wait for the remote loses the call (R90, R95), which run time has reached (log entry 5). -/
theorem exec_lost {s u : State} {n : LineNo} {ev : Instr} {w : Option Wait} {part : CallPart} (hears : Hears s n)
    (call : (lineAt s n).call = some ⟨w, part⟩)
    (loses : (ev = .carrierLost n ∧ u = s) ∨
        (∃ e k, w = some ⟨k, e⟩ ∧ u = advanceTo e s ∧
          ((ev = .receiverSignalWaitExpiry n ∧ k = .receiverSignal) ∨ (ev = .pageWaitExpiry n ∧ k = .page) ∨
            (ev = .dialWaitExpiry n ∧ k = .dial) ∨ (ev = .senderWaitExpiry n ∧ k = .sender)))) :
    u.lines = s.lines ∧ u.fwd.view = s.fwd.view ∧ (∀ c d, RxFits s n c d → RxFits u n c d) ∧
    ∃ L v, Unwaited u L n v part ∧ exec ev s = .next (lineLost n { u with lines := L }) := by
  rcases loses with ⟨rfl, rfl⟩ | ⟨e, k, rfl, rfl, kinds⟩
  · refine ⟨rfl, rfl, fun _ _ fits => fits, u.lines, w, ⟨call, rfl, rfl, fun _ _ => rfl⟩, ?_⟩
    show execCarrierLost n u = _
    unfold execCarrierLost
    rw [if_pos (takesEvents_of_hears hears)]
  · refine ⟨rfl, rfl, fun c d fits => ⟨fits.document, fits.record, fits.account, fits.plan⟩, (setWait n none (advanceTo e s)).lines, none,
      setWait_unwaited call, ?_⟩
    have expires := expireWait_running call
    rcases kinds with ⟨rfl, rfl⟩ | ⟨rfl, rfl⟩ | ⟨rfl, rfl⟩ | ⟨rfl, rfl⟩
    · show execReceiverSignalWaitExpiry n s = _
      unfold execReceiverSignalWaitExpiry; rw [expires]; rfl
    · show execPageWaitExpiry n s = _
      unfold execPageWaitExpiry; rw [expires]; rfl
    · show execDialWaitExpiry n s = _
      unfold execDialWaitExpiry; rw [expires]; rfl
    · show execSenderWaitExpiry n s = _
      unfold execSenderWaitExpiry; rw [expires]; rfl

/-! ## RELEASED -/

/-- A line with no call in progress hears of no loss (R90, R95). -/
theorem lineLost_quiet {s : State} {n : LineNo} (receiving : receivingChan (lineAt s n).chan = false)
    (sending : sendingChan (lineAt s n).chan = false) : lineLost n s = s := by
  unfold lineLost inReceiving inSending
  rw [receiving, sending]
  simp

theorem execReleased_eq {s : State} {n : LineNo} (hears : Hears s n) (busy : (lineAt s n).chan ≠ .idle)
    (passed : (lineAt s n).chan ≠ .alerted) : exec (.released n) s = .next (
      if inReceiving (lineAt s n) then returnToIdle n (endReceiving n .lost false s)
      else if inSending (lineAt s n) then returnToIdle n (endAttempt n .lineLost .lost false s)
      else returnToIdle n s) := by
  show execReleased n s = _
  unfold execReleased
  rw [if_pos (takesEvents_of_hears hears), if_neg busy, if_neg passed]

theorem busy_of_receivingChan {c : Chan} (h : receivingChan c = true) : c ≠ .idle ∧ c ≠ .alerted := by
  refine ⟨?_, ?_⟩ <;> rintro rfl <;> cases h

theorem busy_of_sendingChan {c : Chan} (h : sendingChan c = true) : c ≠ .idle ∧ c ≠ .alerted := by
  refine ⟨?_, ?_⟩ <;> rintro rfl <;> cases h

/-- A call that has ended with its line as it was leaves that line IDLE at the run time of the event. -/
theorem Idled.behind {s t v : State} {n : LineNo} (idle : Idled t v n) (line : lineAt t n = lineAt s n) (others : OtherLines s t n)
    (clock : t.clock = s.clock) (view : t.fwd.view = s.fwd.view) :
    OtherLines s v n ∧ lineAt v n = (lineAt s n).idles s.clock.run ∧ ToldRun s v n := by
  obtain ⟨own, apart, ⟨entry, views, owed⟩, -, -⟩ := idle
  rw [line, clock] at own
  exact ⟨fun m hm => (apart m hm).trans (others m hm), own, entry, fun m hm => by rw [views m hm, view], owed⟩

theorem released_receiver {s : State} {n : LineNo} {w : Option Wait} {c : RxCall} {d : Document} (hears : Hears s n)
    (call : (lineAt s n).call = some ⟨w, .receiver c⟩) (receiving : receivingChan (lineAt s n).chan = true) (fits : RxFits s n c d) :
    ∃ t, exec (.released n) s = .next t ∧
      RxEnded s t n c d .partialLineLost (if c.firstVerdict then .neutral else .failed) ∧
      OtherLines s t n ∧ lineAt t n = (lineAt s n).idles s.clock.run ∧ ToldRun s t n := by
  obtain ⟨busy, passed⟩ := busy_of_receivingChan receiving
  have inside : inReceiving (lineAt s n) = true := by unfold inReceiving; rw [rxOf_receiver call, receiving]; rfl
  obtain ⟨ended, others, line, view⟩ := endReceiving_ended .lost false call fits
  refine ⟨_, by rw [execReleased_eq hears busy passed, if_pos inside], ?_, ?_⟩
  · exact ended.idled (returnToIdle_idled n _)
  · exact (returnToIdle_idled n _).behind line others (by rw [ended.frame]) view

theorem released_sender {s : State} {n : LineNo} {w : Option Wait} {x : TxCall} (hears : Hears s n)
    (call : (lineAt s n).call = some ⟨w, .sender x⟩) (sending : sendingChan (lineAt s n).chan = true) :
    ∃ t, exec (.released n) s = .next t ∧
      TxEnded s t n x .lineLost (if connectedChan (lineAt s n).chan && !x.verdictReceived then .failed else .neutral) ∧
      OtherLines s t n ∧ lineAt t n = (lineAt s n).idles s.clock.run ∧ ToldRun s t n := by
  obtain ⟨busy, passed⟩ := busy_of_sendingChan sending
  have outside : ¬ inReceiving (lineAt s n) = true := by unfold inReceiving; rw [rxOf_sender call]; simp
  have inside : inSending (lineAt s n) = true := by unfold inSending; rw [txOf_sender call, sending]; rfl
  obtain ⟨ended, others, line⟩ := endAttempt_spec call .lineLost .lost false
  have view : (endAttempt n .lineLost .lost false s).fwd.view = s.fwd.view := by
    unfold endAttempt
    rw [txOf_sender call]
    rfl
  refine ⟨_, by rw [execReleased_eq hears busy passed, if_neg outside, if_pos inside], ?_, ?_⟩
  · exact ended.idled (returnToIdle_idled n _)
  · exact (returnToIdle_idled n _).behind line others (by rw [ended.frame]) view

/-- RELEASED in RELEASING returns the channel to IDLE (R92). -/
theorem released_releasing {s : State} {n : LineNo} (hears : Hears s n) (chan : (lineAt s n).chan = .releasing) :
    ∃ t, exec (.released n) s = .next t ∧ Idled s t n := by
  refine ⟨returnToIdle n s, ?_, returnToIdle_idled n s⟩
  rw [execReleased_eq hears (by rw [chan]; nofun) (by rw [chan]; nofun)]
  unfold inReceiving inSending
  rw [chan]
  simp [receivingChan, sendingChan]

/-- A wait that does not run does not expire (R71). -/
theorem exec_no_expiry {s : State} {n : LineNo} {ev : Instr} {k : WaitKind}
    (expires : (ev = .receiverSignalWaitExpiry n ∧ k = .receiverSignal) ∨ (ev = .pageWaitExpiry n ∧ k = .page) ∨
      (ev = .releaseWaitExpiry n ∧ k = .release) ∨ (ev = .dialWaitExpiry n ∧ k = .dial) ∨
      (ev = .senderWaitExpiry n ∧ k = .sender) ∨ (ev = .digitWindowExpiry n ∧ k = .digitWindow))
    (other : ∀ x e, (lineAt s n).call = some x → x.wait = some e → e.kind ≠ k) : exec ev s = .next s := by
  have idle := expireWait_idle other
  rcases expires with ⟨rfl, rfl⟩ | ⟨rfl, rfl⟩ | ⟨rfl, rfl⟩ | ⟨rfl, rfl⟩ | ⟨rfl, rfl⟩ | ⟨rfl, rfl⟩
  · show execReceiverSignalWaitExpiry n s = _
    unfold execReceiverSignalWaitExpiry; rw [idle]
  · show execPageWaitExpiry n s = _
    unfold execPageWaitExpiry; rw [idle]
  · show execReleaseWaitExpiry n s = _
    unfold execReleaseWaitExpiry; rw [idle]
  · show execDialWaitExpiry n s = _
    unfold execDialWaitExpiry; rw [idle]
  · show execSenderWaitExpiry n s = _
    unfold execSenderWaitExpiry; rw [idle]
  · show execDigitWindowExpiry n s = _
    unfold execDigitWindowExpiry; rw [idle]

/-- Settles O59: each loss is the end of its call, from the state the event finds. -/
theorem lossesEndTheCall : Obligations.LossesEndTheCall := by
  intro s n hears
  refine ⟨fun ev k expires other => exec_no_expiry expires other, fun idle => ?_, fun quiet => ?_, fun chan => ?_,
    fun ev u w part call loses => ?_⟩
  · show execReleased n s = _
    unfold execReleased
    rw [if_pos (takesEvents_of_hears hears), if_pos idle]
  · show execCarrierLost n s = _
    unfold execCarrierLost
    rw [if_pos (takesEvents_of_hears hears), lineLost_quiet]
    · rcases quiet with chan | chan | chan <;> rw [chan] <;> rfl
    · rcases quiet with chan | chan | chan <;> rw [chan] <;> rfl
  · obtain ⟨t, e, line, others, told, marked, frame⟩ := released_releasing hears chan
    exact ⟨t, e, line, others, told, marked, frame⟩
  · by_cases released : ev = .released n
    case pos =>
      have same : u = s := by
        rcases loses with ⟨carrier, -⟩ | ⟨-, same⟩ | ⟨e, k, -, -, kinds⟩
        · rw [released] at carrier; cases carrier
        · exact same
        · rw [released] at kinds; simp at kinds
      subst same released
      refine ⟨fun c d receiver receiving fits => ?_, fun x sender sending => ?_⟩
      · subst receiver
        obtain ⟨t, e, ended, others, line, told⟩ := released_receiver hears call receiving fits
        exact ⟨t, e, ended, others, fun other => absurd rfl other, fun _ => ⟨line, told⟩⟩
      · subst sender
        obtain ⟨t, e, ended, others, line, told⟩ := released_sender hears call sending
        exact ⟨t, e, ended, others, fun other => absurd rfl other, fun _ => ⟨line, told⟩⟩
    case neg =>
      obtain ⟨lines, view, fit, L, v, unwaited, e⟩ := exec_lost hears call (u := u) (by
        rcases loses with carrier | ⟨is, -⟩ | expiry
        · exact .inl carrier
        · exact absurd is released
        · exact .inr expiry)
      have line (m : LineNo) : lineAt u m = lineAt s m := lineAt_of_lines lines m
      refine ⟨fun c d receiver receiving fits => ⟨_, e, ?_⟩, fun x sender sending => ⟨_, e, ?_⟩⟩
      · subst receiver
        obtain ⟨ended, others, own, same⟩ := lineLost_receiver unwaited (by rw [line]; exact receiving) (fit c d fits)
        rw [line] at own
        exact ⟨ended, fun m hm => (others m hm).trans (line m), fun _ => ⟨own, same.trans view⟩, fun is => absurd is released⟩
      · subst sender
        obtain ⟨ended, others, own, same⟩ := lineLost_sender unwaited (by rw [line]; exact sending)
        rw [line] at ended own
        exact ⟨ended, fun m hm => (others m hm).trans (line m), fun _ => ⟨own, same.trans view⟩, fun is => absurd is released⟩

end Sys2Proof.Machine
end

section
/-! COMMAND_ACK on a line that takes it: the oldest command is complete, and the channel goes on (R72, R74, R128, R131). -/

namespace Sys2Proof.Machine

open Sys2Proof

/-! ## Every other line stands -/

theorem OtherLines.trans {s t u : State} {n : LineNo} (h : OtherLines s t n) (k : OtherLines t u n) : OtherLines s u n :=
  fun m hm => (k m hm).trans (h m hm)

theorem otherLines_of_lines {s t : State} (n : LineNo) (h : t.lines = s.lines) : OtherLines s t n := fun m _ => lineAt_of_lines h m

theorem otherLines_modLine (n : LineNo) (f : Line → Line) (s : State) : OtherLines s (modLine n f s) n :=
  fun _ hm => lineAt_modLine_ne hm f s

theorem otherLines_endReceiving (n : LineNo) (e : RxEnd) (s : State) : OtherLines s (endReceiving n e true s) n := by
  cases rx : rxOf (lineAt s n) with
  | none => unfold endReceiving; rw [rx]; exact fun _ _ => rfl
  | some c =>
    have lines := endReceiving_lines (e := e) rx
    rw [releaseWith_eq] at lines
    exact (otherLines_modLine n _ s).trans (otherLines_of_lines n lines)

theorem otherLines_endAttempt (n : LineNo) (o : AttemptOutcome) (cause : TxCause) (s : State) :
    OtherLines s (endAttempt n o cause true s) n := by
  unfold endAttempt
  split
  · exact fun _ _ => rfl
  · rw [if_pos rfl, releaseWith_eq]
    exact otherLines_modLine n (fun l => l.releases s.clock.run .release) s

theorem otherLines_awaitPage (n : LineNo) (s : State) : OtherLines s (awaitPage n s) n :=
  (otherLines_modLine n (fun l => { l with chan := .receiving }) s).trans (otherLines_modLine n _ _)

theorem otherLines_sendNext (n : LineNo) (s : State) : OtherLines s (sendNext n s) n := by
  unfold sendNext
  split
  · exact fun _ _ => rfl
  · rename_i t _
    split
    · exact fun _ _ => rfl
    · rename_i p pages _
      split
      · have lines := readSpan_lines (.send n) t.document p t.offset portBytes s
        generalize readSpan (.send n) t.document p t.offset portBytes s = q at lines
        obtain ⟨u, data⟩ := q
        have read : OtherLines s u n := otherLines_of_lines n lines
        cases data with
        | none => exact read.trans (otherLines_endAttempt n .damaged .outcome u)
        | some bytes => exact read.trans ((otherLines_modLine n _ u).trans (otherLines_modLine n _ _))
      · exact otherLines_modLine n _ s

theorem otherLines_pageLimit (n : LineNo) (doc : Nat) (s : State) : OtherLines s (pageLimit n doc s) n := by
  unfold pageLimit
  split
  · exact otherLines_endReceiving n .pageLimit s
  · split
    · rename_i u b made
      have lines : u.lines = s.lines := continueDoc_lines doc s (u, b) made
      exact (otherLines_of_lines n lines).trans ((otherLines_modLine n _ u).trans (otherLines_awaitPage n _))
    · exact otherLines_endReceiving n .directoryFull s

theorem otherLines_afterVerdict (n : LineNo) (c : RxCall) (s : State) : OtherLines s (afterVerdict n c s) n := by
  unfold afterVerdict
  split
  · split
    · exact otherLines_endReceiving n .storeFull s
    · split
      · exact otherLines_endReceiving n .thirdReject s
      · exact otherLines_awaitPage n s
  · split
    · exact otherLines_endReceiving n .lastPage s
    · split
      · split
        · exact otherLines_pageLimit n _ s
        · exact otherLines_awaitPage n s
      · exact otherLines_awaitPage n s

theorem otherLines_afterAck (n : LineNo) (c : PortCommand) (s : State) : OtherLines s (afterAck n c s) n := by
  unfold afterAck
  split
  · exact (otherLines_modLine n (fun l => { l with chan := .dialling }) s).trans (otherLines_modLine n _ _)
  · exact otherLines_sendNext n s
  · exact (otherLines_modLine n (fun l => { l with chan := .awaitingVerdict }) s).trans (otherLines_modLine n _ _)
  · exact otherLines_afterVerdict n _ s
  · exact fun _ _ => rfl

/-! ## The event -/

/-- The oldest command of line n is complete, and the others wait on. -/
def completed (n : LineNo) (rest : List AckWait) (s : State) : State := modLine n (fun l => { l with acks := rest }) s

theorem lineAt_completed (n : LineNo) (rest : List AckWait) (s : State) :
    lineAt (completed n rest s) n = { lineAt s n with acks := rest } := lineAt_modLine_self n _ s

theorem otherLines_completed (n : LineNo) (rest : List AckWait) (s : State) : OtherLines s (completed n rest s) n :=
  otherLines_modLine n _ s

theorem commandAck_abandoned (s : State) (n : LineNo) : exec (.commandAck n .abandoned) s = .next s := by
  show execCommandAck n .abandoned s = _
  unfold execCommandAck
  split
  · rfl
  · cases (lineAt s n).reset <;> rfl

theorem commandAck_fault {s : State} {n : LineNo} (fault : (lineAt s n).service = .fault) (a : Acked) :
    exec (.commandAck n a) s = .next s := by
  show execCommandAck n a s = _
  unfold execCommandAck
  rw [if_pos fault]

theorem commandAck_completes {s : State} {n : LineNo} {a : AckWait} {rest : List AckWait} (service : (lineAt s n).service ≠ .fault)
    (reset : (lineAt s n).reset = .none) (acks : (lineAt s n).acks = a :: rest)
    (last : ∀ x ∈ rest, sameKind x.command a.command = false) :
    exec (.commandAck n .other) s = .next (afterAck n a.command (completed n rest s)) := by
  have none : ¬ rest.any (fun x => sameKind x.command a.command) = true := by
    rw [List.any_eq_true]
    rintro ⟨x, member, same⟩
    exact absurd (last x member) (by rw [same]; nofun)
  show execCommandAck n .other s = _
  unfold execCommandAck
  rw [if_neg service, reset]
  dsimp only
  unfold completeCommand
  rw [acks]
  dsimp only
  rw [if_neg none]
  rfl

/-! ## A front-end reset -/

theorem commandAck_reset {s : State} {n : LineNo} (service : (lineAt s n).service ≠ .fault) (reset : (lineAt s n).reset = .awaitReset) :
    exec (.commandAck n .other) s = .next s ∧ exec (.commandAck n .reset) s = .next (afterReset n s) := by
  constructor
  · show execCommandAck n .other s = _
    unfold execCommandAck; rw [if_neg service, reset]
  · show execCommandAck n .reset s = _
    unfold execCommandAck; rw [if_neg service, reset]

theorem commandAck_present {s : State} {n : LineNo} (service : (lineAt s n).service ≠ .fault)
    (reset : (lineAt s n).reset = .awaitPresent) :
    exec (.commandAck n .reset) s = .next s ∧ exec (.commandAck n .other) s = .next (endReset n s) := by
  constructor
  · show execCommandAck n .reset s = _
    unfold execCommandAck; rw [if_neg service, reset]
  · show execCommandAck n .other s = _
    unfold execCommandAck; rw [if_neg service, reset]

theorem commandAck_unasked {s : State} {n : LineNo} (service : (lineAt s n).service ≠ .fault) (reset : (lineAt s n).reset = .none) :
    exec (.commandAck n .reset) s = .next s ∧ ((lineAt s n).acks = [] → exec (.commandAck n .other) s = .next s) := by
  refine ⟨?_, fun none => ?_⟩
  · show execCommandAck n .reset s = _
    unfold execCommandAck; rw [if_neg service, reset]
  · show execCommandAck n .other s = _
    unfold execCommandAck; rw [if_neg service, reset]
    dsimp only
    unfold completeCommand
    rw [none]

theorem presentOf_eq {v : Service} (working : v ≠ .fault) : presentOf v = if v = .inService then .presentIdle else .presentBusy := by
  cases v with
  | fault => exact absurd rfl working
  | inService => rfl
  | busyOut => rfl

theorem lineAt_afterReset {s : State} {n : LineNo} (service : (lineAt s n).service ≠ .fault) :
    lineAt (afterReset n s) n = { lineAt s n with
      acks := [⟨if (lineAt s n).service = .inService then .presentIdle else .presentBusy, s.clock.run + 500⟩]
      reset := .awaitPresent } := by
  unfold afterReset
  rw [presentOf_eq service, sendCmd_eq, lineAt_modLine_self, lineAt_modLine_self]
  rfl

/-- The PRESENT command's acknowledgment returns the channel to IDLE and marks its line (R74, R98). -/
theorem endReset_ends (n : LineNo) (s : State) :
    lineAt (endReset n s) n = Line.idles { lineAt s n with acks := [] } s.clock.run ∧ OtherLines s (endReset n s) n ∧
    ToldRun s (endReset n s) n ∧ Marked s (endReset n s) (fun x => x = .line n) ∧
    endReset n s = { s with
      lines := (endReset n s).lines, fwd := { s.fwd with view := (endReset n s).fwd.view, runOwed := true }
      link := { s.link with notices := (endReset n s).link.notices } } := by
  obtain ⟨line, others, ⟨entry, views, owed⟩, marked, frame⟩ := returnToIdle_idled n (completed n [] s)
  rw [lineAt_completed] at line
  rw [show endReset n s = mark (.line n) (returnToIdle n (completed n [] s)) from rfl]
  generalize returnToIdle n (completed n [] s) = t at *
  have last := (marked.of_link (s' := s) rfl rfl rfl).trans (mark_marked (.line n) t) (by rw [frame]; rfl)
  refine ⟨line, (otherLines_completed n [] s).trans others, ⟨entry, views, owed⟩, last.congr (by tauto), ?_⟩
  show { t with link := _ } = _
  rw [frame]
  rfl

/-! ## Dialling, and the end of a page's data -/

theorem afterAck_dial {s : State} {n : LineNo} {digits : Text} (chan : (lineAt s n).chan = .seized) :
    afterAck n (.dial digits) s = startWait n .dial 60000 (setChan n .dialling s) := by
  unfold afterAck
  rw [chan]
  rfl

theorem afterAck_pageEndMark {s : State} {n : LineNo} {b : Bool} (chan : (lineAt s n).chan = .sending) :
    afterAck n (.pageEndMark b) s = startWait n .sender 6000 (setChan n .awaitingVerdict s) := by
  unfold afterAck
  rw [chan]
  rfl

theorem afterAck_sendPageData {s : State} {n : LineNo} {x : List Byte} (chan : (lineAt s n).chan = .sending) :
    afterAck n (.sendPageData x) s = sendNext n s := by
  unfold afterAck
  rw [chan]

theorem afterAck_sendVerdict {s : State} {n : LineNo} {v : Verdict} {w : Option Wait} {c : RxCall}
    (chan : (lineAt s n).chan = .verdict) (call : (lineAt s n).call = some ⟨w, .receiver c⟩) :
    afterAck n (.sendVerdict v) s = afterVerdict n c s := by
  unfold afterAck
  rw [chan, rxOf_receiver call]

theorem afterAck_other {s : State} {n : LineNo} {c : PortCommand} (verdict : ∀ v, c ≠ .sendVerdict v) (data : ∀ x, c ≠ .sendPageData x)
    (dial : ∀ x, c ≠ .dial x) (mark : ∀ b, c ≠ .pageEndMark b) : afterAck n c s = s := by
  unfold afterAck
  split
  · exact absurd rfl (dial _)
  · exact absurd rfl (data _)
  · exact absurd rfl (mark _)
  · exact absurd rfl (verdict _)
  · rfl

theorem lineAt_startWait_setChan (n : LineNo) (k : WaitKind) (ms : Nat) (chan : Chan) (s : State) :
    lineAt (startWait n k ms (setChan n chan s)) n = { lineAt s n with
      chan := chan, call := (lineAt s n).call.map (fun x => { x with wait := some ⟨k, s.clock.run + ms⟩ }) } := by
  unfold startWait setWait setChan
  rw [lineAt_modLine_self, lineAt_modLine_self]
  rfl

end Sys2Proof.Machine
end

section
/-! A page that is sent, piece by piece (R131, R132). -/

namespace Sys2Proof.Machine

open Sys2Proof

/-! ## Reads beside the lines -/

theorem writeEntry_beside (content : JournalContent) (L : Vector Line 16) (s : State) :
    writeEntry content { s with lines := L } = { writeEntry content s with lines := L } := by
  rw [writeEntry_eq, writeEntry_eq]
  dsimp only
  by_cases high : s.journal.unreleased = 8127
  · rw [if_pos high, if_pos high]; rfl
  · rw [if_neg high, if_neg high]

theorem append_beside (content : JournalContent) (L : Vector Line 16) (s : State) :
    append content { s with lines := L } = ({ (append content s).1 with lines := L }, (append content s).2) := by
  unfold append
  rw [writeEntry_beside, show ({ s with lines := L } : State).journal = s.journal from rfl]
  split <;> rfl

/-- A read does not see the lines. -/
theorem readSpan_beside (reader : Reader) (doc : Nat) (pg : Page) (off size : Nat) (L : Vector Line 16) (s : State) :
    readSpan reader doc pg off size { s with lines := L } =
      ({ (readSpan reader doc pg off size s).1 with lines := L }, (readSpan reader doc pg off size s).2) := by
  unfold readSpan
  dsimp only
  cases pg.blocks[off / blockBytes]? with
  | none => rfl
  | some b =>
    dsimp only
    split
    · rfl
    · split
      · split
        · have written := append_beside (.damage doc pg.number b) L
            (markDamaged doc pg.number { s with integrity.health := setHealth s.integrity.health b (healthOf s.integrity.health b).failed })
          rw [show markDamaged doc pg.number { s with
              lines := L, integrity.health := setHealth s.integrity.health b (healthOf s.integrity.health b).failed } =
            { markDamaged doc pg.number { s with
              integrity.health := setHealth s.integrity.health b (healthOf s.integrity.health b).failed } with lines := L } from rfl,
            written]
          rfl
        · rfl
      · rfl

theorem readSpan_fwd (reader : Reader) (doc : Nat) (pg : Page) (off size : Nat) (s : State) :
    (readSpan reader doc pg off size s).1.fwd = s.fwd := by
  unfold readSpan
  dsimp only
  cases pg.blocks[off / blockBytes]? with
  | none => rfl
  | some b =>
    dsimp only
    split
    · rfl
    · split
      · split
        · rw [appendRecord_frame, append_frame]; rfl
        · rfl
      · rfl

/-! ## The next command of a send -/

section
variable {s : State} {n : LineNo} {w : Option Wait} {u : TxCall} {d : Document} {p : Page}

theorem sendNext_past (call : (lineAt s n).call = some ⟨w, .sender u⟩) (found : findDoc s u.document = some d)
    (page : d.pages[u.page - 1]? = some p) (past : p.length ≤ u.offset) :
    sendNext n s = sendCmd n (.pageEndMark (decide (d.pages.length ≤ u.page))) s := by
  unfold sendNext txPage pageOf
  rw [txOf_sender call]
  dsimp only
  rw [found]
  dsimp only [Option.bind]
  rw [page]
  dsimp only [Option.map]
  rw [if_neg (Nat.not_lt.2 past)]

theorem sendNext_reads (call : (lineAt s n).call = some ⟨w, .sender u⟩) (found : findDoc s u.document = some d)
    (page : d.pages[u.page - 1]? = some p) (more : u.offset < p.length) {y : State} {data : Option (List Byte)}
    (read : readSpan (.send n) u.document p u.offset 256 s = (y, data)) : sendNext n s = match data with
      | none => endAttempt n .damaged .outcome true y
      | some bytes => sendCmd n (.sendPageData bytes) (modTx n (fun x => { x with offset := x.offset + 256 }) y) := by
  have read : readSpan (.send n) u.document p u.offset portBytes s = (y, data) := read
  unfold sendNext txPage pageOf
  rw [txOf_sender call]
  dsimp only
  rw [found]
  dsimp only [Option.bind]
  rw [page]
  dsimp only [Option.map]
  rw [if_pos more, read]
  cases data <;> rfl

theorem lineAt_sendsPiece (call : (lineAt s n).call = some ⟨w, .sender u⟩) (data : List Byte) :
    lineAt (sendCmd n (.sendPageData data) (modTx n (fun x => { x with offset := x.offset + 256 }) s)) n =
      { (lineAt s n).sends s.clock.run (.sendPageData data) with call := some ⟨w, .sender { u with offset := u.offset + 256 }⟩ } := by
  rw [sendCmd_eq, lineAt_modLine_self]
  unfold modTx
  rw [lineAt_modLine_self, call]
  rfl

end

/-! ## The acknowledgment of a piece -/

section
variable {s : State} {n : LineNo} {rest : List AckWait} {w : Option Wait} {u : TxCall} {d : Document} {p : Page}

theorem call_completed {k : Call} (call : (lineAt s n).call = some k) : (lineAt (completed n rest s) n).call = some k := by
  rw [lineAt_completed]; exact call

theorem read_completed {y : State} {data : Option (List Byte)}
    (read : readSpan (.send n) u.document p u.offset 256 s = (y, data)) :
    readSpan (.send n) u.document p u.offset 256 (completed n rest s) = ({ y with lines := (completed n rest s).lines }, data) := by
  have := readSpan_beside (.send n) u.document p u.offset 256 (completed n rest s).lines s
  rw [read] at this
  exact this

/-- The next piece is sent when the last is acknowledged (R131). -/
theorem piece_sent {y : State} {data : List Byte} (call : (lineAt s n).call = some ⟨w, .sender u⟩)
    (found : findDoc s u.document = some d) (page : d.pages[u.page - 1]? = some p) (more : u.offset < p.length)
    (read : readSpan (.send n) u.document p u.offset 256 s = (y, some data)) :
    sendNext n (completed n rest s) = { y with lines := (sendNext n (completed n rest s)).lines } ∧
    lineAt (sendNext n (completed n rest s)) n = { Line.sends { lineAt s n with acks := rest } s.clock.run (.sendPageData data) with
      call := some ⟨w, .sender { u with offset := u.offset + 256 }⟩ } := by
  have call := call_completed (rest := rest) call
  rw [sendNext_reads call (found : findDoc (completed n rest s) _ = _) page more (read_completed read)]
  have clock : y.clock = s.clock := (readSpan_some read).2
  refine ⟨rfl, (lineAt_sendsPiece (s := { y with lines := (completed n rest s).lines }) call data).trans ?_⟩
  rw [← lineAt_completed, ← clock]
  rfl

/-- An UNCORRECTABLE read ends the attempt (R132). -/
theorem piece_damaged {y : State} (call : (lineAt s n).call = some ⟨w, .sender u⟩)
    (found : findDoc s u.document = some d) (page : d.pages[u.page - 1]? = some p) (more : u.offset < p.length)
    (read : readSpan (.send n) u.document p u.offset 256 s = (y, none)) :
    TxEnded y (sendNext n (completed n rest s)) n u .damaged .neutral ∧
    lineAt (sendNext n (completed n rest s)) n = Line.releases { lineAt s n with acks := rest } s.clock.run .release ∧
    (sendNext n (completed n rest s)).fwd.view = s.fwd.view := by
  have call := call_completed (rest := rest) call
  rw [sendNext_reads call (found : findDoc (completed n rest s) _ = _) page more (read_completed read)]
  have clock : y.clock = s.clock := (readSpan_none read).2
  have fwd : y.fwd = s.fwd := by
    have := readSpan_fwd (.send n) u.document p u.offset 256 s
    rwa [read] at this
  obtain ⟨ended, -, line⟩ := endAttempt_spec (s := { y with lines := (completed n rest s).lines }) call .damaged .outcome true
  refine ⟨ended.of_lines, line.trans ?_, ?_⟩
  · rw [if_pos rfl, ← lineAt_completed]
    show (lineAt (completed n rest s) n).releases y.clock.run .release = _
    rw [clock]
  · dsimp only
    unfold endAttempt
    rw [txOf_sender (l := lineAt { y with lines := (completed n rest s).lines } n) call]
    show y.fwd.view = _
    rw [fwd]

/-- PAGE-END-MARK follows the last piece (R131). -/
theorem page_ended (call : (lineAt s n).call = some ⟨w, .sender u⟩) (found : findDoc s u.document = some d) (first : 1 ≤ u.page)
    (page : d.pages[u.page - 1]? = some p) (past : p.length ≤ u.offset) :
    sendNext n (completed n rest s) = { s with lines := (sendNext n (completed n rest s)).lines } ∧
    lineAt (sendNext n (completed n rest s)) n =
      Line.sends { lineAt s n with acks := rest } s.clock.run (.pageEndMark (decide (u.page = d.pages.length))) := by
  have within := (List.getElem?_eq_some_iff.1 page).1
  have last : decide (d.pages.length ≤ u.page) = decide (u.page = d.pages.length) := decide_eq_decide.2 (by omega)
  rw [sendNext_past (call_completed (rest := rest) call) (found : findDoc (completed n rest s) _ = _) page past, last]
  refine ⟨rfl, ?_⟩
  rw [sendCmd_eq, lineAt_modLine_self, lineAt_completed]
  rfl

end

end Sys2Proof.Machine
end

section
/-! What follows the acknowledgment of SEND-VERDICT: the next page, the end of the call, or its continuation (R47, R48, R87 to R89). -/

namespace Sys2Proof.Machine

open Sys2Proof

/-! ## The continuation of a document -/

/-- The document in which a call goes on behind document d (R47). -/
def continuation (b : Nat) (d : Document) : Document :=
  { newDocument b ⟨d.dept, d.routeKey, d.plan, d.priority⟩ d.line d.called d.calling d.answerTime with
    remoteId := d.remoteId, continuationOf := some d.number }

/-- The directory with the continuation b of document d, which then lands. -/
def continuedIn (b : Nat) (d : Document) (s : State) : State :=
  modDoc d.number (fun e => { e with continuedBy := some b }) (addDoc (continuation b d) s)

theorem continueDoc_slot {s u : State} {b : Nat} {d : Document} (found : findDoc s d.number = some d) (slot : takeSlot s = some (u, b)) :
    continueDoc d.number s = some (landDocument d.number .continued (continuedIn b d u), b) := by
  unfold continueDoc
  rw [found]
  dsimp only
  rw [slot]
  rfl

theorem continueDoc_noSlot {s : State} {d : Document} (found : findDoc s d.number = some d) (slot : takeSlot s = none) :
    continueDoc d.number s = none := by
  unfold continueDoc
  rw [found]
  dsimp only
  rw [slot]
  rfl

theorem findDoc_addDoc (x : Document) (s : State) (m : Nat) :
    findDoc (addDoc x s) m = (findDoc s m).or (if x.number = m then some x else none) := by
  unfold findDoc addDoc
  rw [List.find?_append, List.find?_singleton]
  congr 1
  by_cases here : x.number = m
  · rw [if_pos here, if_pos (decide_eq_true here)]
  · rw [if_neg here, if_neg (by simpa using here)]

/-- Both records as the continuation begins. -/
theorem findDoc_continuedIn {s : State} {b : Nat} {d : Document} (found : findDoc s d.number = some d) (free : findDoc s b = none) :
    findDoc (continuedIn b d s) d.number = some { d with continuedBy := some b } ∧
    findDoc (continuedIn b d s) b = some (continuation b d) := by
  have apart : b ≠ d.number := by
    rintro rfl
    rw [free] at found
    cases found
  constructor
  · refine findDoc_modDoc_self ?_ (fun _ => rfl)
    rw [findDoc_addDoc, found]
    rfl
  · refine (findDoc_modDoc d.number b (fun e => { e with continuedBy := some b }) (fun _ => rfl) _).trans ?_
    rw [if_neg apart, findDoc_addDoc, free, if_pos (show (continuation b d).number = b from rfl)]
    rfl

/-- The call goes on in document b, and its document before has landed (R47). -/
structure Continued (s t : State) (d : Document) (b : Nat) : Prop where
  next : t.dir.nextNumber = b + 1
  fresh : findDoc t b = some (continuation b d)
  landed : ∃ y, findDoc t d.number = some y ∧ y.continuedBy = some b ∧ y.outcome = some .continued ∧ y.partialFlag = false ∧
    y.pages = d.pages ∧ y.completionTime = some s.clock.cal
  lines : t.lines = s.lines
  clock : t.clock = s.clock

theorem continueDoc_continued {s : State} {d : Document} (fits : Filable s d) (full : d.pages ≠ [])
    (numbers : s.dir.nextNumber ≤ 4294967295) (room : s.dir.docs.length < 4096) (free : findDoc s s.dir.nextNumber = none) :
    ∃ t, continueDoc d.number s = some (t, s.dir.nextNumber) ∧ Continued s t d s.dir.nextNumber := by
  refine ⟨_, continueDoc_slot fits.record (takeSlot_free numbers room), ?_⟩
  generalize hb : s.dir.nextNumber = b at *
  obtain ⟨found, plan⟩ := fits
  obtain ⟨record, newcomer⟩ :=
    findDoc_continuedIn (s := { s with dir := { s.dir with nextNumber := b + 1 } }) found free
  have apart : b ≠ d.number := by
    rintro rfl
    rw [free] at found
    cases found
  have next : (continuedIn b d { s with dir := { s.dir with nextNumber := b + 1 } }).dir.nextNumber = b + 1 := rfl
  have lines : (continuedIn b d { s with dir := { s.dir with nextNumber := b + 1 } }).lines = s.lines := rfl
  have clock : (continuedIn b d { s with dir := { s.dir with nextNumber := b + 1 } }).clock = s.clock := rfl
  have fits : Filable (continuedIn b d { s with dir := { s.dir with nextNumber := b + 1 } }) { d with continuedBy := some b } :=
    ⟨record, plan⟩
  generalize continuedIn b d _ = u at *
  have filed := endDocument_filed .continued fits
  have course : endDocument d.number .continued u = landDocument d.number .continued u := by
    unfold endDocument
    rw [record]
    exact if_neg (by rw [List.isEmpty_iff]; exact full)
  rw [show ({ d with continuedBy := some b } : Document).number = d.number from rfl, course] at filed
  generalize landDocument d.number .continued u = t at *
  obtain ⟨-, held, opened⟩ := filed.landed full
  refine ⟨by rw [filed.frame]; exact next, (filed.others b apart).trans newcomer, ?_, by rw [filed.frame]; exact lines,
    by rw [filed.frame]; exact clock⟩
  have stands : ∃ (life : Life) (left : Disposition) (entries : List ForwardEntry), findDoc t d.number =
      some { landedAs u { d with continuedBy := some b } .continued with life := life, disposition := left, forwards := entries } := by
    cases hold : d.plan.hold with
    | true => exact ⟨.held, d.disposition, d.forwards, (held hold).1⟩
    | false =>
      obtain ⟨-, left, here, -, -⟩ := opened hold
      exact ⟨.opened, left, _, here⟩
  obtain ⟨life, left, entries, here⟩ := stands
  exact ⟨_, here, rfl, rfl, rfl, rfl, congrArg some (congrArg Clock.cal clock)⟩

/-! ## The verdict is acknowledged -/

section
variable {s : State} {n : LineNo} {rest : List AckWait} {w : Option Wait} {c : RxCall} {d : Document}

/-- The call ends behind the acknowledgment (R91). -/
theorem endReceiving_completed (e : RxEnd) (call : (lineAt s n).call = some ⟨w, .receiver c⟩) (fits : RxFits s n c d) :
    RxEnded s (endReceiving n e true (completed n rest s)) n c d e.outcome (rxClass c e) ∧
    lineAt (endReceiving n e true (completed n rest s)) n = Line.releases { lineAt s n with acks := rest } s.clock.run .release := by
  obtain ⟨ended, -, line, -⟩ := endReceiving_ended (s := completed n rest s) e true (call_completed call)
    (fits.of_lines (completed n rest s).lines)
  rw [lineAt_completed] at line
  exact ⟨RxEnded.of_lines (L := (completed n rest s).lines) ended, line⟩

/-- The channel waits for the next page, or for the page again (R87, R88). -/
theorem lineAt_awaitPage {v : State} (call : (lineAt v n).call = some ⟨w, .receiver c⟩) :
    lineAt (awaitPage n v) n = { lineAt v n with
      chan := .receiving, call := some ⟨some ⟨.receiverSignal, v.clock.run + 6000⟩, .receiver c⟩ } := by
  unfold awaitPage
  rw [lineAt_startWait_setChan, call]
  rfl

theorem documentFull_eq {v : State} (found : findDoc v d.number = some d) : documentFull v d.number = decide (500 ≤ d.pages.length) := by
  unfold documentFull
  rw [found]
  rfl

theorem afterVerdict_accepted {v : State} (document : c.document = some d.number) (found : findDoc v d.number = some d)
    (accepted : c.lastVerdict ≠ some .reject) : afterVerdict n c v =
      if c.lastPage then endReceiving n .lastPage true v
      else if 500 ≤ d.pages.length then pageLimit n d.number v else awaitPage n v := by
  unfold afterVerdict
  rw [if_neg accepted, document]
  dsimp only
  rw [documentFull_eq found]
  simp only [decide_eq_true_eq]

theorem afterVerdict_rejected {v : State} (rejected : c.lastVerdict = some .reject) : afterVerdict n c v =
      if c.lastCause = some .storeFull then endReceiving n .storeFull true v
      else if 3 ≤ c.rejects then endReceiving n .thirdReject true v else awaitPage n v := by
  unfold afterVerdict
  rw [if_pos rejected]
  rfl

theorem rxClass_lastPage (c : RxCall) : rxClass c .lastPage =
    if 3 ≤ c.pages ∧ c.anyReject = false ∧ c.anyRetrain = false ∧ c.trainFails = 0 then .clean else .neutral := by
  unfold rxClass
  simp [and_assoc]

/-! ## Page 500 -/

theorem pageLimit_high {v : State} (doc : Nat) (high : 8128 ≤ v.journal.unreleased) : pageLimit n doc v = endReceiving n .pageLimit true v := by
  unfold pageLimit
  exact if_pos (decide_eq_true high)

theorem pageLimit_continued {v u : State} {doc b : Nat} (low : v.journal.unreleased < 8128) (made : continueDoc doc v = some (u, b)) :
    pageLimit n doc v = awaitPage n (modRx n (fun x => { x with document := some b }) u) := by
  have water : ¬ atHighWater v = true := by unfold atHighWater highWaterMark; simpa using low
  unfold pageLimit
  rw [if_neg water, made]

theorem pageLimit_noRecord {v : State} (found : findDoc v d.number = some d) (low : v.journal.unreleased < 8128)
    (full : 4294967295 < v.dir.nextNumber ∨ (4096 ≤ v.dir.docs.length ∧ NoneLeft v (fun _ => True))) :
    pageLimit n d.number v = endReceiving n .directoryFull true v := by
  have water : ¬ atHighWater v = true := by unfold atHighWater highWaterMark; simpa using low
  unfold pageLimit
  rw [if_neg water, continueDoc_noSlot found (takeSlot_none full)]

theorem findDoc_purgeEvent {v : State} {m : Nat} {x : Document} (oldest : findDoc v m = some x) (k : Nat) (other : k ≠ m) :
    findDoc (purgeEvent m v) k = findDoc v k := by
  rw [findDoc_dir (s := purgeDoc m v) (by rw [purgeEvent_dir]), findDoc_purgeDoc oldest, if_neg other]

/-- With every record in use the oldest document goes first (R30, R47). -/
theorem pageLimit_purges {v : State} {m : Nat} (found : findDoc v d.number = some d) (low : v.journal.unreleased < 8128)
    (numbers : v.dir.nextNumber ≤ 4294967295) (full : v.dir.docs.length = 4096) (other : m ≠ d.number)
    (old : Oldest v (fun _ => True) m) : pageLimit n d.number v = pageLimit n d.number (purgeEvent m v) := by
  obtain ⟨-, x, oldest, -⟩ := old.found
  obtain ⟨⟨u, b⟩, before, after⟩ := takeSlot_purges numbers full old
  have found' : findDoc (purgeEvent m v) d.number = some d := (findDoc_purgeEvent oldest _ (Ne.symm other)).trans found
  have low' : (purgeEvent m v).journal.unreleased < 8128 := by rw [purgeEvent_frame]; exact low
  rw [pageLimit_continued low (continueDoc_slot found before), pageLimit_continued low' (continueDoc_slot found' after)]

theorem completed_purgeEvent {m : Nat} {x : Document} (found : findDoc s m = some x) :
    completed n rest (purgeEvent m s) = purgeEvent m (completed n rest s) := by
  have purged := purgeDoc_beside (s := s) (u := completed n rest s) found rfl rfl
  unfold purgeEvent
  rw [purged, evalPressure_overlay]
  unfold completed
  rw [evalPressure_frame]
  simp only [overlay, recordsWithout, modLine, purgeDoc_lines, purgeDoc_mem, purgeDoc_dram]
  rw [show s.dir.docs.filter (fun x => decide (x.number ≠ m)) = (purgeDoc m s).dir.docs from (purgeDoc_docs found).symm,
    ← purgeDoc_nextNumber m s]

/-- The call goes on in its continuation (R47, R89). -/
theorem pageLimit_continues {v : State} (call : (lineAt v n).call = some ⟨w, .receiver c⟩) (fits : Filable v d) (full : d.pages ≠ [])
    (low : v.journal.unreleased < 8128) (numbers : v.dir.nextNumber ≤ 4294967295) (room : v.dir.docs.length < 4096)
    (free : findDoc v v.dir.nextNumber = none) :
    ∃ u, Continued v u d v.dir.nextNumber ∧ (pageLimit n d.number v).dir = u.dir ∧
      lineAt (pageLimit n d.number v) n = { lineAt v n with
        chan := .receiving, call := some ⟨some ⟨.receiverSignal, v.clock.run + 6000⟩,
          .receiver { c with document := some v.dir.nextNumber }⟩ } := by
  obtain ⟨u, made, goes⟩ := continueDoc_continued fits full numbers room free
  rw [pageLimit_continued low made]
  have here : (lineAt u n).call = some ⟨w, .receiver c⟩ := by rw [lineAt_of_lines goes.lines]; exact call
  rw [modRx_receiver here]
  refine ⟨u, goes, rfl, ?_⟩
  rw [lineAt_awaitPage (w := w) (c := { c with document := some v.dir.nextNumber }) (by rw [lineAt_modLine_self]; rfl),
    lineAt_modLine_self, lineAt_of_lines goes.lines,
    modLine_clock, goes.clock]
  rfl

end

end Sys2Proof.Machine
end

section
/-! The acknowledgments of a line, branch by branch (O57). -/

namespace Sys2Proof.Machine

open Sys2Proof

/-- The next page is awaited behind the acknowledgment (R87, R88). -/
theorem awaitPage_completed {s : State} {n : LineNo} {rest : List AckWait} {w : Option Wait} {c : RxCall}
    (call : (lineAt s n).call = some ⟨w, .receiver c⟩) :
    (awaitPage n (completed n rest s) = { s with lines := (awaitPage n (completed n rest s)).lines } ∧
      OtherLines s (awaitPage n (completed n rest s)) n) ∧
    lineAt (awaitPage n (completed n rest s)) n = { lineAt s n with
      acks := rest, chan := .receiving, call := some ⟨some ⟨.receiverSignal, s.clock.run + 6000⟩, .receiver c⟩ } := by
  refine ⟨⟨rfl, (otherLines_completed n rest s).trans (otherLines_awaitPage n _)⟩, ?_⟩
  rw [lineAt_awaitPage (call_completed (rest := rest) call), lineAt_completed]
  rfl

section
variable {s : State} {n : LineNo} {rest : List AckWait} {a : AckWait} {v : Verdict} {w : Option Wait} {c : RxCall} {d : Document}

/-- The acknowledgment of a verdict on a page that was accepted as the document's last place (R47, R48, R89). -/
theorem afterVerdict_pageLimit {u : State} (document : c.document = some d.number) (found : findDoc u d.number = some d)
    (accepted : c.lastVerdict ≠ some .reject) (more : c.lastPage = false) (full : 500 ≤ d.pages.length) :
    afterVerdict n c u = pageLimit n d.number u := by
  rw [afterVerdict_accepted document found accepted, more, if_neg nofun, if_pos full]

/-- With every record in use the purge of the oldest document comes first, and the acknowledgment behind it is the same (R30, R47). -/
theorem commandAck_purges {m : Nat} (service : (lineAt s n).service ≠ .fault) (reset : (lineAt s n).reset = .none)
    (acks : (lineAt s n).acks = a :: rest) (last : ∀ x ∈ rest, sameKind x.command a.command = false)
    (verdict : a.command = .sendVerdict v) (chan : (lineAt s n).chan = .verdict) (call : (lineAt s n).call = some ⟨w, .receiver c⟩)
    (document : c.document = some d.number) (found : findDoc s d.number = some d) (accepted : c.lastVerdict ≠ some .reject)
    (more : c.lastPage = false) (full : 500 ≤ d.pages.length) (low : s.journal.unreleased < 8128)
    (numbers : s.dir.nextNumber ≤ 4294967295) (records : s.dir.docs.length = 4096) (other : m ≠ d.number)
    (old : Oldest s (fun _ => True) m) : exec (.commandAck n .other) s = exec (.commandAck n .other) (purgeEvent m s) := by
  obtain ⟨-, x, oldest, -⟩ := old.found
  have line : lineAt (purgeEvent m s) n = lineAt s n := lineAt_of_lines (purgeEvent_lines m s) n
  have goes (u : State) (same : lineAt u n = lineAt s n) (here : findDoc u d.number = some d) :
      exec (.commandAck n .other) u = .next (pageLimit n d.number (completed n rest u)) := by
    rw [← same] at service reset acks chan call
    rw [commandAck_completes service reset acks last, verdict, afterAck_sendVerdict _ (call_completed call),
      afterVerdict_pageLimit document (show findDoc (completed n rest u) _ = _ from here) accepted more full]
    rw [lineAt_completed]; exact chan
  rw [goes s rfl found, goes (purgeEvent m s) line ((findDoc_purgeEvent oldest _ (Ne.symm other)).trans found),
    completed_purgeEvent oldest]
  exact congrArg Host.Outcome.next (pageLimit_purges (v := completed n rest s) found low numbers records other old)

end

/-- Settles O57: each acknowledgment completes the oldest command, and the branch of the channel's state follows. -/
theorem acknowledgmentsMoveTheChannelOn : Obligations.AcknowledgmentsMoveTheChannelOn := by
  refine ⟨fun s n => ⟨commandAck_abandoned s n, commandAck_fault⟩, fun s n _ service => ⟨fun reset => ?_, fun reset => ?_,
    fun reset => ?_⟩⟩
  · obtain ⟨ignored, taken⟩ := commandAck_reset service reset
    exact ⟨ignored, afterReset n s, taken, ⟨rfl, (otherLines_modLine n _ s).trans (otherLines_modLine n _ _)⟩,
      lineAt_afterReset service⟩
  · obtain ⟨ignored, taken⟩ := commandAck_present service reset
    exact ⟨ignored, endReset n s, taken, endReset_ends n s⟩
  · obtain ⟨ignored, unasked⟩ := commandAck_unasked service reset
    refine ⟨ignored, unasked, fun a rest acks last => ?_⟩
    have taken := commandAck_completes service reset acks last
    have others : OtherLines s (afterAck n a.command (completed n rest s)) n :=
      (otherLines_completed n rest s).trans (otherLines_afterAck n a.command _)
    have channel {k : Chan} (chan : (lineAt s n).chan = k) : (lineAt (completed n rest s) n).chan = k := by
      rw [lineAt_completed]; exact chan
    refine ⟨_, taken, others, fun digits dial chan => ?_, fun b mark chan => ?_,
      fun x w u d p data chan call found first page clean aligned holds => ?_, fun x w u d p data chan call found first page more => ?_,
      fun v w c d verdict chan call fits => ?_, fun verdict data dial mark => ?_⟩
    · rw [dial, afterAck_dial (channel chan)] at others ⊢
      refine ⟨⟨rfl, others⟩, ?_⟩
      rw [lineAt_startWait_setChan, lineAt_completed]
      rfl
    · rw [mark, afterAck_pageEndMark (channel chan)] at others ⊢
      refine ⟨⟨rfl, others⟩, ?_⟩
      rw [lineAt_startWait_setChan, lineAt_completed]
      rfl
    · rw [data, afterAck_sendPageData (channel chan)] at others ⊢
      by_cases more : u.offset < p.length
      · obtain ⟨bytes, read, length, each⟩ := readSpan_stretch (reader := .send n) (doc := u.document) (size := 256) clean
          (by omega : u.offset % 8192 + 256 ≤ 8192) holds
        obtain ⟨frame, line⟩ := piece_sent (rest := rest) call found page more read
        exact ⟨⟨frame, others⟩, fun _ => ⟨bytes, line, length, each⟩, fun past => absurd more (Nat.not_lt.2 past)⟩
      · obtain ⟨frame, line⟩ := page_ended (rest := rest) call found first page (Nat.not_lt.1 more)
        exact ⟨⟨frame, others⟩, fun before => absurd before more, fun _ => line⟩
    · rw [data, afterAck_sendPageData (channel chan)]
      exact ⟨fun y bytes read => piece_sent call found page more read, fun y read => piece_damaged call found page more read⟩
    · have document := fits.document
      have found : findDoc (completed n rest s) d.number = some d := fits.record
      have ended (e : RxEnd) := endReceiving_completed (rest := rest) e call fits
      have next := awaitPage_completed (rest := rest) call
      rw [verdict, afterAck_sendVerdict (channel chan) (call_completed call)] at others ⊢
      have rejected (no : c.lastVerdict = some .reject) := afterVerdict_rejected (n := n) (v := completed n rest s) no
      have accepted (yes : c.lastVerdict ≠ some .reject) := afterVerdict_accepted (n := n) document found yes
      have limit := afterVerdict_pageLimit (n := n) document found
      refine ⟨fun no full => ?_, fun no room third => ?_, fun no room again => ?_, fun yes final clean => ?_, fun yes final marred => ?_,
        fun yes more room => ?_, fun yes more full high => ?_, fun yes more full low none => ?_,
        fun m yes more full low numbers records other old => ?_, fun yes more full low numbers room free => ?_⟩
      · rw [rejected no, if_pos full]
        exact ended .storeFull
      · rw [rejected no, if_neg room, if_pos third]
        exact ended .thirdReject
      · rw [rejected no, if_neg room, if_neg (Nat.not_le.2 again)]
        exact next
      · rw [accepted yes, if_pos final]
        have := ended .lastPage
        rwa [rxClass_lastPage, if_pos clean] at this
      · rw [accepted yes, if_pos final]
        have := ended .lastPage
        rwa [rxClass_lastPage, if_neg marred] at this
      · rw [accepted yes, more, if_neg nofun, if_neg (Nat.not_le.2 room)]
        exact next
      · rw [limit yes more full, pageLimit_high (v := completed n rest s) d.number high]
        exact ended .pageLimit
      · rw [limit yes more full, pageLimit_noRecord found low none]
        exact ended .directoryFull
      · exact commandAck_purges service reset acks last verdict chan call document fits.record yes more full low numbers records other old
      · rw [limit yes more full]
        obtain ⟨u, ⟨counted, fresh, landed, lines, clock⟩, dir, line⟩ := pageLimit_continues (v := completed n rest s)
          (call_completed call) ⟨found, fits.plan⟩ (by rintro empty; rw [empty] at full; cases full) low numbers room free
        have docs (m : Nat) := findDoc_dir (congrArg Directory.docs dir) m
        rw [lineAt_completed] at line
        exact ⟨by rw [dir]; exact counted, line, ⟨_, (docs _).trans fresh, rfl, rfl, rfl, rfl, rfl, rfl, rfl, rfl, rfl, rfl, rfl, rfl⟩, by
          rw [docs]
          exact landed⟩
    · rw [afterAck_other verdict data dial mark] at others ⊢
      exact ⟨⟨rfl, others⟩, lineAt_completed n rest s⟩

end Sys2Proof.Machine
end
